-- ==== Sys2Proof/Word.lean ====
section
/-! DEFINITION. The word types of the FL418: bytes of both links and frame numbers (R24). -/

namespace Sys2Proof

/-- One byte of a panel or node link frame. -/
abbrev Byte := BitVec 8

/-- A frame number: 0 to 4,294,967,295, then 0 again (R24). -/
abbrev FrameNo := BitVec 32

end Sys2Proof
end

