-- ==== Sys2Proof/Syntax.lean ====
section
/-! DEFINITION. The commands of the FL418: one constructor per row of spec/opcode_table.json, with its operands. -/

namespace Sys2Proof

/-- A unit of the unit table, in unit order JACKS, ROOM0 to ROOM3, AWNING (R8). -/
inductive UnitId where
  | jacks
  | room (r : Fin 4)
  | awning
  deriving DecidableEq, Repr

/-- One of the three filtered coach inputs (R141). -/
inductive InputId where
  | ign
  | park
  | eng
  deriving DecidableEq, Repr

/-- One byte as a line's receiver takes it: its value, and whether its stop bit was sampled at the start level (R29, R169). -/
structure RxByte where
  value : Byte
  framingError : Bool
  deriving DecidableEq, Repr

/-- What the node line carried in one slot after the command frame (R29): no start bit inside the interval from 180 to
260 µs, or a frame whose bytes complete by the end of the slot are listed. -/
inductive SlotReply where
  | silent
  | bytes (l : List RxByte)
  deriving DecidableEq, Repr

/-- A command. `tag` is the TAG byte of a request's frame (R174); the other byte operands of a request are the payload
fields of TABLE 13-4, before any check. -/
inductive Instr where
  /-- POWER_ON (R188): a power-on reset ends; `straps` are LAYOUT3 to LAYOUT0. -/
  | powerOn (straps : BitVec 4)
  /-- RESETN_ASSERT (R24). -/
  | resetnAssert
  /-- RESETN_RELEASE (R24): `straps` are LAYOUT3 to LAYOUT0. -/
  | resetnRelease (straps : BitVec 4)
  /-- START_UP_RUN (R188): the frame end at which DISCOVER ends. -/
  | startUpRun
  /-- NODE_COMMAND_SLOT (R26): the start of slot `n`; slot 0 starts a frame. -/
  | nodeCommandSlot (n : Fin 8)
  /-- SLOT_INTAKE (R29): the end of slot `n`; slot 7 ends a frame. -/
  | slotIntake (n : Fin 8) (reply : SlotReply)
  /-- CONVERSION_SCAN (R76): the frame's three converter codes. -/
  | conversionScan (tx ty vbat : Nat)
  /-- SUPPLY_STATE_CHANGE (R60). -/
  | supplyStateChange
  /-- ATTITUDE_SAMPLE (R77). -/
  | attitudeSample
  /-- SPEED_WINDOW_END (R42): a frame end, for channel `c`. -/
  | speedWindowEnd (c : Fin 16)
  /-- ATTENDANCE_EXPIRY (R15): a frame end, for unit `u`. -/
  | attendanceExpiry (u : UnitId)
  /-- GRANT_WAIT_EXPIRY (R68): a frame end, for the queue entry of unit `u`. -/
  | grantWaitExpiry (u : UnitId)
  /-- OVERDRAW_EXPIRY (R74). -/
  | overdrawExpiry
  /-- RACK_WINDOW_END (R120): a frame end, for room `r`. -/
  | rackWindowEnd (r : Fin 4)
  /-- END_WAIT_EXPIRY (R124): a frame end, for room `r`. -/
  | endWaitExpiry (r : Fin 4)
  /-- CONTACT_TIMEOUT (R96). -/
  | contactTimeout
  /-- SETTLE_TIMEOUT (R97). -/
  | settleTimeout
  /-- LIFT_PASS_TIMEOUT (R102). -/
  | liftPassTimeout
  /-- SUPPORT_TIMEOUT (R106). -/
  | supportTimeout
  /-- STOW_STEP_TIMEOUT (R156). -/
  | stowStepTimeout
  /-- INPUT_ACCEPT (R141): the frame-end sample of input `i`; `level` is true for on, set, running. -/
  | inputAccept (i : InputId) (level : Bool)
  /-- WIND_EDGE (R130): a rising edge at `time` of the free-running 1 µs count. -/
  | windEdge (time : Nat)
  /-- CALM_EXPIRY (R132). -/
  | calmExpiry
  /-- HOLD_OFF_EXPIRY (R139). -/
  | holdOffExpiry
  /-- PANEL_FRAME_RECEIVE (R170): the frame whose last byte has been taken is judged. -/
  | panelFrameReceive
  /-- PANEL_GAP_TIMEOUT (R170). -/
  | panelGapTimeout
  /-- TRANSMIT_DONE (R175): the last byte of the frame in transmission has been sent. -/
  | transmitDone
  /-- LINK_SILENCE_TIMEOUT (R178). -/
  | linkSilenceTimeout
  /-- UNKNOWN_REQUEST (R173): a valid frame with an unknown KIND or a wrong payload length. -/
  | unknownRequest (kind tag : Byte) (payload : List Byte)
  /-- STATUS (R181). -/
  | status (tag : Byte)
  /-- CHANNEL (R23). -/
  | channel (tag id : Byte)
  /-- NODES (R41). -/
  | nodes (tag address : Byte)
  /-- INPUTS (R143). -/
  | inputs (tag : Byte)
  /-- MOVE (R11): a unit's subject byte and a direction byte. -/
  | move (tag subject direction : Byte)
  /-- MOVE_JACK (R13): MOVE naming channel `jack`. -/
  | moveJack (tag : Byte) (jack : Fin 6) (direction : Byte)
  /-- STOP (R17). -/
  | stop (tag subject : Byte)
  /-- STOP_ALL (R18): STOP with subject ALL. -/
  | stopAll (tag : Byte)
  /-- LEVEL (R91). -/
  | level (tag option : Byte)
  /-- LEVEL_ABORT (R94). -/
  | levelAbort (tag : Byte)
  /-- LEVEL_RESULT (R90, R191). -/
  | levelResult (tag part : Byte)
  /-- REFERENCE (R85). -/
  | reference (tag : Byte)
  /-- STOW (R151). -/
  | stow (tag : Byte)
  /-- STOW_RESULT (R150). -/
  | stowResult (tag : Byte)
  /-- GUARD_RESET (R138). -/
  | guardReset (tag : Byte)
  /-- PARAM_GET (R184). -/
  | paramGet (tag id subject : Byte)
  /-- PARAM_SET (R185); `value` is read as signed. -/
  | paramSet (tag id subject : Byte) (value : BitVec 32)
  /-- COMMIT (R187). -/
  | commit (tag : Byte)
  /-- COMMIT_COMPLETE (R187): the store reports the write complete; `agrees` says whether the image read back has a good
  CRC and the content of the copy. -/
  | commitComplete (agrees : Bool)
  /-- COMMIT_TIMEOUT (R187). -/
  | commitTimeout
  /-- FAULTS (R166). -/
  | faults (tag start : Byte)
  /-- FAULT_CLEAR (R164). -/
  | faultClear (tag kind subject : Byte)
  /-- RESET (R189). -/
  | reset (tag : Byte)
  /-- SOFT_RESET (R190). -/
  | softReset
  /-- PANEL_BYTE_RECEIVE (R170): one byte taken from PRXD. -/
  | panelByteReceive (b : RxByte)
  /-- POWER_LOSS (R187). -/
  | powerLoss
  deriving DecidableEq, Repr

end Sys2Proof
end

