-- ==== Sys2Proof/Machine/Params.lean ====
section
/-! DEFINITION. The parameters of TABLE 12-3 and the nonvolatile image (R183, R186): types and defaults. -/

namespace Sys2Proof.Machine

/-- wind-mode (TABLE 8-1). -/
inductive WindMode where
  | latch
  | follow
  deriving DecidableEq, Repr, Inhabited

/-- Coach-scope parameters, ids 1 to 27 of TABLE 12-3, in its units. -/
structure CoachParams where
  attendanceWindow : Nat := 300
  speedWindow : Nat := 16
  supplyLow : Nat := 1160
  supplyCutoff : Nat := 1080
  supplyHigh : Nat := 1550
  supplyHysteresis : Nat := 30
  budgetBattery : Nat := 120
  budgetEngine : Nat := 220
  pumpClaim : Nat := 90
  pumpNeedsEngine : Bool := false
  tiltOffsetX : Nat := 2048
  tiltOffsetY : Nat := 2048
  tiltGainX : Nat := 3072
  tiltGainY : Nat := 3072
  settleBand : Nat := 4
  levelTolerance : Nat := 25
  levelMaxPasses : Nat := 5
  levelDeadband : Nat := 2
  slidesNeedJacks : Bool := true
  autoStow : Bool := false
  stowStepTime : Nat := 60000
  windFactor : Nat := 6670000
  windTrip : Nat := 90
  windHysteresis : Nat := 15
  windMode : WindMode := .latch
  windHoldOff : Nat := 120000
  /-- Bit k enables the notice of KIND 0x40 + k (R191). -/
  noticeMask : BitVec 13 := 0x1FFF
  deriving DecidableEq, Repr, Inhabited

/-- Room parameters, ids 32 to 34. -/
structure RoomParams where
  trimBand : Nat := 8
  rackLimit : Nat := 48
  endWait : Nat := 2000
  deriving DecidableEq, Repr, Inhabited

/-- Motor channel parameters, ids 40 to 51. -/
structure MotorParams where
  travel : Nat := 1800
  claim : Nat := 25
  runDuty : Nat := 200
  creepDuty : Nat := 80
  approachBand : Nat := 120
  stallFloor : Nat := 20
  stallCurrent : Nat := 30
  endBand : Nat := 24
  endTolerance : Nat := 40
  dragLow : Nat := 2
  dragHigh : Nat := 28
  dragLimit : Nat := 60
  deriving DecidableEq, Repr, Inhabited

/-- Jack channel parameters, ids 56 to 61. -/
structure JackParams where
  stroke : Nat := 1100
  jackX : Int := 0
  jackY : Int := 0
  contactThreshold : Nat := 12
  contactHysteresis : Nat := 4
  supportMargin : Nat := 15
  deriving DecidableEq, Repr, Inhabited

/-- The whole parameter set: every parameter of TABLE 12-3 for every subject. `motors` and `jacks` have one entry per
channel id; only the entries of ids that can be of the kind are ever read. -/
structure Params where
  coach : CoachParams
  rooms : Vector RoomParams 4
  motors : Vector MotorParams 16
  jacks : Vector JackParams 16
  deriving DecidableEq, Repr, Inhabited

/-- The nonvolatile image (R186): the set, the layout code it was written under, and whether its CRC-16 is good. -/
structure Image where
  params : Params
  layout : BitVec 4
  crcGood : Bool
  deriving DecidableEq, Repr, Inhabited

/-- TABLE 12-2: LF, RF at x 4200; LR, RR at x −3800; LM, RM at x 200; left y −1100, right y 1100. -/
def defaultJack (c : Fin 16) : JackParams :=
  { jackX := if c.val < 2 then 4200 else if c.val < 4 then -3800 else 200
    jackY := if c.val % 2 = 0 then -1100 else 1100 }

/-- The defaults of R183: room end travel 1800 and claim 25, awning travel 3000 and claim 12. -/
def defaultMotor (c : Fin 16) : MotorParams :=
  if c = 14 then { travel := 3000, claim := 12 } else {}

/-- The defaults of TABLE 12-3 and TABLE 12-2 (R183). -/
def Params.defaults : Params :=
  { coach := {}
    rooms := Vector.replicate 4 {}
    motors := Vector.ofFn defaultMotor
    jacks := Vector.ofFn defaultJack }

end Sys2Proof.Machine
end

