-- ==== Sys2Proof/Machine/State.lean ====
section
/-! DEFINITION. The state of the FL418 block by block (TABLE 0-1), the outcomes' reasons and the state at reset. -/

namespace Sys2Proof.Machine

/-! ## Channels and units (chapter 1, 7) -/

/-- Channel kind (TABLE 1-2). -/
inductive ChanKind where
  | jack | roomEnd | awning | none
  deriving DecidableEq, Repr

/-- Channel role (TABLE 1-1). -/
inductive Role where
  | corner | support | single | front | rear
  deriving DecidableEq, Repr

/-- Channel state (R5). -/
inductive ChanState where
  | disabled | idle | waiting | moving | faulted
  deriving DecidableEq, Repr

/-- Condition codes of a node output (TABLE 13-8). -/
inductive Cond where
  | normal | limitExt | limitRet | overcurrent | overtemp | openLoad
  deriving DecidableEq, Repr

/-- Rest positions (R6, R7, R112). -/
inductive Rest where
  | unknown | stowed | out | partly | down | free
  deriving DecidableEq, Repr

/-- Origin of a unit's work; also the class of its grant, "the class of the origin" (R8). -/
inductive Origin where
  | user | level | stow | wind
  deriving DecidableEq, Repr

/-- Grant class (R8). -/
abbrev GrantClass := Origin

/-- Direction of a motion (TABLE 1-5). -/
inductive Dir where
  | extend | retract
  deriving DecidableEq, Repr

/-- Target of a motion: END, or a position in counts (TABLE 1-5). -/
inductive Target where
  | toEnd
  | at (counts : Int)
  deriving DecidableEq, Repr

/-- Motion end reasons (TABLE 1-8). -/
inductive Reason where
  | target | ended | released | stopped | fault | revoked | preempted | interlock | silence
  deriving DecidableEq, Repr

/-- Fault kinds in the order of TABLE 10-2. -/
inductive FaultKind where
  | nodeLost | descMismatch | overcurrent | openLoad | overtemp | stall | drag | travelMismatch | rack | endMismatch
  | noGround | groundLost | liftTimeout | levelResponse | tiltRange | supplyLow | supplyCutoff | supplyHigh | overdraw
  | windTrip | awningExposed | travelAlarm | linkSilence | storeInvalid
  deriving DecidableEq, Repr

/-- A subject (0.5.5). -/
inductive Subject where
  | coach
  | node (n : Fin 8)
  | chan (c : Fin 16)
  | room (r : Fin 4)
  | unit (u : UnitId)
  deriving DecidableEq, Repr

/-- A motion record (TABLE 1-5). -/
structure Motion where
  dir : Dir
  target : Target
  origin : Origin
  attended : Bool
  deadline : Option FrameNo
  start : FrameNo
  winStart : FrameNo
  winPos : Int
  stallCount : Nat
  graceEnd : FrameNo
  arrived : Bool
  deriving DecidableEq, Repr

/-- A channel record (TABLE 1-2) with the idle window of R42. `current` is in 0.5 A steps (R31). -/
structure Channel where
  kind : ChanKind
  role : Option Role
  state : ChanState
  position : Int
  known : Bool
  speed : Int
  current : Nat
  pressure : Nat
  cond : Cond
  latch : Bool
  extendEnd : Bool
  lock : Option FaultKind
  dragCount : Nat
  dragReported : Bool
  motion : Option Motion
  idleStart : FrameNo
  idlePos : Int
  deriving DecidableEq, Repr

/-- Unit state (R9). -/
inductive UnitState where
  | idle | waiting | active
  deriving DecidableEq, Repr

/-- An entry of a pending list (TABLE 1-4). -/
structure Pending where
  chan : Fin 16
  dir : Dir
  target : Target
  deadline : Option FrameNo
  deriving DecidableEq, Repr

/-- A unit record (TABLE 1-4). The pending list is empty where it is absent. -/
structure UnitRec where
  state : UnitState
  origin : Option Origin
  cls : Option GrantClass
  claim : Option Nat
  pending : List Pending
  deriving DecidableEq, Repr

/-- Room type (TABLE 7-2). -/
inductive RoomType where
  | none | single | twin
  deriving DecidableEq, Repr

/-- An end of a twin room. -/
inductive RoomEnd where
  | front | rear
  deriving DecidableEq, Repr

/-- A room record (TABLE 7-2), with the frames counted in the running window (R128). -/
structure Room where
  type : RoomType
  skew : Int
  skewValid : Bool
  window : Option FrameNo
  overLimit : Nat
  counted : Nat
  firstArrival : Option RoomEnd
  endWait : Option FrameNo
  deriving DecidableEq, Repr

/-- The Channel Controller's state. -/
structure Chc where
  chans : Vector Channel 16
  units : Vector UnitRec 6
  rooms : Vector Room 4
  deriving DecidableEq, Repr

/-! ## Node link (chapter 2) -/

/-- Node state (TABLE 2-4). -/
inductive NodeState where
  | absent | discovering | ready | lost | mismatch
  deriving DecidableEq, Repr

/-- Mismatch causes (TABLE 2-5). -/
inductive MismatchCause where
  | transfer | outputs | kind | c10 | twinC10 | changed
  deriving DecidableEq, Repr

/-- What a descriptor read does at the coming frame starts (R36, R38, R40): nothing pending; an attempt starts in the next
frame; the next frame carries ABORT; this frame carries ABORT and the next starts an attempt. -/
inductive Xfer where
  | none | startNext | abortNext | abort
  deriving DecidableEq, Repr

/-- Drive codes (TABLE 13-7). -/
inductive Drive where
  | off | extend | retract | hold
  deriving DecidableEq, Repr

/-- Message control of a command frame (TABLE 13-7). -/
inductive MsgCtl where
  | idle | reqDesc | abort
  deriving DecidableEq, Repr

/-- The drive code and duty of one output. -/
structure OutCmd where
  drive : Drive
  duty : Nat
  deriving DecidableEq, Repr

/-- A command image (R26). -/
structure CmdImage where
  outA : OutCmd
  outB : OutCmd
  ctl : MsgCtl
  data : Nat
  deriving DecidableEq, Repr

/-- Per-output measurement state of a node table entry (TABLE 2-5). -/
structure OutRec where
  lastCount : Option (BitVec 16)
  candidate : Option Cond
  deriving DecidableEq, Repr

/-- A node table entry (TABLE 2-5) with its command image and the step of its descriptor read. -/
structure Node where
  state : NodeState
  misses : Nat
  good : Nat
  desc : Option (List Byte)
  cause : Option MismatchCause
  retry : Nat
  cursor : Option Nat
  scratch : List Byte
  outA : OutRec
  outB : OutRec
  missTotal : Nat
  xfer : Xfer
  image : CmdImage
  deriving DecidableEq, Repr

/-- The Node Link Controller's state: the node table, the slot in progress, the command frame sent in it and NLDE. -/
structure Nlc where
  nodes : Vector Node 8
  slot : Option (Fin 8)
  sent : Option (List Byte)
  nlde : Bool
  deriving DecidableEq, Repr

/-! ## Supply and grants (chapter 4) -/

/-- Supply states (TABLE 4-2). -/
inductive Supply where
  | normal | low | high | cutoff
  deriving DecidableEq, Repr

/-- The persistence counts of the six conditions of TABLE 4-1. -/
structure SupplyCounts where
  belowCutoff : Nat
  belowLow : Nat
  aboveHigh : Nat
  clearOfCutoff : Nat
  clearOfLow : Nat
  clearOfHigh : Nat
  deriving DecidableEq, Repr

/-- A grant queue entry (TABLE 4-4). -/
structure QEntry where
  unit : UnitId
  cls : GrantClass
  claim : Nat
  arrival : FrameNo
  deriving DecidableEq, Repr

/-- A grant set entry (TABLE 4-4). -/
structure GEntry where
  unit : UnitId
  cls : GrantClass
  claim : Nat
  order : Nat
  deriving DecidableEq, Repr

/-- The Supply and Grant Unit's state (TABLE 4-6). -/
structure Sgu where
  batHist : List Nat
  batAvg : Nat
  supply : Supply
  counts : SupplyCounts
  budget : Nat
  queue : List QEntry
  grants : List GEntry
  nextOrder : Nat
  overdraw : Nat
  pump : Bool
  deriving DecidableEq, Repr

/-! ## Attitude (chapter 5) -/

/-- Attitude record states. -/
inductive AttState where
  | invalid | unsettled | settled
  deriving DecidableEq, Repr

/-- The attitude record (TABLE 5-3). -/
structure Attitude where
  state : AttState
  pitch : Int
  roll : Int
  clamped : Bool
  rawX : Nat
  rawY : Nat
  histP : List Int
  histR : List Int
  deriving DecidableEq, Repr

/-- The capture record (TABLE 5-6). The least and greatest values are absent before the first sample; `skip` says that the
next sample is that of the block in progress at the request (R85). -/
structure Capture where
  samples : Nat
  sumX : Nat
  sumY : Nat
  rangeX : Option (Nat × Nat)
  rangeY : Option (Nat × Nat)
  skip : Bool
  deriving DecidableEq, Repr

/-- The Attitude Unit's state (TABLE 5-8). `scanned` says whether the current frame's codes have been taken. -/
structure Atu where
  accX : Nat
  accY : Nat
  blockCount : Nat
  scanned : Bool
  record : Attitude
  capture : Option Capture
  deriving DecidableEq, Repr

/-! ## Levelling (chapter 6) -/

/-- Level sequence states (TABLE 6-1). -/
inductive LvState where
  | idle | contact | settling | lifting | support
  deriving DecidableEq, Repr

/-- Level outcomes (R90). -/
inductive LvOutcome where
  | none | level | bestEffort | notLevel | aborted | failed
  deriving DecidableEq, Repr

/-- Causes of a level or stow failure (TABLE 13-3). -/
inductive Cause where
  | none
  | fault (k : FaultKind)
  | revoked | supply | interlock | notStowed | timeout | stopped | unstable
  deriving DecidableEq, Repr

/-- One entry of the pass plan (TABLE 6-3); the target is absent where the jack is dropped. -/
structure PlanEntry where
  before : Int
  height : Int
  lift : Int
  counts : Int
  target : Option Int
  clamped : Bool
  deriving DecidableEq, Repr

/-- The level sequence record (TABLE 6-3). `option`, `samples`, `passes`, `misses` and `clamped` hold off, 0 and clear
where the record's field is absent; `recorded` is the failure cause already recorded (R96, R102, R104, R106). -/
structure LvSeq where
  state : LvState
  option : Bool
  phaseStart : Option FrameNo
  samples : Nat
  passes : Nat
  misses : Nat
  prev : Option (Int × Int)
  pending : Option LvOutcome
  clamped : Bool
  plan : Option (List PlanEntry)
  recorded : Option Cause
  deriving DecidableEq, Repr

/-- The level result record (R90); `positions` lists the populated jack channels' positions in channel order. -/
structure LvResult where
  outcome : LvOutcome
  cause : Cause
  endedIn : Option LvState
  passes : Nat
  pitch : Int
  roll : Int
  clamped : Bool
  positions : List (Fin 16 × Int)
  deriving DecidableEq, Repr

/-- The Levelling Sequencer's state. -/
structure Lvs where
  seq : LvSeq
  result : LvResult
  deriving DecidableEq, Repr

/-! ## Wind guard (chapter 8) -/

/-- Guard states (TABLE 8-2). -/
inductive GuardState where
  | armed | tripped | holdOff
  deriving DecidableEq, Repr

/-- Retract states (TABLE 8-2). -/
inductive RetractState where
  | none | notNeeded | deferred | requested | covered | done | stopped | failed
  deriving DecidableEq, Repr

/-- The guard record (TABLE 8-2) and the calm timer's start (R132). -/
structure Wgd where
  state : GuardState
  trips : Nat
  speed : Nat
  lastPeriod : Option Nat
  lastEdge : Option Nat
  calmStart : Option FrameNo
  holdOff : Option FrameNo
  retract : RetractState
  bypassed : Bool
  deriving DecidableEq, Repr

/-! ## Coach interlocks and stowing (chapter 9) -/

/-- One filtered input (R141). -/
structure Input where
  accepted : Option Bool
  last : Bool
  run : Nat
  changed : Bool
  deriving DecidableEq, Repr

/-- Stow sequence states (TABLE 9-4). -/
inductive StowState where
  | idle | awning | rooms | jacks
  deriving DecidableEq, Repr

/-- Stow triggers (TABLE 9-5). -/
inductive Trigger where
  | request | auto
  deriving DecidableEq, Repr

/-- Stow outcomes (TABLE 9-5). -/
inductive StowOutcome where
  | none | complete | failed | aborted
  deriving DecidableEq, Repr

/-- The stow sequence record (TABLE 9-5). -/
structure StowSeq where
  state : StowState
  trigger : Option Trigger
  stepStart : Option FrameNo
  awaited : List UnitId
  deriving DecidableEq, Repr

/-- The stow result record (TABLE 9-5). -/
structure StowResult where
  outcome : StowOutcome
  trigger : Option Trigger
  step : Option StowState
  cause : Cause
  subject : Option Subject
  deriving DecidableEq, Repr

/-- The Coach Interlock Unit's state. `travel` is the TRAVEL line, `alarm` the travel alarm and the ALARM line. -/
structure Ciu where
  ign : Input
  park : Input
  eng : Input
  travel : Bool
  alarm : Bool
  stow : StowSeq
  result : StowResult
  deriving DecidableEq, Repr

/-! ## Fault list (chapter 10) -/

/-- Severities (TABLE 10-2). -/
inductive Severity where
  | warn | stop | lock
  deriving DecidableEq, Repr

/-- A fault entry (TABLE 10-1). -/
structure FaultEntry where
  kind : FaultKind
  subject : Subject
  severity : Severity
  present : Bool
  first : FrameNo
  last : FrameNo
  count : Nat
  deriving DecidableEq, Repr

/-- The Fault List's state. -/
structure Flt where
  entries : List FaultEntry
  lost : Bool
  deriving DecidableEq, Repr

/-! ## Panel link (chapter 11) -/

/-- Receiver states (R170). -/
inductive RxState where
  | hunt | length | body
  deriving DecidableEq, Repr

/-- A panel frame's body: KIND, TAG and payload (TABLE 13-1). -/
structure Frame where
  kind : Byte
  tag : Byte
  payload : List Byte
  deriving DecidableEq, Repr

/-- Reset causes (R180). -/
inductive ResetCause where
  | none | power | line | soft
  deriving DecidableEq, Repr

/-- Outcomes of the image load (R186). -/
inductive ImageOutcome where
  | image | defaultsLayout | defaultsCrc
  deriving DecidableEq, Repr

/-- The thirteen notices with their content (TABLE 13-6). -/
inductive Notice where
  | restarted (cause : ResetCause) (layout : BitVec 4) (outcome : ImageOutcome)
  | motionEnd (u : UnitId) (why : Reason)
  | levelStatus (state : LvState) (passes pass : Nat) (prev : Option (Int × Int))
  | levelDone (outcome : LvOutcome) (cause : Cause) (endedIn : LvState) (passes : Nat) (pitch roll : Int) (clamped : Bool)
  | referenceDone (ok : Bool) (samples spreadX spreadY offsetX offsetY : Nat)
  | stowStatus (state : StowState) (trigger : Option Trigger) (awaited : List UnitId)
  | stowDone (outcome : StowOutcome) (trigger : Option Trigger) (step : Option StowState) (cause : Cause)
      (subject : Option Subject)
  | windGuard (new old : GuardState) (speed : Nat) (retract : RetractState)
  | inputChange (i : InputId) (new old : Bool)
  | supplyChange (new old : Supply) (average : Nat)
  | faultRaised (k : FaultKind) (subject : Subject) (severity : Severity) (present : Bool) (count : Nat)
      (index : Option Nat)
  | faultGone (k : FaultKind) (subject : Subject) (index : Nat)
  | commitDone (ok : Bool)
  deriving DecidableEq, Repr

/-- The frame in transmission: its bytes from SYNC to CRC, and whether it is the reply of the reply slot (R175). -/
structure TxFrame where
  isReply : Bool
  bytes : List Byte
  deriving DecidableEq, Repr

/-- The Panel Link Interface's state (TABLE 11-1). `rxLen` and `rxBytes` are the frame being received; a receiver in BODY
with all its bytes taken holds a complete frame not yet judged. `restartCause` is the cause kept for RESTARTED (R180);
`resetPending` says that a RESET has been answered and not yet acted (R189). -/
structure Pli where
  rx : RxState
  rxLen : Nat
  rxBytes : List Byte
  gapStart : Option FrameNo
  holding : List Frame
  slot : Option Frame
  notices : List (Byte × Notice)
  seq : Byte
  lost : Bool
  silenceStart : Option FrameNo
  silent : Bool
  resetCause : ResetCause
  restartCause : ResetCause
  crcErrors : Nat
  lengthErrors : Nat
  brokenFrames : Nat
  overruns : Nat
  tx : Option TxFrame
  resetPending : Bool
  deriving DecidableEq, Repr

/-! ## Settings (chapter 12) -/

/-- Start-up phases (R188). -/
inductive Phase where
  | load | discover | run
  deriving DecidableEq, Repr

/-- A commit in flight (R187). -/
structure Commit where
  copy : Params
  layout : BitVec 4
  start : FrameNo
  deriving DecidableEq, Repr

/-- The Settings Store's state. `ref` is the set last loaded from or committed to the image (R184). -/
structure Sst where
  layoutCode : BitVec 4
  phase : Phase
  params : Params
  image : Image
  outcome : ImageOutcome
  ref : Option Params
  commit : Option Commit
  deriving DecidableEq, Repr

/-! ## The whole part -/

/-- Off: no power-on reset has ended since the supply was lost. LineReset: RESETn is held low (R24). -/
inductive Mode where
  | off | lineReset | running
  deriving DecidableEq, Repr

/-- The state of the FL418. `frameFresh`: frame 0 has begun and its slot 0 has not. `frameOver`: slot 7 has ended and the
next frame has not begun (R1, R24). `restartFrame`: the next frame is frame 0 of a soft reset (R24). `pending` is the queue of waiting commands and `freeCount` the counter of free values: both are the
model's own. -/
structure State where
  mode : Mode
  frame : FrameNo
  frameFresh : Bool
  frameOver : Bool
  restartFrame : Bool
  chc : Chc
  nlc : Nlc
  sgu : Sgu
  atu : Atu
  lvs : Lvs
  wgd : Wgd
  ciu : Ciu
  flt : Flt
  pli : Pli
  sst : Sst
  pending : List Instr
  freeCount : Nat
  deriving DecidableEq, Repr

/-- Faults of the MODEL. No command raises one: the manual gives every command an effect. -/
inductive Fault where
  /-- Raised by nothing; safe. The type needs a value so that an outcome can be written. -/
  | unreachable
  deriving DecidableEq, Repr

/-- Refusals of the MODEL. -/
inductive Refusal where
  /-- Raised by an arm of `exec` that has no meaning yet; no arm is left so. Safe: the model stops. -/
  | notModelled (mnemonic : String)
  deriving DecidableEq, Repr

/-! ## Values at reset -/

/-- TABLE 1-2, middle column, for a slot with kind NONE. -/
def Channel.reset : Channel :=
  { kind := .none, role := none, state := .disabled, position := 0, known := false, speed := 0, current := 0,
    pressure := 0, cond := .normal, latch := false, extendEnd := false, lock := none, dragCount := 0,
    dragReported := false, motion := none, idleStart := 0, idlePos := 0 }

/-- TABLE 1-4. -/
def UnitRec.reset : UnitRec :=
  { state := .idle, origin := none, cls := none, claim := none, pending := [] }

/-- TABLE 7-2. -/
def Room.reset : Room :=
  { type := .none, skew := 0, skewValid := false, window := none, overLimit := 0, counted := 0, firstArrival := none,
    endWait := none }

/-- Output OFF with duty 0. -/
def OutCmd.off : OutCmd := { drive := .off, duty := 0 }

/-- Both outputs OFF, message control IDLE (R26). -/
def CmdImage.off : CmdImage := { outA := .off, outB := .off, ctl := .idle, data := 0 }

/-- No last count and no candidate (TABLE 2-5). -/
def OutRec.reset : OutRec := { lastCount := none, candidate := none }

/-- TABLE 2-5 for an ABSENT node. -/
def Node.reset : Node :=
  { state := .absent, misses := 0, good := 0, desc := none, cause := none, retry := 0, cursor := none, scratch := [],
    outA := .reset, outB := .reset, missTotal := 0, xfer := .none, image := .off }

/-- All counts 0 (R59). -/
def SupplyCounts.zero : SupplyCounts :=
  { belowCutoff := 0, belowLow := 0, aboveHigh := 0, clearOfCutoff := 0, clearOfLow := 0, clearOfHigh := 0 }

/-- TABLE 4-6, with B from a parameter set. -/
def Sgu.reset (budget : Nat) : Sgu :=
  { batHist := [], batAvg := 0, supply := .normal, counts := .zero, budget := budget, queue := [], grants := [],
    nextOrder := 0, overdraw := 0, pump := false }

/-- TABLE 5-3, power-on column. -/
def Attitude.reset : Attitude :=
  { state := .unsettled, pitch := 0, roll := 0, clamped := false, rawX := 0, rawY := 0, histP := [], histR := [] }

/-- TABLE 5-8. -/
def Atu.reset : Atu :=
  { accX := 0, accY := 0, blockCount := 0, scanned := false, record := .reset, capture := none }

/-- TABLE 6-3, right-hand column. -/
def LvSeq.reset : LvSeq :=
  { state := .idle, option := false, phaseStart := none, samples := 0, passes := 0, misses := 0, prev := none,
    pending := none, clamped := false, plan := none, recorded := none }

/-- R90 after every reset: NONE, and "the other fields are 0 or absent". Which are 0 and which absent is a DESIGN CHOICE, log
entry 68. -/
def LvResult.reset : LvResult :=
  { outcome := .none, cause := .none, endedIn := none, passes := 0, pitch := 0, roll := 0, clamped := false,
    positions := [] }

/-- TABLE 8-4. -/
def Wgd.reset : Wgd :=
  { state := .armed, trips := 0, speed := 0, lastPeriod := none, lastEdge := none, calmStart := none, holdOff := none,
    retract := .none, bypassed := false }

/-- R141 after power-on; the last sample is a choice of the model. -/
def Input.reset : Input := { accepted := none, last := false, run := 0, changed := false }

/-- TABLE 9-5, right-hand column. -/
def StowSeq.reset : StowSeq := { state := .idle, trigger := none, stepStart := none, awaited := [] }

/-- TABLE 9-5, right-hand column. -/
def StowResult.reset : StowResult :=
  { outcome := .none, trigger := none, step := none, cause := .none, subject := none }

/-- R141, R147, R148, R150. -/
def Ciu.reset : Ciu :=
  { ign := .reset, park := .reset, eng := .reset, travel := false, alarm := false, stow := .reset, result := .reset }

/-- R158. -/
def Flt.reset : Flt := { entries := [], lost := false }

/-- TABLE 11-1 with the cause of the reset. -/
def Pli.reset (cause : ResetCause) : Pli :=
  { rx := .hunt, rxLen := 0, rxBytes := [], gapStart := none, holding := [], slot := none, notices := [], seq := 0,
    lost := false,
    silenceStart := none, silent := false, resetCause := cause, restartCause := cause, crcErrors := 0,
    lengthErrors := 0, brokenFrames := 0, overruns := 0, tx := none, resetPending := false }

/-- An erased store: its CRC is bad (R186). -/
def Image.erased : Image := { params := .defaults, layout := 0, crcGood := false }

/-- The Settings Store before LOAD, with the image the store holds. -/
def Sst.reset (image : Image) : Sst :=
  { layoutCode := 0, phase := .load, params := .defaults, image := image, outcome := .defaultsCrc, ref := none,
    commit := none }

/-- Every block's reset values with nothing populated: the part while no frame runs. -/
def State.blank (mode : Mode) (cause : ResetCause) (image : Image) (pending : List Instr) (freeCount : Nat) : State :=
  { mode := mode, frame := 0, frameFresh := false, frameOver := false, restartFrame := false
    chc := { chans := Vector.replicate 16 .reset, units := Vector.replicate 6 .reset, rooms := Vector.replicate 4 .reset }
    nlc := { nodes := Vector.replicate 8 .reset, slot := none, sent := none, nlde := false }
    sgu := .reset Params.defaults.coach.budgetBattery
    atu := .reset
    lvs := { seq := .reset, result := .reset }
    wgd := .reset
    ciu := .reset
    flt := .reset
    pli := .reset cause
    sst := .reset image
    pending := pending
    freeCount := freeCount }

/-- The machine as the host starts it: the power-on reset has not ended, and the store is erased. POWER_ON starts frame 0. -/
def State.reset : State := State.blank .off .power .erased [] 0

end Sys2Proof.Machine
end

