-- ==== Sys2Proof/Machine/Operands.lean ====
section
/-! DEFINITION. Codes and field encodings of chapter 13: integers in bytes, subjects, enumerations, the two CRCs. -/

namespace Sys2Proof.Machine

/-! ## Fields (R191: most significant byte first, two's complement) -/

/-- A one-byte field. -/
def u8 (n : Nat) : List Byte := [BitVec.ofNat 8 n]

/-- A two-byte field. -/
def u16 (n : Nat) : List Byte := [BitVec.ofNat 8 (n / 256), BitVec.ofNat 8 n]

/-- A four-byte field. -/
def u32 (n : Nat) : List Byte :=
  [BitVec.ofNat 8 (n / 16777216), BitVec.ofNat 8 (n / 65536), BitVec.ofNat 8 (n / 256), BitVec.ofNat 8 n]

/-- A signed two-byte field. -/
def i16 (z : Int) : List Byte := u16 (z % 65536).toNat

/-- A signed four-byte field. -/
def i32 (z : Int) : List Byte := u32 (z % 4294967296).toNat

/-- A flag (TABLE 13-3). -/
def flag (b : Bool) : List Byte := u8 (if b then 1 else 0)

/-- An unsigned one-byte field that may be absent: all ones (R191). -/
def optU8 : Option Nat → List Byte
  | none => u8 0xFF
  | some n => u8 n

/-- An unsigned four-byte field that may be absent. -/
def optU32 : Option Nat → List Byte
  | none => u32 0xFFFFFFFF
  | some n => u32 n

/-- A signed two-byte field that may be absent: the most negative value (R191). -/
def optI16 : Option Int → List Byte
  | none => i16 (-32768)
  | some z => i16 z

/-- A signed four-byte field that may be absent. -/
def optI32 : Option Int → List Byte
  | none => i32 (-2147483648)
  | some z => i32 z

/-- The signed four-byte value of a request (PARAM_SET). -/
def be32 (b3 b2 b1 b0 : Byte) : BitVec 32 := b3 ++ b2 ++ b1 ++ b0

/-- The four bytes of a 32-bit value, high byte first. -/
def bytes32 (v : BitVec 32) : List Byte :=
  [v.extractLsb' 24 8, v.extractLsb' 16 8, v.extractLsb' 8 8, v.extractLsb' 0 8]

/-! ## Units and subjects -/

/-- The place of a unit in the unit order of R8. -/
def unitIdx : UnitId → Fin 6
  | .jacks => 0
  | .room r => ⟨r.val + 1, by omega⟩
  | .awning => 5

/-- The units in unit order (R8). -/
def allUnits : List UnitId := [.jacks, .room 0, .room 1, .room 2, .room 3, .awning]

/-- Subject bytes (TABLE 13-3). -/
def subjectCode : Subject → Nat
  | .coach => 0
  | .node n => 0x10 + n.val
  | .chan c => 0x20 + c.val
  | .room r => 0x30 + r.val
  | .unit u => 0x40 + (unitIdx u).val

/-- The subject that a byte names, if any (TABLE 13-3); 0xFF is none of them. -/
def subjectOf (b : Byte) : Option Subject :=
  let n := b.toNat
  if n = 0 then some .coach
  else if h : 0x10 ≤ n ∧ n < 0x18 then some (.node ⟨n - 0x10, by omega⟩)
  else if h : 0x20 ≤ n ∧ n < 0x30 then some (.chan ⟨n - 0x20, by omega⟩)
  else if h : 0x30 ≤ n ∧ n < 0x34 then some (.room ⟨n - 0x30, by omega⟩)
  else if n = 0x40 then some (.unit .jacks)
  else if h : 0x41 ≤ n ∧ n < 0x45 then some (.unit (.room ⟨n - 0x41, by omega⟩))
  else if n = 0x45 then some (.unit .awning)
  else none

/-- The unit that a byte names, if any. -/
def unitOf (b : Byte) : Option UnitId :=
  match subjectOf b with
  | some (.unit u) => some u
  | _ => none

/-- A subject that may be none. -/
def optSubject : Option Subject → List Byte
  | none => u8 0xFF
  | some s => u8 (subjectCode s)

/-- The subject of a fault in FAULT_RAISED, FAULT_GONE and FAULTS, and the unit of MOTION_END. The subject of a coach fault is
sent as 0x00, the code TABLE 13-3 gives the coach, and not as all ones, though TABLE 10-1 and R167 call it absent (DEDUCED, log
entry 65). -/
def subjectByte (s : Subject) : List Byte := u8 (subjectCode s)

/-- Direction bytes (TABLE 13-3). -/
def dirOf (b : Byte) : Option Dir :=
  if b = 1 then some .extend else if b = 2 then some .retract else none

/-! ## Enumerations (TABLE 13-3, else in the order of the defining table) -/

def Dir.code : Dir → Nat
  | .extend => 1 | .retract => 2

def ChanKind.code : ChanKind → Nat
  | .jack => 0 | .roomEnd => 1 | .awning => 2 | .none => 3

def Role.code : Role → Nat
  | .corner => 0 | .support => 1 | .single => 2 | .front => 3 | .rear => 4

def ChanState.code : ChanState → Nat
  | .disabled => 0 | .idle => 1 | .waiting => 2 | .moving => 3 | .faulted => 4

def Cond.code : Cond → Nat
  | .normal => 0 | .limitExt => 1 | .limitRet => 2 | .overcurrent => 3 | .overtemp => 4 | .openLoad => 5

/-- The condition of a code (TABLE 13-8); none above 5. -/
def Cond.ofCode : Nat → Option Cond
  | 0 => some .normal | 1 => some .limitExt | 2 => some .limitRet | 3 => some .overcurrent
  | 4 => some .overtemp | 5 => some .openLoad | _ => none

/-- Rest positions as one enumeration: R6's four in R6's order, then R7's DOWN and FREE (R191). A jack's STOWED and a room's
positions (R112, which lists them in another order) take the same codes (DESIGN CHOICE, log entry 60). -/
def Rest.code : Rest → Nat
  | .unknown => 0 | .stowed => 1 | .out => 2 | .partly => 3 | .down => 4 | .free => 5

def Origin.code : Origin → Nat
  | .user => 0 | .level => 1 | .stow => 2 | .wind => 3

def UnitState.code : UnitState → Nat
  | .idle => 0 | .waiting => 1 | .active => 2

def Reason.code : Reason → Nat
  | .target => 1 | .ended => 2 | .released => 3 | .stopped => 4 | .fault => 5 | .revoked => 6 | .preempted => 7
  | .interlock => 8 | .silence => 9

def FaultKind.code : FaultKind → Nat
  | .nodeLost => 1 | .descMismatch => 2 | .overcurrent => 3 | .openLoad => 4 | .overtemp => 5 | .stall => 6
  | .drag => 7 | .travelMismatch => 8 | .rack => 9 | .endMismatch => 10 | .noGround => 11 | .groundLost => 12
  | .liftTimeout => 13 | .levelResponse => 14 | .tiltRange => 15 | .supplyLow => 16 | .supplyCutoff => 17
  | .supplyHigh => 18 | .overdraw => 19 | .windTrip => 20 | .awningExposed => 21 | .travelAlarm => 22
  | .linkSilence => 23 | .storeInvalid => 24

/-- The kinds in the order of TABLE 10-2. -/
def allKinds : List FaultKind :=
  [.nodeLost, .descMismatch, .overcurrent, .openLoad, .overtemp, .stall, .drag, .travelMismatch, .rack, .endMismatch,
   .noGround, .groundLost, .liftTimeout, .levelResponse, .tiltRange, .supplyLow, .supplyCutoff, .supplyHigh, .overdraw,
   .windTrip, .awningExposed, .travelAlarm, .linkSilence, .storeInvalid]

/-- The kind of a code 1 to 24 (TABLE 13-3). -/
def FaultKind.ofCode (n : Nat) : Option FaultKind := allKinds.find? (fun k => k.code = n)

def Severity.code : Severity → Nat
  | .warn => 0 | .stop => 1 | .lock => 2

def Cause.code : Cause → Nat
  | .none => 0 | .fault k => k.code | .revoked => 0x81 | .supply => 0x82 | .interlock => 0x84 | .notStowed => 0x85
  | .timeout => 0x86 | .stopped => 0x87 | .unstable => 0x88

def RoomType.code : RoomType → Nat
  | .none => 0 | .single => 1 | .twin => 2

def RoomEnd.code : RoomEnd → Nat
  | .front => 0 | .rear => 1

def NodeState.code : NodeState → Nat
  | .absent => 0 | .discovering => 1 | .ready => 2 | .lost => 3 | .mismatch => 4

def MismatchCause.code : MismatchCause → Nat
  | .transfer => 0 | .outputs => 1 | .kind => 2 | .c10 => 3 | .twinC10 => 4 | .changed => 5

def Drive.code : Drive → Nat
  | .off => 0 | .extend => 1 | .retract => 2 | .hold => 3

def MsgCtl.code : MsgCtl → Nat
  | .idle => 0 | .reqDesc => 1 | .abort => 2

def Supply.code : Supply → Nat
  | .normal => 0 | .low => 1 | .high => 2 | .cutoff => 3

def AttState.code : AttState → Nat
  | .invalid => 0 | .unsettled => 1 | .settled => 2

def LvState.code : LvState → Nat
  | .idle => 0 | .contact => 1 | .settling => 2 | .lifting => 3 | .support => 4

def LvOutcome.code : LvOutcome → Nat
  | .none => 0 | .level => 1 | .bestEffort => 2 | .notLevel => 3 | .aborted => 4 | .failed => 5

def GuardState.code : GuardState → Nat
  | .armed => 0 | .tripped => 1 | .holdOff => 2

def RetractState.code : RetractState → Nat
  | .none => 0 | .notNeeded => 1 | .deferred => 2 | .requested => 3 | .covered => 4 | .done => 5 | .stopped => 6
  | .failed => 7

def WindMode.code : WindMode → Nat
  | .latch => 0 | .follow => 1

def StowState.code : StowState → Nat
  | .idle => 0 | .awning => 1 | .rooms => 2 | .jacks => 3

/-- "step reached" lists AWNING, ROOMS, JACKS (TABLE 9-5): 0, 1, 2. IDLE is never reached as a step. -/
def StowState.stepCode : StowState → Nat
  | .idle => 0xFF | .awning => 0 | .rooms => 1 | .jacks => 2

def Trigger.code : Trigger → Nat
  | .request => 0 | .auto => 1

def StowOutcome.code : StowOutcome → Nat
  | .none => 0 | .complete => 1 | .failed => 2 | .aborted => 3

def inputCode : InputId → Nat
  | .ign => 0 | .park => 1 | .eng => 2

def ResetCause.code : ResetCause → Nat
  | .none => 0 | .power => 1 | .line => 2 | .soft => 3

def Phase.code : Phase → Nat
  | .load => 0 | .discover => 1 | .run => 2

def ImageOutcome.code : ImageOutcome → Nat
  | .image => 0 | .defaultsLayout => 1 | .defaultsCrc => 2

/-- Result codes (TABLE 13-3). -/
inductive Result where
  | ok | okClamped | okStopped | busy | notReady | badRequest | badSubject | interlock | supply | wind | windPresent
  | faulted | nodeLost | stillPresent | geometry
  deriving DecidableEq, Repr

def Result.code : Result → Nat
  | .ok => 0 | .okClamped => 1 | .okStopped => 2 | .busy => 3 | .notReady => 4 | .badRequest => 5 | .badSubject => 6
  | .interlock => 7 | .supply => 8 | .wind => 9 | .windPresent => 10 | .faulted => 11 | .nodeLost => 12
  | .stillPresent => 13 | .geometry => 14

/-- The permits an INTERLOCK reply can name (TABLE 13-3). -/
inductive Permit where
  | motionAny | slideExtend | awningExtend | level | jackRetract | alarm | engine | attitude | homed
  deriving DecidableEq, Repr

def Permit.code : Permit → Nat
  | .motionAny => 1 | .slideExtend => 2 | .awningExtend => 3 | .level => 4 | .jackRetract => 5 | .alarm => 6
  | .engine => 7 | .attitude => 8 | .homed => 9

/-! ## The CRCs (R191, R192) -/

/-- Eight applications, one for each bit of a byte. -/
def eight {α : Type} (f : α → α) (x : α) : α := f (f (f (f (f (f (f (f x)))))))

/-- One bit of the CRC-16 with polynomial 0x1021. -/
def crc16Bit (c : BitVec 16) : BitVec 16 := if c.msb then (c <<< 1) ^^^ 0x1021#16 else c <<< 1

/-- The CRC-16 of R191: start 0xFFFF, most significant bit first, no final inversion. -/
def crc16 (l : List Byte) : BitVec 16 :=
  l.foldl (fun c b => eight crc16Bit (c ^^^ (b ++ 0#8 : BitVec 16))) 0xFFFF#16

/-- One bit of the CRC-8 with polynomial 0x07. -/
def crc8Bit (c : BitVec 8) : BitVec 8 := if c.msb then (c <<< 1) ^^^ 0x07#8 else c <<< 1

/-- The CRC-8 of R192: start 0, most significant bit first, no final inversion. -/
def crc8 (l : List Byte) : BitVec 8 := l.foldl (fun c b => eight crc8Bit (c ^^^ b)) 0#8

/-! ## Panel frames (TABLE 13-1) -/

/-- LEN, KIND, TAG and payload: the bytes the CRC-16 covers. -/
def Frame.body (f : Frame) : List Byte := u8 (f.payload.length + 2) ++ (f.kind :: f.tag :: f.payload)

/-- The whole frame from SYNC to CRC. -/
def Frame.bytes (f : Frame) : List Byte :=
  let crc := crc16 f.body
  [0xA5#8] ++ f.body ++ [crc.extractLsb' 8 8, crc.extractLsb' 0 8]

/-- The frame that LEN and LEN + 2 bytes spell, when its CRC agrees (R170). -/
def frameOf (len : Nat) (l : List Byte) : Option Frame :=
  match l.take len, l.drop len with
  | kind :: tag :: payload, [hi, lo] =>
    if crc16 (u8 len ++ (kind :: tag :: payload)) = hi ++ lo then some { kind := kind, tag := tag, payload := payload }
    else none
  | _, _ => none

end Sys2Proof.Machine
end

