-- ==== Sys2Proof/Decode.lean ====
section
/-! DEFINITION. Requests of the panel link: the command a frame's KIND and payload spell (TABLE 13-4), the frame a request
command arrives as, and `decodeTableWord`. -/

namespace Sys2Proof

open Machine

/-- The request of a frame (TABLE 13-4). A KIND outside the table, or a payload of another length, is UNKNOWN_REQUEST
(R173). MOVE naming a jack channel byte 0x20 to 0x25 is MOVE_JACK (R13), STOP naming 0xFF is STOP_ALL (R18). -/
def decodeRequest (f : Frame) : Instr :=
  match f.kind.toNat, f.payload with
  | 0x01, [] => .status f.tag
  | 0x02, [id] => .channel f.tag id
  | 0x03, [address] => .nodes f.tag address
  | 0x04, [] => .inputs f.tag
  | 0x05, [subject, direction] =>
    if h : 0x20 ≤ subject.toNat ∧ subject.toNat < 0x26 then .moveJack f.tag ⟨subject.toNat - 0x20, by omega⟩ direction
    else .move f.tag subject direction
  | 0x06, [subject] => if subject = 0xFF#8 then .stopAll f.tag else .stop f.tag subject
  | 0x07, [option] => .level f.tag option
  | 0x08, [] => .levelAbort f.tag
  | 0x09, [part] => .levelResult f.tag part
  | 0x0A, [] => .reference f.tag
  | 0x0B, [] => .stow f.tag
  | 0x0C, [] => .stowResult f.tag
  | 0x0D, [] => .guardReset f.tag
  | 0x0E, [id, subject] => .paramGet f.tag id subject
  | 0x0F, [id, subject, b3, b2, b1, b0] => .paramSet f.tag id subject (be32 b3 b2 b1 b0)
  | 0x10, [] => .commit f.tag
  | 0x11, [start] => .faults f.tag start
  | 0x12, [kind, subject] => .faultClear f.tag kind subject
  | 0x13, [] => .reset f.tag
  | _, _ => .unknownRequest f.kind f.tag f.payload

/-- The frame a request command arrives as; none for the commands that are not requests. -/
def encodeRequest : Instr → Option Frame
  | .unknownRequest kind tag payload => some ⟨kind, tag, payload⟩
  | .status tag => some ⟨0x01, tag, []⟩
  | .channel tag id => some ⟨0x02, tag, [id]⟩
  | .nodes tag address => some ⟨0x03, tag, [address]⟩
  | .inputs tag => some ⟨0x04, tag, []⟩
  | .move tag subject direction => some ⟨0x05, tag, [subject, direction]⟩
  | .moveJack tag jack direction => some ⟨0x05, tag, [BitVec.ofNat 8 (0x20 + jack.val), direction]⟩
  | .stop tag subject => some ⟨0x06, tag, [subject]⟩
  | .stopAll tag => some ⟨0x06, tag, [0xFF]⟩
  | .level tag option => some ⟨0x07, tag, [option]⟩
  | .levelAbort tag => some ⟨0x08, tag, []⟩
  | .levelResult tag part => some ⟨0x09, tag, [part]⟩
  | .reference tag => some ⟨0x0A, tag, []⟩
  | .stow tag => some ⟨0x0B, tag, []⟩
  | .stowResult tag => some ⟨0x0C, tag, []⟩
  | .guardReset tag => some ⟨0x0D, tag, []⟩
  | .paramGet tag id subject => some ⟨0x0E, tag, [id, subject]⟩
  | .paramSet tag id subject value => some ⟨0x0F, tag, [id, subject] ++ bytes32 value⟩
  | .commit tag => some ⟨0x10, tag, []⟩
  | .faults tag start => some ⟨0x11, tag, [start]⟩
  | .faultClear tag kind subject => some ⟨0x12, tag, [kind, subject]⟩
  | .reset tag => some ⟨0x13, tag, []⟩
  | .powerOn _ | .resetnAssert | .resetnRelease _ | .startUpRun | .nodeCommandSlot _ | .slotIntake _ _
  | .conversionScan _ _ _ | .supplyStateChange | .attitudeSample | .speedWindowEnd _ | .attendanceExpiry _
  | .grantWaitExpiry _ | .overdrawExpiry | .rackWindowEnd _ | .endWaitExpiry _ | .contactTimeout | .settleTimeout
  | .liftPassTimeout | .supportTimeout | .stowStepTimeout | .inputAccept _ _ | .windEdge _ | .calmExpiry
  | .holdOffExpiry | .panelFrameReceive | .panelGapTimeout | .transmitDone | .linkSilenceTimeout | .commitComplete _
  | .commitTimeout | .softReset | .panelByteReceive _ | .powerLoss => none

/-- No row of spec/opcode_table.json gives bits, so no word spells a command. -/
def decodeTableWord (_nbits _w : Nat) : Option Instr := none

end Sys2Proof
end

