-- ==== Sys2Proof/Config.lean ====
section
/-! DEFINITION. The values the manual leaves open. Each is an opaque constant: nothing can be proved of its values. -/

namespace Sys2Proof

/-- The image that stands in the store after a commit that ended FAILED: R187 gives none. Applied to `freeCount`. -/
opaque Config.freeImage : Nat → Machine.Image

/-- Whether PARAM_GET reports "differs" while no image has been loaded or committed (R184 gives no value to compare
with). Applied to `freeCount`. -/
opaque Config.freeDiffers : Nat → Bool

end Sys2Proof
end

