-- ==== Sys2Proof/Machine/Ops.lean ====
section
/-! DEFINITION. The named operations every block shares: arithmetic (R2), frame numbers (R24), records, notices, and the
agenda of hand-offs by which one event runs through the blocks. -/

namespace Sys2Proof.Machine

/-! ## Arithmetic (R2) -/

/-- Division rounded to the nearest integer, halves away from zero (R2). -/
def roundDiv (a : Int) (b : Nat) : Int :=
  let q : Nat := (2 * a.natAbs + b) / (2 * b)
  if a < 0 then -(q : Int) else (q : Int)

/-- A value clamped to lo..hi (R2). -/
def clampInt (lo hi v : Int) : Int := if v < lo then lo else if hi < v then hi else v

/-- A count that rises by 1 and stays at its limit. -/
def sat (limit n : Nat) : Nat := if n < limit then n + 1 else limit

/-- The range of positions (R30). -/
def clampPos (v : Int) : Int := clampInt (-2147483648) 2147483647 v

/-! ## Frame numbers (R1, R24) -/

/-- The frames of a timer of `ms` milliseconds (R1). -/
def framesOf (ms : Nat) : Nat := ms / 5

/-- The frames elapsed since a start frame, on the difference modulo 2^32 (R24). -/
def elapsed (now start : FrameNo) : Nat := (now - start).toNat

/-- Whether a deadline frame has come, on the difference modulo 2^32 (R24). -/
def reached (now deadline : FrameNo) : Bool := decide ((now - deadline).toNat < 2147483648)

/-- The deadline `n` frames from now. -/
def after (now : FrameNo) (n : Nat) : FrameNo := now + BitVec.ofNat 32 n

/-- The frames left until a deadline; 0 once it has come. -/
def framesLeft (now deadline : FrameNo) : Nat := if reached now deadline then 0 else (deadline - now).toNat

/-! ## Records -/

def State.chan (s : State) (c : Fin 16) : Channel := s.chc.chans.get c

def State.setChan (s : State) (c : Fin 16) (x : Channel) : State :=
  { s with chc := { s.chc with chans := s.chc.chans.set c x } }

def State.unit (s : State) (u : UnitId) : UnitRec := s.chc.units.get (unitIdx u)

def State.setUnit (s : State) (u : UnitId) (x : UnitRec) : State :=
  { s with chc := { s.chc with units := s.chc.units.set (unitIdx u) x } }

def State.room (s : State) (r : Fin 4) : Room := s.chc.rooms.get r

def State.setRoom (s : State) (r : Fin 4) (x : Room) : State :=
  { s with chc := { s.chc with rooms := s.chc.rooms.set r x } }

def State.node (s : State) (n : Fin 8) : Node := s.nlc.nodes.get n

def State.setNode (s : State) (n : Fin 8) (x : Node) : State :=
  { s with nlc := { s.nlc with nodes := s.nlc.nodes.set n x } }

/-- The parameters in force. -/
def State.par (s : State) : CoachParams := s.sst.params.coach

def State.motorPar (s : State) (c : Fin 16) : MotorParams := s.sst.params.motors.get c

def State.jackPar (s : State) (c : Fin 16) : JackParams := s.sst.params.jacks.get c

def State.roomPar (s : State) (r : Fin 4) : RoomParams := s.sst.params.rooms.get r

/-- Applies a function to one channel record. -/
def State.modChan (s : State) (c : Fin 16) (f : Channel → Channel) : State := s.setChan c (f (s.chan c))

def State.modNode (s : State) (n : Fin 8) (f : Node → Node) : State := s.setNode n (f (s.node n))

/-- Applies a function to every channel record. -/
def State.mapChans (s : State) (f : Channel → Channel) : State :=
  { s with chc := { s.chc with chans := s.chc.chans.map f } }

/-- Applies a function to every room record. -/
def State.mapRooms (s : State) (f : Room → Room) : State :=
  { s with chc := { s.chc with rooms := s.chc.rooms.map f } }

/-- Applies a function to every node table entry. -/
def State.mapNodes (s : State) (f : Node → Node) : State :=
  { s with nlc := { s.nlc with nodes := s.nlc.nodes.map f } }

/-! ## The channel map (TABLE 1-1) -/

def allChans : List (Fin 16) := List.finRange 16

def allNodes : List (Fin 8) := List.finRange 8

def allRooms : List (Fin 4) := List.finRange 4

/-- The jack channels LF, RF, LR, RR, LM, RM. -/
def jackChans : List (Fin 16) := [0, 1, 2, 3, 4, 5]

/-- The corner jacks LF, RF, LR, RR. -/
def cornerChans : List (Fin 16) := [0, 1, 2, 3]

/-- The support jacks LM, RM. -/
def supportChans : List (Fin 16) := [4, 5]

/-- The node that serves a channel. -/
def nodeOf (c : Fin 16) : Fin 8 := ⟨c.val / 2, by omega⟩

/-- Whether a channel is output B of its node. -/
def isOutB (c : Fin 16) : Bool := decide (c.val % 2 = 1)

/-- The channel of output A of a node. -/
def chanA (n : Fin 8) : Fin 16 := ⟨2 * n.val, by omega⟩

/-- The channel of output B of a node. -/
def chanB (n : Fin 8) : Fin 16 := ⟨2 * n.val + 1, by omega⟩

/-- The front or single end of a room. -/
def roomFront (r : Fin 4) : Fin 16 := ⟨6 + 2 * r.val, by omega⟩

/-- The rear end of a twin room. -/
def roomRear (r : Fin 4) : Fin 16 := ⟨7 + 2 * r.val, by omega⟩

/-- The room of a room-end slot 6 to 13. -/
def roomOf (c : Fin 16) : Option (Fin 4) :=
  if h : 6 ≤ c.val ∧ c.val < 14 then some ⟨(c.val - 6) / 2, by omega⟩ else none

/-- The other end of a room. -/
def partnerOf (c : Fin 16) : Fin 16 :=
  if h : c.val % 2 = 0 then ⟨c.val + 1, by omega⟩ else ⟨c.val - 1, by omega⟩

/-- The unit a channel slot belongs to (R8); slot 15 belongs to none and is given AWNING's place. -/
def unitOfChan (c : Fin 16) : UnitId :=
  match roomOf c with
  | some r => .room r
  | none => if c.val < 6 then .jacks else .awning

/-- The channel slots of a unit. -/
def unitSlots : UnitId → List (Fin 16)
  | .jacks => jackChans
  | .room r => [roomFront r, roomRear r]
  | .awning => [14]

def State.populated (s : State) (c : Fin 16) : Bool := decide ((s.chan c).kind ≠ .none)

/-- The populated channels of a unit (R8). -/
def State.unitChans (s : State) (u : UnitId) : List (Fin 16) := (unitSlots u).filter s.populated

/-- A unit is configured when it has a populated channel (R8). -/
def State.configured (s : State) (u : UnitId) : Bool := (s.unitChans u).length != 0

/-- The populated channels of a node. -/
def State.nodeChans (s : State) (n : Fin 8) : List (Fin 16) := [chanA n, chanB n].filter s.populated

/-- A room-end or awning channel. -/
def Channel.isMotor (x : Channel) : Bool := decide (x.kind = .roomEnd ∨ x.kind = .awning)

def Channel.isJack (x : Channel) : Bool := decide (x.kind = .jack)

/-- The channel has a motion record with this direction. -/
def Channel.moves (x : Channel) (d : Dir) : Bool :=
  match x.motion with
  | some m => decide (m.dir = d)
  | none => false

/-- The channel has a motion record of this origin. -/
def Channel.movesFor (x : Channel) (o : Origin) : Bool :=
  match x.motion with
  | some m => decide (m.origin = o)
  | none => false

/-- The channel's record is marked arrived. -/
def Channel.arrived (x : Channel) : Bool :=
  match x.motion with
  | some m => m.arrived
  | none => false

/-! ## Notices (R176) -/

/-- The bit of the notice mask, KIND less 0x40 (TABLE 13-6). -/
def Notice.index : Notice → Nat
  | .restarted .. => 0 | .motionEnd .. => 1 | .levelStatus .. => 2 | .levelDone .. => 3 | .referenceDone .. => 4
  | .stowStatus .. => 5 | .stowDone .. => 6 | .windGuard .. => 7 | .inputChange .. => 8 | .supplyChange .. => 9
  | .faultRaised .. => 10 | .faultGone .. => 11 | .commitDone .. => 12

/-- The PLI takes an offered notice (R176): the mask, the sequence number, the queue of 16, notices-lost. -/
def Pli.offer (p : Pli) (mask : BitVec 13) (n : Notice) : Pli :=
  if mask.getLsbD n.index then
    if p.notices.length < 16 then { p with notices := p.notices ++ [(p.seq, n)], seq := p.seq + 1 }
    else { p with seq := p.seq + 1, lost := true }
  else p

def State.offer (s : State) (n : Notice) : State := { s with pli := s.pli.offer s.par.noticeMask n }

/-! ## The agenda -/

/-- The end of one unit's work: the reason, and the cause and subject handed on with it (R19, R20, R162). -/
structure Ending where
  unit : UnitId
  why : Reason
  cause : Cause
  subject : Option Subject
  deriving DecidableEq, Repr

/-- One hand-off between blocks. An event runs its hand-offs first in, depth first: what an act hands on is taken before
what stood behind it. An examination of the grant queue that an act asks for (R67) is made before the next act that asks for
a grant, and when nothing else is left: so the ends of one event are all made before it, in the order of R68's second case,
and a placed entry never joins a queue whose last change is unexamined (DEDUCED, log entry 5). -/
inductive Act where
  /-- A block raises a fault (R160). -/
  | raise (k : FaultKind) (subject : Subject)
  /-- A block reports that a condition has ended (R167). -/
  | gone (k : FaultKind) (subject : Subject)
  /-- The work of units ends (R20). -/
  | endUnits (l : List Ending)
  /-- The end of a unit's work is handed to its requester (R19). -/
  | handOff (e : Ending) (origin : Origin)
  /-- A channel's motion record ends (R19). -/
  | chanEnd (c : Fin 16) (why : Reason)
  /-- A USER JACKS pending entry is removed (R13, R15). -/
  | dropPending (c : Fin 16) (why : Reason)
  /-- The tests that apply to a motion record from its creation (R49). -/
  | created (c : Fin 16)
  /-- A re-home (R49). -/
  | rehome (c : Fin 16)
  /-- A motor channel reaches an end (R48). -/
  | motorEnd (c : Fin 16)
  /-- A motor channel reaches its extend end (R47, R50). -/
  | extendEnd (c : Fin 16)
  /-- The target and stroke tests of a jack (R51). -/
  | jackTest (c : Fin 16)
  /-- Ask for an examination of the grant queue (R67). -/
  | exam
  /-- A unit has been granted (R9, R14). -/
  | granted (u : UnitId)
  /-- TRAVEL, the travel alarm, AWNING_EXPOSED and JACK_RETRACT are evaluated (R146, R147, R148). -/
  | restCheck (force : Bool)
  /-- A term of SLIDE_EXTEND, of AWNING_EXTEND, or of both has failed (R145). -/
  | termFail (slide awning : Bool)
  /-- The effect of the rise of the travel alarm (R149). -/
  | alarmRise
  /-- The LVS looks whether a phase is complete (R95, R102, R105). -/
  | lvsProgress
  /-- The LVS judges a whole intake: `had` are the jacks that had a LEVEL record before it (R96, R106). -/
  | lvsIntake (had : List (Fin 16))
  /-- A corner jack's latch has cleared (R95, R109). -/
  | lvsLatchLost (c : Fin 16)
  /-- A valid attitude sample reaches the LVS (R97). -/
  | lvsSample
  /-- The level sequence ends (R107); the final attitude is the record's unless one is given. -/
  | lvsEnd (outcome : LvOutcome) (cause : Cause) (final : Option (Int × Int))
  /-- A stow sequence starts (R151). -/
  | stowStart (t : Trigger)
  /-- A stow step is entered (R153 to R155). -/
  | stowEnter (st : StowState)
  /-- The step entered begins. -/
  | stowBegin
  /-- The ROOMS step requests these rooms in order, each placed entry examined before the next request (R67, R154). -/
  | requestRooms (l : List (Fin 4))
  /-- The stow sequence ends (R156, R157). -/
  | stowEnd (outcome : StowOutcome) (cause : Cause) (subject : Option Subject)
  /-- The stow result is written and reported (R157). -/
  | stowDone (outcome : StowOutcome) (cause : Cause) (subject : Option Subject)
  /-- The WGD provides for the awning's return (R136). -/
  | provide (endedExtend : Bool)
  /-- A WIND_GUARD notice is offered (R140). -/
  | guardNotice (old : GuardState)
  /-- The guard takes a measurement (R134, R138, R139). -/
  | measure
  /-- The guard becomes ARMED (R138). -/
  | guardArm
  /-- A position change is delivered (R30). -/
  | position (c : Fin 16) (count : BitVec 16)
  /-- Current and pressure are delivered (R31, R53, R55). -/
  | electric (c : Fin 16) (current pressure : Nat)
  /-- A condition code is delivered (R32, R49, R50, R56). -/
  | condition (c : Fin 16) (k : Cond)
  /-- The message channel is delivered (R37, R38, R39). -/
  | message (n : Fin 8) (ctl data : Byte)
  /-- A VALID slot is counted (R34, R36). -/
  | countValid (n : Fin 8)
  /-- A miss is counted (R32, R34, R35, R38). -/
  | countMiss (n : Fin 8)
  /-- A descriptor read attempt fails (R38). -/
  | attemptFail (n : Fin 8)
  /-- A node goes MISMATCH (R38, R39). -/
  | mismatch (n : Fin 8) (cause : MismatchCause)
  /-- B follows ENG and the parameters (R65, R70). -/
  | budget
  /-- A changed offset or gain is applied (R81). -/
  | attApply
  /-- A valid panel frame (R171, R179). -/
  | arrive (f : Frame)
  /-- The PLI takes a request if it may (R173). -/
  | take
  deriving DecidableEq, Repr

/-- The acts that may ask the SGU for a grant with other hand-offs before them in their event. A panel request (`take`) is
the first work of its event: no examination is left open before it. -/
@[simp] def Act.requests : Act → Bool
  | .provide _ | .stowBegin | .requestRooms _ => true
  | _ => false

/-- What an act answers: the state and the acts it hands on. -/
structure Out where
  st : State
  acts : List Act

/-- An act that hands nothing on. -/
def Out.done (s : State) : Out := { st := s, acts := [] }

/-- The machine runs its frames: power is on and RESETn is high. Every command but the resets waits for nothing else. -/
def State.running (s : State) : Bool := decide (s.mode = .running)

end Sys2Proof.Machine
end

