-- ==== Sys2Proof/Machine/Flags.lean ====
section
/-! DEFINITION. Every value the part derives from its records: rest positions, permits, the discrete lines, drive codes and
duties, supply conditions, and whether a fault condition stands. -/

namespace Sys2Proof.Machine

/-! ## Rest positions (R6, R7, R112) -/

/-- R6 for a motor channel, R7 for a jack. -/
def Channel.rest (x : Channel) (endBand : Nat) : Rest :=
  if x.isJack then
    if x.cond = .limitRet then .stowed else if x.latch then .down else .free
  else if !x.known then .unknown
  else if x.position ≤ endBand ∧ x.cond = .limitRet then .stowed
  else if x.extendEnd then .out
  else .partly

def State.rest (s : State) (c : Fin 16) : Rest := (s.chan c).rest (s.motorPar c).endBand

/-- R112 over the rest positions of a room's ends. -/
def roomRestOf (l : List Rest) : Rest :=
  if l.all (fun r => r = .stowed) then .stowed
  else if l.all (fun r => r = .out) then .out
  else if l.any (fun r => r = .unknown) then .unknown
  else .partly

def State.roomRest (s : State) (r : Fin 4) : Rest := roomRestOf ((s.unitChans (.room r)).map s.rest)

/-- A room is configured when the layout names it (R111). -/
def State.roomUsed (s : State) (r : Fin 4) : Bool := decide ((s.room r).type ≠ .none)

/-- Every configured room reads STOWED. -/
def State.roomsStowed (s : State) : Bool := allRooms.all fun r => !s.roomUsed r || decide (s.roomRest r = .stowed)

/-- The awning is configured and reads STOWED. -/
def State.awningStowed (s : State) : Bool := s.populated 14 && decide (s.rest 14 = .stowed)

/-- Every channel of a unit reads STOWED. -/
def State.unitStowed (s : State) (u : UnitId) : Bool := (s.unitChans u).all fun c => decide (s.rest c = .stowed)

/-- Every corner jack's contact latch is set. -/
def State.cornersLatched (s : State) : Bool := cornerChans.all fun c => (s.chan c).latch

/-! ## Inputs and permits (R141, R144) -/

def State.parkSet (s : State) : Bool := decide (s.ciu.park.accepted = some true)

def State.parkReleased (s : State) : Bool := decide (s.ciu.park.accepted = some false)

def State.engRunning (s : State) : Bool := decide (s.ciu.eng.accepted = some true)

/-- ENG meets pump-needs-engine (R73). -/
def State.engineOk (s : State) : Bool := !s.par.pumpNeedsEngine || s.engRunning

def State.motionAny (s : State) : Bool := decide (s.sst.phase = .run ∧ s.sgu.supply ≠ .cutoff)

/-- The jack term of SLIDE_EXTEND. -/
def State.jackTerm (s : State) : Bool := !s.par.slidesNeedJacks || s.cornersLatched

def State.slideExtend (s : State) : Bool :=
  s.parkSet && !s.ciu.alarm && decide (s.ciu.stow.state = .idle) && decide (s.sgu.supply = .normal) && s.jackTerm

def State.awningExtend (s : State) : Bool :=
  decide (s.wgd.state = .armed) && !s.ciu.alarm && decide (s.ciu.stow.state = .idle) && decide (s.sgu.supply = .normal)

def State.levelPermit (s : State) : Bool :=
  s.parkSet && ((cornerChans.all fun c => decide (s.rest c = .down)) || s.roomsStowed)

def State.jackRetract (s : State) : Bool := s.roomsStowed

/-- The first permit of TABLE 1-7 that fails for a unit and direction. -/
def State.failedPermit (s : State) (u : UnitId) (d : Dir) : Option Permit :=
  if !s.motionAny then some .motionAny
  else match u, d with
  | .room _, .extend => if s.slideExtend then none else some .slideExtend
  | .room _, .retract => none
  | .awning, .extend => if s.awningExtend then none else some .awningExtend
  | .awning, .retract => none
  | .jacks, .extend => if s.ciu.alarm then some .alarm else if s.engineOk then none else some .engine
  | .jacks, .retract => if !s.jackRetract then some .jackRetract else if s.engineOk then none else some .engine

/-! ## The discrete lines (R72, R147) -/

/-- The sum of the claims held. -/
def heldSum (l : List GEntry) : Nat := (l.map GEntry.claim).sum

/-- A unit holds a grant. -/
def Sgu.holds (g : Sgu) (u : UnitId) : Bool := g.grants.any fun e => decide (e.unit = u)

/-- PUMP is on while JACKS holds a grant and at least one jack channel is MOVING (R72). -/
def State.pumpRule (s : State) : Bool :=
  s.sgu.holds .jacks && jackChans.any fun c => (s.chan c).isJack && decide ((s.chan c).state = .moving)

/-- No unit is WAITING or ACTIVE. -/
def State.unitsIdle (s : State) : Bool := allUnits.all fun u => decide ((s.unit u).state = .idle)

/-- TRAVEL is asserted from RUN on exactly when every populated channel reads STOWED and no unit is busy (R147). -/
def State.travelRule (s : State) : Bool :=
  decide (s.sst.phase = .run) && (allChans.all fun c => !s.populated c || decide (s.rest c = .stowed)) && s.unitsIdle

/-! ## Skew (R117, R118) -/

def State.skewOf (s : State) (r : Fin 4) : Int := (s.chan (roomFront r)).position - (s.chan (roomRear r)).position

def State.skewValidOf (s : State) (r : Fin 4) : Bool := (s.chan (roomFront r)).known && (s.chan (roomRear r)).known

/-- A room's skew fields as its positions give them; a room that is no twin keeps 0 and "no". -/
def State.withSkew (s : State) (r : Fin 4) : Room :=
  let x := s.room r
  if x.type = .twin then { x with skew := s.skewOf r, skewValid := s.skewValidOf r } else x

/-! ## Drive codes and duties (R22, R26, R119, R122) -/

/-- The base duty of R22, bounded by the channel's run duty. -/
def baseDuty (x : Channel) (p : MotorParams) (d : Dir) : Nat :=
  let creep :=
    !x.known || (match d with
      | .extend => decide ((p.travel : Int) - x.position ≤ p.approachBand)
      | .retract => decide (x.position ≤ p.approachBand))
  min (if creep then p.creepDuty else p.runDuty) p.runDuty

/-- The trim of R119: base × (64 − min(32, |skew| − trim-band)) / 64, truncated. -/
def trimDuty (base skewAbs trimBand : Nat) : Nat := base * (64 - min 32 (skewAbs - trimBand)) / 64

/-- The front end leads: the greater position extending, the smaller retracting (R118). -/
def frontLeads (skew : Int) (d : Dir) : Bool :=
  match d with
  | .extend => decide (0 < skew)
  | .retract => decide (skew < 0)

/-- The duty of a motor channel with a record not arrived (R22, R119, R122). -/
def State.motorDuty (s : State) (c : Fin 16) (m : Motion) : Nat :=
  let own := baseDuty (s.chan c) (s.motorPar c) m.dir
  match roomOf c with
  | none => own
  | some r =>
    if (s.room r).type = .twin then
      let f := roomFront r
      let b := roomRear r
      match (s.chan f).motion, (s.chan b).motion with
      | some mf, some mb =>
        if mf.arrived || mb.arrived then own
        else
          let base := min (baseDuty (s.chan f) (s.motorPar f) mf.dir) (baseDuty (s.chan b) (s.motorPar b) mb.dir)
          let skew := s.skewOf r
          let leads := if c = f then frontLeads skew m.dir else frontLeads (-skew) m.dir
          if s.skewValidOf r && decide ((s.roomPar r).trimBand < skew.natAbs) && leads then
            trimDuty base skew.natAbs (s.roomPar r).trimBand
          else base
      | _, _ => own
    else own

/-- TABLE 1-9: the drive code and duty of a channel. -/
def State.driveOf (s : State) (c : Fin 16) : OutCmd :=
  let x := s.chan c
  let dir : Dir → Drive := fun d => match d with | .extend => .extend | .retract => .retract
  match x.kind with
  | .none => .off
  | .jack =>
    match x.state with
    | .disabled | .faulted => .off
    | .idle | .waiting => { drive := .hold, duty := 0 }
    | .moving =>
      match x.motion with
      | some m => { drive := dir m.dir, duty := 0 }
      | none => { drive := .hold, duty := 0 }
  | .roomEnd | .awning =>
    match x.state with
    | .moving =>
      match x.motion with
      | some m =>
        if m.arrived then { drive := .hold, duty := 0 }
        else { drive := dir m.dir, duty := min (s.motorDuty c m) (s.motorPar c).runDuty }
      | none => .off
    | _ => .off

/-- The message control and data of a descriptor read in progress (R37, R38). -/
def Node.msg (x : Node) : MsgCtl × Nat :=
  match x.xfer, x.cursor with
  | .abort, _ => (.abort, 0)
  | .none, some k => (.reqDesc, k)
  | _, _ => (.idle, 0)

/-- The command image of a node (R26): the channels' drive codes when READY, else both outputs OFF. -/
def State.imageRule (s : State) (n : Fin 8) : CmdImage :=
  let x := s.node n
  match x.state with
  | .ready => { outA := s.driveOf (chanA n), outB := s.driveOf (chanB n), ctl := x.msg.1, data := x.msg.2 }
  | .discovering => { CmdImage.off with ctl := x.msg.1, data := x.msg.2 }
  | .absent | .lost | .mismatch => .off

/-- The bytes of a command frame (TABLE 13-7). -/
def commandBytes (n : Fin 8) (i : CmdImage) : List Byte :=
  let l := u8 n.val ++ u8 i.outA.drive.code ++ u8 i.outA.duty ++ u8 i.outB.drive.code ++ u8 i.outB.duty
    ++ u8 i.ctl.code ++ u8 i.data
  l ++ [crc8 l]

/-! ## Supply (R59, R60, R61) -/

/-- The cutoff threshold in force (R59). -/
def CoachParams.cutoff (p : CoachParams) : Nat := min p.supplyCutoff p.supplyLow

/-- One persistence count at a frame end (R59). -/
def persist (holds : Bool) (n : Nat) : Nat := if holds then sat 100 n else 0

/-- The six counts after a frame end with this average (TABLE 4-1). -/
def supplyCounts (p : CoachParams) (avg : Nat) (k : SupplyCounts) : SupplyCounts :=
  { belowCutoff := persist (decide (avg < p.cutoff)) k.belowCutoff
    belowLow := persist (decide (avg < p.supplyLow)) k.belowLow
    aboveHigh := persist (decide (p.supplyHigh < avg)) k.aboveHigh
    clearOfCutoff := persist (decide (p.cutoff + p.supplyHysteresis ≤ avg)) k.clearOfCutoff
    clearOfLow := persist (decide (p.supplyLow + p.supplyHysteresis ≤ avg)) k.clearOfLow
    clearOfHigh := persist (decide ((avg : Int) ≤ (p.supplyHigh : Int) - p.supplyHysteresis)) k.clearOfHigh }

/-- TABLE 4-2: the first row for the state whose count is 100. -/
def supplyNext (st : Supply) (k : SupplyCounts) : Option Supply :=
  match st with
  | .normal =>
    if 100 ≤ k.belowCutoff then some .cutoff else if 100 ≤ k.belowLow then some .low
    else if 100 ≤ k.aboveHigh then some .high else none
  | .low =>
    if 100 ≤ k.belowCutoff then some .cutoff else if 100 ≤ k.aboveHigh then some .high
    else if 100 ≤ k.clearOfLow then some .normal else none
  | .high =>
    if 100 ≤ k.belowCutoff then some .cutoff else if 100 ≤ k.belowLow then some .low
    else if 100 ≤ k.clearOfHigh then some .normal else none
  | .cutoff => if 100 ≤ k.clearOfCutoff then some .low else none

/-- TABLE 4-3. -/
def admits (st : Supply) (cls : GrantClass) : Bool :=
  match st, cls with
  | .normal, _ => true
  | .low, .wind | .low, .stow | .high, .wind | .high, .stow => true
  | .low, .level | .low, .user | .high, .level | .high, .user => false
  | .cutoff, _ => false

/-- B follows ENG (R65). -/
def State.budgetRule (s : State) : Nat := if s.engRunning then s.par.budgetEngine else s.par.budgetBattery

/-- The claim of a unit (R8). -/
def State.claimOf (s : State) (u : UnitId) : Nat :=
  match u with
  | .jacks => s.par.pumpClaim
  | .room _ | .awning => ((s.unitChans u).map fun c => (s.motorPar c).claim).sum

/-- The measured draw of R74 in 0.5 A steps. -/
def State.draw (s : State) : Nat :=
  ((s.sgu.grants.map fun e => ((s.unitChans e.unit).map fun c => (s.chan c).current).sum).sum)
    + (if s.sgu.pump then 2 * s.par.pumpClaim else 0)

/-- The overdraw condition, four times the draw against five times B, in 0.5 A steps (R74). -/
def State.overdrawn (s : State) : Bool := decide (5 * (2 * s.sgu.budget) < 4 * s.draw)

/-! ## The wind guard's levels (8.2, R134) -/

/-- The reset level: wind-trip less wind-hysteresis. -/
def CoachParams.resetLevel (p : CoachParams) : Nat := p.windTrip - p.windHysteresis

/-- The measurement that trips at once: wind-trip × 3 / 2, rounded (R134, R2). -/
def CoachParams.tripAtOnce (p : CoachParams) : Nat := (roundDiv (p.windTrip * 3) 2).toNat

/-! ## Whether a fault condition stands (TABLE 10-2) -/

def FaultKind.severity : FaultKind → Severity
  | .nodeLost | .overtemp | .stall | .endMismatch | .noGround | .liftTimeout | .levelResponse | .tiltRange
  | .supplyCutoff | .awningExposed => .stop
  | .descMismatch | .overcurrent | .openLoad | .rack => .lock
  | .drag | .travelMismatch | .groundLost | .supplyLow | .supplyHigh | .overdraw | .windTrip | .travelAlarm
  | .linkSilence | .storeInvalid => .warn

/-- An event kind has no condition (R159). -/
def FaultKind.isEvent : FaultKind → Bool
  | .stall | .drag | .travelMismatch | .rack | .endMismatch | .noGround | .liftTimeout | .levelResponse | .overdraw
  | .storeInvalid => true
  | _ => false

/-- The awning is exposed: the guard is TRIPPED and the awning is not STOWED (R137). -/
def State.exposed (s : State) : Bool :=
  decide (s.wgd.state = .tripped) && s.populated 14 && !s.awningStowed

/-- The condition of a kind stands for a subject (R159). -/
def State.stands (s : State) (k : FaultKind) (sj : Subject) : Bool :=
  match k, sj with
  | .nodeLost, .node n => decide ((s.node n).state = .lost ∨ (s.node n).state = .discovering)
  | .descMismatch, .node n => decide ((s.node n).state = .mismatch)
  | .overcurrent, .chan c => decide ((s.chan c).cond = .overcurrent)
  | .openLoad, .chan c => decide ((s.chan c).cond = .openLoad)
  | .overtemp, .chan c => decide ((s.chan c).cond = .overtemp)
  | .groundLost, .chan c => !(s.chan c).latch
  | .tiltRange, _ => decide (s.atu.record.state = .invalid)
  | .supplyLow, _ => decide (s.sgu.supply = .low)
  | .supplyCutoff, _ => decide (s.sgu.supply = .cutoff)
  | .supplyHigh, _ => decide (s.sgu.supply = .high)
  | .windTrip, _ => decide (s.wgd.state ≠ .armed)
  | .awningExposed, _ => s.exposed
  | .travelAlarm, _ => s.ciu.alarm
  | .linkSilence, _ => s.pli.silent
  | _, _ => false

/-- The subject is of the sort the kind takes and is configured (R164). -/
def State.validSubject (s : State) (k : FaultKind) (sj : Subject) : Bool :=
  match k, sj with
  | .nodeLost, .node n | .descMismatch, .node n => decide ((s.node n).state ≠ .absent)
  | .overcurrent, .chan c | .openLoad, .chan c | .overtemp, .chan c | .stall, .chan c | .drag, .chan c
  | .travelMismatch, .chan c => s.populated c
  | .noGround, .chan c | .groundLost, .chan c | .liftTimeout, .chan c => (s.chan c).isJack
  | .rack, .room r | .endMismatch, .room r => s.roomUsed r
  | .awningExposed, .unit .awning => s.configured .awning
  | .levelResponse, .coach | .tiltRange, .coach | .supplyLow, .coach | .supplyCutoff, .coach | .supplyHigh, .coach
  | .overdraw, .coach | .windTrip, .coach | .travelAlarm, .coach | .linkSilence, .coach | .storeInvalid, .coach => true
  | _, _ => false

end Sys2Proof.Machine
end

