-- ==== Sys2Proof/Machine/Faults.lean ====
section
/-! DEFINITION. The Fault List (chapter 10): raising, eviction, severity effects, ends of conditions. -/

namespace Sys2Proof.Machine

/-- The index of the entry of a kind and subject. -/
def findFault (l : List FaultEntry) (k : FaultKind) (sj : Subject) : Option Nat :=
  l.findIdx? fun e => decide (e.kind = k ∧ e.subject = sj)

/-- The list with room for one entry (R161): unchanged below 32 entries, else without its oldest not-present entry or, when
every entry is present, its oldest WARN entry; none when there is no such entry. -/
def makeRoom (l : List FaultEntry) : Option (List FaultEntry) :=
  if l.length < 32 then some l
  else match l.findIdx? fun e => !e.present with
  | some i => some (l.eraseIdx i)
  | none =>
    match l.findIdx? fun e => decide (e.severity = .warn) with
    | some i => some (l.eraseIdx i)
    | none => none

/-- A raise as the list takes it (R160, R161): the list after it, and the notice's count and index, none when dropped. -/
def Flt.raise (f : Flt) (k : FaultKind) (sj : Subject) (now : FrameNo) : Flt × Nat × Option Nat :=
  match findFault f.entries k sj with
  | some i =>
    match f.entries[i]? with
    | some e =>
      let n := sat 255 e.count
      ({ f with entries := f.entries.set i { e with count := n, last := now, present := !k.isEvent } }, n, some i)
    | none => (f, 1, some i)
  | none =>
    match makeRoom f.entries with
    | some l =>
      ({ f with entries := l ++ [{ kind := k, subject := sj, severity := k.severity, present := !k.isEvent, first := now,
                                   last := now, count := 1 }] }, 1, some l.length)
    | none => ({ f with lost := true }, 1, none)

/-- The channels a LOCK takes (R163): the subject's populated channels; a node's lock is its MISMATCH state. -/
def State.lockChans (s : State) : Subject → List (Fin 16)
  | .chan c => [c].filter s.populated
  | .room r => s.unitChans (.room r)
  | .unit u => s.unitChans u
  | .node _ | .coach => []

/-- A channel takes a lock cause (R21, R163); a channel with a motion record goes FAULTED when the record ends. -/
def Channel.takeLock (x : Channel) (k : FaultKind) : Channel :=
  { x with
    lock := some k
    state := if x.state = .disabled then .disabled else if x.motion.isSome then x.state else .faulted }

/-- Locks a list of channels. -/
def State.lockAll (s : State) (k : FaultKind) (l : List (Fin 16)) : State :=
  l.foldl (fun s c => s.modChan c fun x => x.takeLock k) s

/-- The units a STOP effect reaches (TABLE 10-3), in unit order (DESIGN CHOICE, log entry 51). -/
def State.reach (s : State) (sj : Subject) : List UnitId :=
  allUnits.filter fun u =>
    decide ((s.unit u).state ≠ .idle) &&
    (match sj with
     | .chan c => decide (c ∈ s.unitChans u)
     | .room r => decide (u = .room r)
     | .node n => (s.unitChans u).any fun c => decide (nodeOf c = n)
     | .unit v => decide (u = v)
     | .coach => decide ((s.unit u).origin = some .user ∨ (s.unit u).origin = some .level))

/-- A raise in one event (R160): the list, FAULT_RAISED, then the severity effect. -/
def actRaise (k : FaultKind) (sj : Subject) (s : State) : Out :=
  let r := s.flt.raise k sj s.frame
  let s1 := { s with flt := r.1 }
  let s2 := s1.offer (.faultRaised k sj k.severity (!k.isEvent) r.2.1 r.2.2)
  let ends := fun t : State =>
    (t.reach sj).map fun u => ({ unit := u, why := .fault, cause := .fault k, subject := some sj } : Ending)
  match k.severity with
  | .warn => .done s2
  | .stop => { st := s2, acts := [.endUnits (ends s2)] }
  | .lock => { st := s2.lockAll k (s2.lockChans sj), acts := [.endUnits (ends s2)] }

/-- The end of a condition (R167). -/
def actGone (k : FaultKind) (sj : Subject) (s : State) : Out :=
  match findFault s.flt.entries k sj with
  | none => .done s
  | some i =>
    match s.flt.entries[i]? with
    | none => .done s
    | some e =>
      if e.present then
        let s1 := { s with flt := { s.flt with entries := s.flt.entries.set i { e with present := false } } }
        .done (s1.offer (.faultGone k sj i))
      else .done s

/-- A lock cause equal to the kind is removed from a channel (R21, R164). -/
def Channel.clearLock (x : Channel) (k : FaultKind) : Channel :=
  if x.lock = some k then { x with lock := none, state := if x.state = .faulted then .idle else x.state } else x

/-- What FAULT_CLEAR removes (R164): the entry and the matching locks, with their number. -/
def State.clearFault (s : State) (k : FaultKind) (sj : Subject) : State × Bool × Nat :=
  let hit := findFault s.flt.entries k sj
  let entries := match hit with
    | some i => s.flt.entries.eraseIdx i
    | none => s.flt.entries
  let locked := (s.lockChans sj).filter fun c => decide ((s.chan c).lock = some k)
  let s1 := { s with flt := { entries := entries
                              lost := if entries.length = 0 && hit.isSome then false else s.flt.lost } }
  (locked.foldl (fun t c => t.modChan c fun x => x.clearLock k) s1, hit.isSome, locked.length)

end Sys2Proof.Machine
end

