-- ==== Sys2Proof/Machine/Channel.lean ====
section
/-! DEFINITION. The Channel Controller: motion records, ends of channels and of units' work (chapter 1), ends of travel
(chapter 3), end arrival of twin rooms (chapter 7). -/

namespace Sys2Proof.Machine

/-! ## Motion records (R10, R19, R43) -/

/-- A motion record as created (TABLE 1-5), on the channel with its creation effects (R10). -/
def Channel.startMotion (x : Channel) (now : FrameNo) (d : Dir) (t : Target) (o : Origin) (deadline : Option FrameNo) :
    Channel :=
  { x with
    state := .moving, extendEnd := false, dragCount := 0, dragReported := false
    motion := some { dir := d, target := t, origin := o, attended := decide (o = .user), deadline := deadline,
                     start := now, winStart := now, winPos := x.position, stallCount := 0, graceEnd := after now 100,
                     arrived := false } }

/-- A channel that may be given a motion record: IDLE or WAITING (TABLE 1-3). -/
def Channel.canStart (x : Channel) : Bool := decide (x.state = .idle ∨ x.state = .waiting)

/-- Creates a motion record where the channel may be given one. -/
def State.createMotion (s : State) (c : Fin 16) (d : Dir) (t : Target) (o : Origin) (deadline : Option FrameNo) : State :=
  if (s.chan c).canStart then s.setChan c ((s.chan c).startMotion s.frame d t o deadline) else s

/-- The record is removed; the channel goes FAULTED under a lock cause, else IDLE, and an idle window starts (R19, R43). A
channel without a record is left as it is. -/
def Channel.endMotion (x : Channel) (now : FrameNo) : Channel :=
  match x.motion with
  | none => x
  | some _ =>
    { x with
      motion := none
      state := if x.state = .disabled then .disabled else if x.lock.isSome then .faulted else .idle
      idleStart := now, idlePos := x.position }

/-- A channel that leaves a pending list goes IDLE from WAITING (TABLE 1-3). -/
def Channel.unwait (x : Channel) : Channel := if x.state = .waiting then { x with state := .idle } else x

/-- The room's window, arrival and end-wait end with its work (R114). -/
def Room.endWork (x : Room) : Room :=
  { x with window := none, overLimit := 0, counted := 0, firstArrival := none, endWait := none }

/-- Whether a unit has a motion record on one of its channels. -/
def State.hasRecord (s : State) (u : UnitId) : Bool := (s.unitChans u).any fun c => (s.chan c).motion.isSome

/-! ## The end of a unit's work (R20, R71) -/

/-- A unit leaves the queue or the grant set and goes IDLE; its records end; MOTION_END is queued. An IDLE unit is left as it
is. -/
def State.endUnit (s : State) (u : UnitId) (why : Reason) : State :=
  if (s.unit u).state = .idle then s
  else
    let s1 := (unitSlots u).foldl (fun t c => t.modChan c fun x => (x.endMotion s.frame).unwait) s
    let s2 := s1.setUnit u .reset
    let s3 := match u with
      | .room r => s2.setRoom r (s2.room r).endWork
      | _ => s2
    let s4 := { s3 with sgu := { s3.sgu with queue := s3.sgu.queue.filter fun e => decide (e.unit ≠ u)
                                             grants := s3.sgu.grants.filter fun e => decide (e.unit ≠ u) } }
    s4.offer (.motionEnd u why)

/-- The work of a unit moves a channel: the channel has a motion record or a pending entry. -/
def State.worksOn (s : State) (u : UnitId) (c : Fin 16) : Bool :=
  (s.chan c).motion.isSome || (s.unit u).pending.any fun p => decide (p.chan = c)

/-- A fault ends the work of a stow's JACKS step without failing the step: it concerns a jack that the step is not moving, or a
node none of whose jacks the step is moving (R156). R35, R162 and TABLE 10-3 end the work of JACKS all the same; that the step
then waits for its time limit, its unit still awaited, is DEDUCED (log entry 61). -/
def State.sparesStep (s : State) (e : Ending) : Bool :=
  decide (e.why = .fault ∧ e.unit = .jacks ∧ (s.unit .jacks).origin = some .stow) &&
    (match e.subject with
     | some (.chan c) => !s.worksOn .jacks c
     | some (.node n) => !((s.unitChans .jacks).any fun c => decide (nodeOf c = n) && s.worksOn .jacks c)
     | _ => false)

/-- Several units' work ends in one event: every unit leaves, in the order of the list, an examination is asked for (R67), and
only then are the ends handed to the requesters (R19), so that one that requests anew finds the release examined. An end that
spares a stow step is not handed to the CIU (R156). -/
def actEndUnits (l : List Ending) (s : State) : Out :=
  let live := l.filter fun e => decide ((s.unit e.unit).state ≠ .idle)
  let told := live.filter fun e => !s.sparesStep e
  let hands := told.filterMap fun e => ((s.unit e.unit).origin).map fun o => Act.handOff e o
  { st := live.foldl (fun t e => t.endUnit e.unit e.why) s
    acts := if live.length = 0 then [] else [.restCheck false, .exam] ++ hands }

/-- The ending of one unit with its own subject. -/
def ending (u : UnitId) (why : Reason) (cause : Cause) : Ending :=
  { unit := u, why := why, cause := cause, subject := some (.unit u) }

/-- A channel's motion record ends with a reason that concerns this channel (R19); the unit's work ends with the last
record (R20), except LEVEL work, which the LVS holds. -/
def actChanEnd (c : Fin 16) (why : Reason) (s : State) : Out :=
  match (s.chan c).motion with
  | none => .done s
  | some m =>
    let s1 := s.modChan c fun x => x.endMotion s.frame
    let u := unitOfChan c
    { st := s1
      acts :=
        if m.origin = .level then []
        else if s1.hasRecord u then []
        else [.endUnits [ending u why .none]] }

/-- One pending entry of USER JACKS is removed (R13, R15); with the last one the unit ends. -/
def actDropPending (c : Fin 16) (why : Reason) (s : State) : Out :=
  let u := unitOfChan c
  let x := s.unit u
  let rest := x.pending.filter fun p => decide (p.chan ≠ c)
  let s1 := (s.setUnit u { x with pending := rest }).modChan c Channel.unwait
  { st := s1
    acts := if x.state = .waiting ∧ rest.length = 0 then [.endUnits [ending u why .none]] else [] }

/-! ## Ends of travel (R47 to R52, R122, R123) -/

/-- A re-home: position 0, known, the extend-end flag clear (R49). -/
def Channel.rehomed (x : Channel) : Channel := { x with position := 0, known := true, extendEnd := false }

/-- Position known is cleared, and with it the extend-end flag (TABLE 1-2). -/
def Channel.forget (x : Channel) : Channel := { x with known := false, extendEnd := false }

/-- A re-home and what it ends (R49, R52): a retracting motor record is applied by R48, a retracting jack's record ends
with END. An EXTEND record runs on from 0. -/
def actRehome (c : Fin 16) (s : State) : Out :=
  let s1 := s.modChan c Channel.rehomed
  let x := s1.chan c
  { st := s1
    acts :=
      (if x.moves .retract then (if x.isJack then [Act.chanEnd c .ended] else [Act.motorEnd c]) else []) ++ [.restCheck false] }

/-- Marks a record arrived. -/
def Channel.arrive (x : Channel) : Channel :=
  { x with motion := x.motion.map fun m => { m with arrived := true } }

/-- R48: an end at a motor channel ends its record with END or, at a twin room, makes the end arrive (R122, R123). -/
def actMotorEnd (c : Fin 16) (s : State) : Out :=
  match (s.chan c).motion with
  | none => .done s
  | some m =>
    if m.arrived then .done s
    else match roomOf c with
    | none => { st := s, acts := [.chanEnd c .ended] }
    | some r =>
      if (s.room r).type = .twin then
        let s1 := s.modChan c Channel.arrive
        if (s1.chan (partnerOf c)).arrived then { st := s1, acts := [.endUnits [ending (.room r) .ended .none]] }
        else
          .done (s1.setRoom r { s1.room r with
            firstArrival := some (if c = roomFront r then .front else .rear)
            endWait := some (after s.frame (framesOf (s.roomPar r).endWait)) })
      else { st := s, acts := [.chanEnd c .ended] }

/-- The travel test of R47: TRAVEL_MISMATCH when a known position is more than end-tolerance from travel. -/
def State.travelFails (s : State) (c : Fin 16) : Bool :=
  (s.chan c).known &&
    decide ((s.motorPar c).endTolerance < ((s.chan c).position - (s.motorPar c).travel).natAbs)

/-- An extend end: the flag is set, the travel test is made, and an EXTEND record is applied by R48 (R47, R50). The rules do
not order the raise and the end of the motion: TRAVEL_MISMATCH is raised first (DESIGN CHOICE, log entry 53). -/
def actExtendEnd (c : Fin 16) (s : State) : Out :=
  let s1 := s.modChan c fun x => { x with extendEnd := true }
  { st := s1
    acts :=
      (if s.travelFails c then [.raise .travelMismatch (.chan c)] else [])
        ++ (if (s.chan c).moves .extend then [.motorEnd c] else []) ++ [.restCheck false] }

/-- The target and stroke tests of an extending jack with its position known (R51). -/
def actJackTest (c : Fin 16) (s : State) : Out :=
  let x := s.chan c
  match x.motion with
  | none => .done s
  | some m =>
    if x.isJack ∧ m.dir = .extend ∧ x.known then
      let hit := match m.target with
        | .at t => decide (t ≤ x.position)
        | .toEnd => false
      if hit then { st := s, acts := [.chanEnd c .target] }
      else if (s.jackPar c).stroke ≤ x.position then { st := s, acts := [.chanEnd c .ended] }
      else .done s
    else .done s

/-- The tests at a record's creation: a retract on a closed switch re-homes at once (R49). -/
def actCreated (c : Fin 16) (s : State) : Out :=
  let x := s.chan c
  if x.moves .retract ∧ x.cond = .limitRet then { st := s, acts := [.rehome c] } else .done s

/-! ## Speed and stall (R42 to R47) -/

/-- The outcome of a stall event (R46, R47). -/
def stallActs (s : State) (c : Fin 16) (d : Dir) : List Act :=
  let x := s.chan c
  let p := s.motorPar c
  match d with
  | .retract =>
    if (x.known && decide (x.position ≤ p.endBand)) || (!x.known && decide (x.cond = .limitRet)) then [.rehome c]
    else [.raise .stall (.chan c)]
  | .extend =>
    if !x.known || decide ((p.travel : Int) - p.endBand ≤ x.position) then [.extendEnd c]
    else [.raise .stall (.chan c)]

/-- The speed of a window: the change × 200 divided by the frames covered (R42). -/
def windowSpeed (change : Int) (frames : Nat) : Int := roundDiv (change * 200) frames

/-- The stall condition of R45, the current exact at 0.5 A. -/
def stallHolds (p : MotorParams) (speed : Int) (current : Nat) : Bool :=
  decide (speed.natAbs < p.stallFloor ∧ 2 * p.stallCurrent ≤ current)

/-- A speed window ends (R42), and the stall condition is evaluated where R44 and R45 give. -/
def State.windowEnd (s : State) (c : Fin 16) : Out :=
  let x := s.chan c
  match x.motion with
  | none =>
    let n := elapsed s.frame x.idleStart
    if s.par.speedWindow ≤ n then
      .done (s.setChan c { x with speed := windowSpeed (x.position - x.idlePos) n
                                  idleStart := s.frame, idlePos := x.position })
    else .done s
  | some m =>
    let n := elapsed s.frame m.winStart
    if s.par.speedWindow ≤ n then
      let speed := windowSpeed (x.position - m.winPos) n
      let judged := x.isMotor && !m.arrived && reached s.frame m.graceEnd
      let count := if judged then (if stallHolds (s.motorPar c) speed x.current then m.stallCount + 1 else 0)
        else m.stallCount
      let s1 := s.setChan c { x with
        speed := speed
        motion := some { m with winStart := s.frame, winPos := x.position, stallCount := min 2 count } }
      { st := s1, acts := if judged && decide (2 ≤ count) then stallActs s1 c m.dir else [] }
    else .done s

/-! ## Attendance (R15) -/

/-- The entries of a unit whose deadline has come expire: pending entries leave the list, records end with RELEASED. The
entries of one unit MOVE share one deadline; in USER JACKS each jack has its own (R13). -/
def State.expire (s : State) (u : UnitId) : List Act :=
  let x := s.unit u
  let due : Option FrameNo → Bool := fun d => match d with
    | some f => reached s.frame f
    | none => false
  if x.origin = some .user then
    match u with
    | .jacks =>
      (x.pending.filter fun p => due p.deadline).map (fun p => Act.dropPending p.chan .released)
        ++ ((s.unitChans u).filter fun c => match (s.chan c).motion with
            | some m => m.attended && due m.deadline
            | none => false).map fun c => Act.chanEnd c .released
    | .room _ | .awning =>
      if (x.pending.any fun p => due p.deadline) || ((s.unitChans u).any fun c => match (s.chan c).motion with
            | some m => m.attended && due m.deadline
            | none => false)
      then [.endUnits [ending u .released .none]] else []
  else []

end Sys2Proof.Machine
end

