-- ==== Sys2Proof/Machine/Grants.lean ====
section
/-! DEFINITION. The Supply and Grant Unit (chapter 4): requests, the queue, grants, preemption, the budget, supply states. -/

namespace Sys2Proof.Machine

/-! ## Requests (R8, R9, R66) -/

/-- WIND, STOW, LEVEL, USER: 3 is the highest (R66). -/
def Origin.rank : Origin → Nat
  | .wind => 3 | .stow => 2 | .level => 1 | .user => 0

/-- A placed entry goes after every entry of a higher or its own class, before every entry of a lower class (R66). -/
def enqueue (l : List QEntry) (e : QEntry) : List QEntry :=
  (l.takeWhile fun q => decide (e.cls.rank ≤ q.cls.rank)) ++ e :: l.dropWhile fun q => decide (e.cls.rank ≤ q.cls.rank)

/-- The first test of TABLE 4-5 that refuses a request, as a cause of TABLE 13-3. `stopped` stands for BUSY, which has no
cause there: only a guard that returns from HOLD_OFF to TRIPPED meets it, and that caller records no cause (DEDUCED, log
entry 36). -/
def State.sguRefuses (s : State) (u : UnitId) (cls : GrantClass) : Option Cause :=
  if (s.sgu.queue.any fun e => decide (e.unit = u)) || s.sgu.holds u then some .stopped
  else if !admits s.sgu.supply cls then some .supply
  else if s.sgu.budget < s.claimOf u then some .supply
  else if u = .jacks ∧ s.engineOk = false then some .interlock
  else none

/-- The request is placed: the entry, the unit WAITING with its pending list, its channels WAITING (R9, R66). -/
def State.place (s : State) (u : UnitId) (o : Origin) (l : List Pending) : State :=
  let claim := s.claimOf u
  let s1 := s.setUnit u { state := .waiting, origin := some o, cls := some o, claim := some claim, pending := l }
  let s2 := l.foldl (fun t p => t.modChan p.chan fun x => if x.state = .idle then { x with state := .waiting } else x) s1
  { s2 with sgu := { s2.sgu with
      queue := enqueue s2.sgu.queue { unit := u, cls := o, claim := claim, arrival := s.frame } } }

/-- The acts that follow a placed request: TRAVEL is re-evaluated (R147) and the queue examined (R67). -/
def placedActs : List Act := [.restCheck false, .exam]

/-- A pending list that moves every populated channel of a unit one way to END. -/
def State.pendAll (s : State) (u : UnitId) (d : Dir) (deadline : Option FrameNo) : List Pending :=
  (s.unitChans u).map fun c => { chan := c, dir := d, target := .toEnd, deadline := deadline }

/-! ## The examination of the queue (R67, R69) -/

/-- Inserts an entry by descending grant order. -/
def insertYoung (e : GEntry) : List GEntry → List GEntry
  | [] => [e]
  | g :: l => if g.order ≤ e.order then e :: g :: l else g :: insertYoung e l

/-- Entries of a class, youngest first: the greater grant order is the younger. -/
def youngest (l : List GEntry) (cls : GrantClass) : List GEntry :=
  (l.filter fun e => decide (e.cls = cls)).foldr insertYoung []

/-- Takes entries from the front until what is left of the sum is at or below the limit. -/
def takeUntil (limit : Nat) : Nat → List GEntry → List GEntry
  | _, [] => []
  | sum, e :: l => if sum ≤ limit then [] else e :: takeUntil limit (sum - e.claim) l

/-- The head is granted: it enters the grant set with the next order, and its unit goes ACTIVE (R9, R67). -/
def State.grantHead (s : State) (e : QEntry) (rest : List QEntry) : State :=
  let s1 := { s with sgu := { s.sgu with
    queue := rest
    grants := s.sgu.grants ++ [(⟨e.unit, e.cls, e.claim, s.sgu.nextOrder + 1⟩ : GEntry)]
    nextOrder := s.sgu.nextOrder + 1 } }
  s1.setUnit e.unit { s1.unit e.unit with state := .active }

/-- One look at the head of the queue (R67, R69). -/
def examine (s : State) : Out :=
  match s.sgu.queue with
  | [] => .done s
  | e :: rest =>
    if admits s.sgu.supply e.cls ∧ heldSum s.sgu.grants + e.claim ≤ s.sgu.budget then
      { st := s.grantHead e rest, acts := [.granted e.unit, .exam] }
    else if e.cls = .wind ∧ admits s.sgu.supply e.cls then
      let fixed := heldSum (s.sgu.grants.filter fun g => decide (g.cls = .stow ∨ g.cls = .wind))
      if s.sgu.budget < fixed + e.claim then .done s
      else
        let victims := takeUntil s.sgu.budget (heldSum s.sgu.grants + e.claim)
          (youngest s.sgu.grants .user ++ youngest s.sgu.grants .level)
        { st := s, acts := [.endUnits (victims.map fun g => ending g.unit .preempted .revoked)] }
    else .done s

/-! ## The grant (R9, R14, R95, R155) -/

/-- Creates the records of a pending list. -/
def State.createAll (s : State) (o : Origin) (l : List Pending) : State :=
  l.foldl (fun t p => t.createMotion p.chan p.dir p.target o p.deadline) s

/-- A room's window starts with its records (R114). A single room's window start is set too, though R113 and TABLE 7-2 use it for a
twin room only: nothing reads it there (DESIGN CHOICE, log entry 66). -/
def State.startWindow (s : State) (u : UnitId) : State :=
  match u with
  | .room r => s.setRoom r { s.room r with window := some s.frame, overLimit := 0, counted := 0, firstArrival := none,
                                           endWait := none }
  | _ => s

/-- The records of a grant: created from the pending list, which becomes absent, then tested at creation (R9, R49). -/
def State.begin (s : State) (u : UnitId) (o : Origin) (l : List Pending) : Out :=
  let s1 := s.setUnit u { s.unit u with pending := [] }
  { st := (s1.createAll o l).startWindow u, acts := l.map fun p => .created p.chan }

/-- A corner jack's LEVEL record of the contact phase (R95). -/
def contactPending (c : Fin 16) : Pending := { chan := c, dir := .extend, target := .toEnd, deadline := none }

/-- The CHC is told of a grant. USER work meets its permits again (R14); LEVEL work begins the contact motion on the corner
jacks named and on those whose latch is clear, and ends at once the records of latched jacks (R95); a jack stow meets
JACK_RETRACT again (R155); every other work begins. -/
def actGranted (u : UnitId) (s : State) : Out :=
  let x := s.unit u
  match x.origin with
  | none => .done s
  | some .user =>
    if x.pending.any fun p => (s.failedPermit u p.dir).isSome then
      { st := s, acts := [.endUnits [ending u .interlock .interlock]] }
    else s.begin u .user x.pending
  | some .level =>
    let named := x.pending.map Pending.chan
    let jacks := cornerChans.filter fun c => decide (c ∈ named) || !(s.chan c).latch
    let o := ({ s with lvs := { s.lvs with seq := { s.lvs.seq with phaseStart := some s.frame } } }).begin u .level
      (jacks.map contactPending)
    { st := o.st
      acts := ((jacks.filter fun c => (s.chan c).latch).map fun c => Act.chanEnd c .target) ++ [.lvsProgress] }
  | some .stow =>
    if u = .jacks ∧ s.jackRetract = false then { st := s, acts := [.endUnits [ending u .interlock .interlock]] }
    else s.begin u .stow x.pending
  | some .wind => s.begin u .wind x.pending

/-! ## The budget (R65, R70) -/

/-- The entries revoked when the held sum exceeds B: USER, LEVEL, STOW, WIND, youngest first (R70). -/
def budgetVictims (l : List GEntry) (budget : Nat) : List GEntry :=
  takeUntil budget (heldSum l)
    (youngest l .user ++ youngest l .level ++ youngest l .stow ++ youngest l .wind)

/-- B follows ENG and the parameters: a rise examines the queue; a fall removes the entries too large for it, then revokes
until the sum fits, and then examines the queue (R65, R70). R70 does not order the removed entries: they go from the head of
the queue on, which orders their MOTION_END notices and gives a stow step its subject (DESIGN CHOICE, log entry 54). -/
def actBudget (s : State) : Out :=
  let b := s.budgetRule
  let s1 := { s with sgu := { s.sgu with budget := b } }
  if s.sgu.budget < b then { st := s1, acts := [.exam] }
  else if b < s.sgu.budget then
    let large := s.sgu.queue.filter fun e => decide (b < e.claim)
    let o := actEndUnits ((large.map fun e => ending e.unit .revoked .supply)
      ++ (budgetVictims s.sgu.grants b).map fun g => ending g.unit .revoked .revoked) s1
    { st := o.st, acts := o.acts ++ [.exam] }
  else .done s1

/-- ENG is lost under pump-needs-engine: the JACKS entry or grant ends with INTERLOCK (R73). -/
def engineLossActs (s : State) : List Act :=
  if s.par.pumpNeedsEngine then [.endUnits [ending .jacks .interlock .interlock]] else []

/-! ## Supply state changes (R60 to R64) -/

/-- The fault of a supply state (R62, R63). -/
def supplyFault : Supply → Option FaultKind
  | .normal => none
  | .low => some .supplyLow
  | .high => some .supplyHigh
  | .cutoff => some .supplyCutoff

/-- The work that ends on entry to a state: USER and LEVEL queue entries in LOW and HIGH (R62), from the head of the queue on
(DESIGN CHOICE, log entry 54); every grant, then every entry, in CUTOFF (R63); so a stow step that awaits several units fails
for the oldest grant first (DESIGN CHOICE, log entry 48). -/
def supplyEndings (g : Sgu) : Supply → List Ending
  | .normal => []
  | .low | .high =>
    (g.queue.filter fun e => decide (e.cls = .user ∨ e.cls = .level)).map fun e => ending e.unit .revoked .supply
  | .cutoff =>
    (g.grants.map fun e => ending e.unit .revoked .revoked) ++ g.queue.map fun e => ending e.unit .revoked .supply

/-- A change of the supply state: all six counts 0, SUPPLY_CHANGE first (DESIGN CHOICE, log entry 39), then the ends of work,
the old fault's condition ended, the new fault raised, AWNING_EXPOSED under a tripped guard in CUTOFF (R137), which comes after
SUPPLY_CUTOFF (DESIGN CHOICE, log entry 39), and the queue examined. -/
def State.supplyEnter (s : State) (new : Supply) : Out :=
  let old := s.sgu.supply
  let s1 := { s with sgu := { s.sgu with supply := new, counts := .zero } }
  let o := actEndUnits (supplyEndings s.sgu new) (s1.offer (.supplyChange new old s.sgu.batAvg))
  { st := o.st
    acts :=
      o.acts
        ++ (match supplyFault old with | some k => [.gone k .coach] | none => [])
        ++ (match supplyFault new with | some k => [.raise k .coach] | none => [])
        ++ (if new = .cutoff ∧ s.exposed then [.raise .awningExposed (.unit .awning)] else [])
        ++ [.exam] }

/-! ## Frame-end accounting (R68, R74) -/

/-- The overdraw count of a frame end (R74). -/
def State.countOverdraw (s : State) : State :=
  { s with sgu := { s.sgu with overdraw := if s.overdrawn then sat 200 s.sgu.overdraw else 0 } }

/-- The grant that an overdraw revokes: the youngest USER, else the youngest LEVEL (R74). -/
def overdrawVictim (l : List GEntry) : Option GEntry := (youngest l .user ++ youngest l .level).head?

end Sys2Proof.Machine
end

