-- ==== Sys2Proof/Machine/Level.lean ====
section
/-! DEFINITION. The Levelling Sequencer (chapter 6): phases, plan arithmetic, response check, ends. -/

namespace Sys2Proof.Machine

/-! ## Arithmetic of the plan and the response check (R92, R99, R100, R103, R104) -/

/-- A mean of two, rounded (R92). -/
def mean (a b : Int) : Int := roundDiv (a + b) 2

/-- The front x less the rear x (R92). -/
def State.spreadX (s : State) : Int :=
  mean (s.jackPar 0).jackX (s.jackPar 1).jackX - mean (s.jackPar 2).jackX (s.jackPar 3).jackX

/-- The right y less the left y (R92). -/
def State.spreadY (s : State) : Int :=
  mean (s.jackPar 1).jackY (s.jackPar 3).jackY - mean (s.jackPar 0).jackY (s.jackPar 2).jackY

/-- Jack geometry is valid (R92). -/
def State.geometryOk (s : State) : Bool := decide (1000 ≤ s.spreadX ∧ 1000 ≤ s.spreadY)

/-- The c10 of a channel: its output's byte of the node's held descriptor (R39); 0 where none is held. -/
def State.c10 (s : State) (c : Fin 16) : Nat :=
  match (s.node (nodeOf c)).desc with
  | some l => ((l[if isOutB c then 7 else 4]?).getD 0).toNat
  | none => 0

/-- The height of a corner in µm (R99, step 1). -/
def cornerHeight (x y pitch roll : Int) : Int := roundDiv ((x * pitch + y * roll) * 1745) 10000

/-- Lift to counts (R99, step 4). -/
def liftCounts (lift : Int) (c10 : Nat) : Int := roundDiv (lift * c10) 10000

/-- One jack's settled lift (R100). -/
def settleLift (before height lift counts : Int) (deadband stroke : Nat) : PlanEntry :=
  if counts < deadband then
    { before := before, height := height, lift := lift, counts := counts, target := none, clamped := false }
  else
    let past := decide ((stroke : Int) < before + counts)
    let t := if past then (stroke : Int) else before + counts
    { before := before, height := height, lift := lift, counts := counts
      target := if t ≤ before then none else some t, clamped := past }

/-- The pass plan of a check's pitch and roll, LF, RF, LR, RR (R99, R100). -/
def State.passPlan (s : State) (pitch roll : Int) : List PlanEntry :=
  let h := cornerChans.map fun c => cornerHeight (s.jackPar c).jackX (s.jackPar c).jackY pitch roll
  let top := h.foldl max (h.headD 0)
  (cornerChans.zip h).map fun (c, hc) =>
    let lift := top - hc
    settleLift (s.chan c).position hc lift (liftCounts lift (s.c10 c)) s.par.levelDeadband (s.jackPar c).stroke

/-- The executed lift of a corner jack in µm (R103). -/
def executedLift (change : Int) (c10 : Nat) : Int := roundDiv (change * 10000) c10

/-- The predicted change of attitude from a difference of pair means (R103). -/
def predicted (diff spread : Int) : Int := roundDiv (diff * 573) (100 * spread).toNat

/-- The tolerance of R104. -/
def responseTol (pred : Int) : Int := max 10 (roundDiv ((pred.natAbs : Int) * 2) 5)

/-- The predicted changes of pitch and roll of the last pass (R103). -/
def State.prediction (s : State) : Int × Int :=
  let plan := s.lvs.seq.plan.getD []
  let e := fun (i : Nat) (c : Fin 16) =>
    executedLift ((s.chan c).position - ((plan[i]?).map PlanEntry.before).getD (s.chan c).position) (s.c10 c)
  let lf := e 0 0; let rf := e 1 1; let lr := e 2 2; let rr := e 3 3
  (predicted (mean lf rf - mean lr rr) s.spreadX, predicted (mean rf rr - mean lf lr) s.spreadY)

/-- The last pass disagrees on an axis (R104). -/
def State.disagrees (s : State) (pitch roll : Int) : Bool :=
  let p := s.prediction
  let prev := s.lvs.seq.prev.getD (0, 0)
  decide (responseTol p.1 < ((pitch - prev.1) - p.1).natAbs) || decide (responseTol p.2 < ((roll - prev.2) - p.2).natAbs)

/-! ## Phases -/

def State.setSeq (s : State) (q : LvSeq) : State := { s with lvs := { s.lvs with seq := q } }

/-- LEVEL_STATUS with the sequence as it stands (6.10): the pass number is 0 outside LIFTING. -/
def State.levelStatus (s : State) : State :=
  let q := s.lvs.seq
  s.offer (.levelStatus q.state q.passes (if q.state = .lifting then q.passes else 0) q.prev)

/-- A list of channels has a motion record among it. -/
def State.anyRecord (s : State) (l : List (Fin 16)) : Bool := l.any fun c => (s.chan c).motion.isSome

/-- Entry to SETTLING (R97). -/
def State.enterSettling (s : State) : State :=
  (s.setSeq { s.lvs.seq with state := .settling, phaseStart := some s.frame, samples := 0 }).levelStatus

/-- The layout has six jacks: LM is populated. -/
def State.sixJacks (s : State) : Bool := s.populated 4

/-- The support level of a support jack (R105). -/
def State.supportLevel (s : State) (c : Fin 16) : Nat :=
  min 255 ((s.jackPar c).contactThreshold + (s.jackPar c).supportMargin)

/-- An EXTEND record of origin LEVEL. -/
def State.levelRecord (s : State) (c : Fin 16) (t : Target) : State := s.createMotion c .extend t .level none

/-- Entry to SUPPORT (R105): LM and RM get EXTEND records; one already at its level has it ended at once. -/
def State.enterSupport (s : State) : Out :=
  let s1 := (s.setSeq { s.lvs.seq with state := .support, phaseStart := some s.frame }).levelStatus
  let s2 := supportChans.foldl (fun t c => t.levelRecord c .toEnd) s1
  { st := s2
    acts := ((supportChans.filter fun c => decide (s.supportLevel c ≤ (s.chan c).pressure)).map fun c =>
        Act.chanEnd c .target) ++ [.lvsProgress] }

/-- A check decides a pending outcome (R105): SUPPORT on six jacks with the option ON, else the end. -/
def State.decideOutcome (s : State) (o : LvOutcome) : Out :=
  let s1 := s.setSeq { s.lvs.seq with pending := some o }
  if s.sixJacks && s.lvs.seq.option then s1.enterSupport
  else { st := s1, acts := [.lvsEnd o .none s.lvs.seq.prev] }

/-- Entry to LIFTING with a plan (R101). -/
def State.enterLifting (s : State) (plan : List PlanEntry) : Out :=
  let s1 := s.setSeq { s.lvs.seq with state := .lifting, passes := s.lvs.seq.passes + 1, phaseStart := some s.frame,
                                      plan := some plan }
  let s2 := (cornerChans.zip plan).foldl (fun t (c, e) => match e.target with
    | some k => t.levelRecord c (.at k)
    | none => t) s1
  { st := s2.levelStatus, acts := [.lvsProgress] }

/-- BEST_EFFORT when a target was clamped, else NOT_LEVEL (R98, R100). -/
def LvSeq.shortOutcome (q : LvSeq) : LvOutcome := if q.clamped then .bestEffort else .notLevel

/-- Steps 2 to 4 of the check (R98), with the check's attitude already the previous check. -/
def State.judge (s : State) (pitch roll : Int) : Out :=
  let q := s.lvs.seq
  if pitch.natAbs ≤ s.par.levelTolerance ∧ roll.natAbs ≤ s.par.levelTolerance then s.decideOutcome .level
  else if q.passes = s.par.levelMaxPasses then s.decideOutcome q.shortOutcome
  else
    let plan := s.passPlan pitch roll
    let q1 := { q with clamped := q.clamped || plan.any PlanEntry.clamped, plan := some plan }
    let s1 := s.setSeq q1
    if plan.all fun e => e.target.isNone then s1.decideOutcome q1.shortOutcome
    else s1.enterLifting plan

/-- The check (R98): the response check after a pass, then steps 2 to 4. -/
def State.check (s : State) (pitch roll : Int) : Out :=
  let q := s.lvs.seq
  let miss := decide (1 ≤ q.passes) && s.disagrees pitch roll
  let misses := if 1 ≤ q.passes then (if miss then q.misses + 1 else 0) else q.misses
  if miss ∧ 2 ≤ misses then
    { st := s.setSeq { q with misses := misses, recorded := some (.fault .levelResponse) }
      acts := [.raise .levelResponse .coach, .lvsEnd .failed (.fault .levelResponse) (some (pitch, roll))] }
  else (s.setSeq { q with misses := misses, prev := some (pitch, roll) }).judge pitch roll

/-- A valid sample reaches the LVS (R97): the check is made at the first SETTLED sample at least 8 samples after entry. -/
def actLvsSample (s : State) : Out :=
  let q := s.lvs.seq
  if q.state = .settling then
    let n := sat 65535 q.samples
    let s1 := s.setSeq { q with samples := n }
    if s.atu.record.state = .settled ∧ 8 ≤ n then s1.check s.atu.record.pitch s.atu.record.roll else .done s1
  else .done s

/-- Whether a phase is complete (R95, R102, R105). -/
def actLvsProgress (s : State) : Out :=
  let q := s.lvs.seq
  if q.recorded.isSome then .done s
  else match q.state with
  | .contact =>
    if q.phaseStart.isSome && s.cornersLatched && !s.anyRecord cornerChans then .done s.enterSettling else .done s
  | .lifting => if s.anyRecord cornerChans then .done s else .done s.enterSettling
  | .support =>
    if s.anyRecord supportChans then .done s
    else { st := s, acts := [.lvsEnd (q.pending.getD .notLevel) .none q.prev] }
  | .idle | .settling => .done s

/-- The jacks that lost their record in an intake without reaching what the phase wants (R96, R106). -/
def State.noGround (s : State) (had : List (Fin 16)) : List (Fin 16) :=
  had.filter fun c => (s.chan c).motion.isNone &&
    (match s.lvs.seq.state with
     | .contact => decide (c ∈ cornerChans) && !(s.chan c).latch
     | .support => decide (c ∈ supportChans) && decide ((s.chan c).pressure < s.supportLevel c)
     | _ => false)

/-- A phase fails for a list of jacks: the cause is recorded, each jack raises, and the sequence ends FAILED. R96, R102 and R106
give a time limit a raise for each jack; that two jacks of a node which fail at their stroke in one intake both raise, in channel
order, is a DESIGN CHOICE, log entry 67. -/
def State.phaseFail (s : State) (k : FaultKind) (l : List (Fin 16)) : Out :=
  { st := s.setSeq { s.lvs.seq with recorded := some (.fault k) }
    acts := (l.map fun c => Act.raise k (.chan c)) ++ [.lvsEnd .failed (.fault k) none] }

/-- The LVS judges a whole intake (R96, R106), and only then looks whether its phase is complete (R95, R102, R105): what the
same intake hands on before, a latch loss or a protection code, still finds the old phase (DESIGN CHOICE, log entry 55). -/
def actLvsIntake (had : List (Fin 16)) (s : State) : Out :=
  let l := s.noGround had
  if l.length = 0 then { st := s, acts := [.lvsProgress] } else s.phaseFail .noGround l

/-- A corner jack's latch has cleared (R95, R109). -/
def actLvsLatchLost (c : Fin 16) (s : State) : Out :=
  let q := s.lvs.seq
  match q.state with
  | .contact =>
    if q.phaseStart.isSome ∧ (s.chan c).state = .idle then .done (s.levelRecord c .toEnd) else .done s
  | .settling | .lifting | .support =>
    if (s.chan c).moves .retract then .done s
    else { st := s, acts := [.lvsEnd .failed (.fault .groundLost) none] }
  | .idle => .done s

/-! ## The end of a sequence (R107, R108) -/

/-- The reason of a LEVEL unit that the LVS releases (R20). -/
def LvOutcome.reason : LvOutcome → Reason
  | .level | .bestEffort | .notLevel => .target
  | .aborted => .stopped
  | .failed | .none => .fault

/-- The positions of every populated jack channel. -/
def State.jackPositions (s : State) : List (Fin 16 × Int) :=
  (jackChans.filter s.populated).map fun c => (c, (s.chan c).position)

/-- The sequence ends (R107): the records and the grant or entry of LEVEL work, the result record, LEVEL_DONE, IDLE. -/
def actLvsEnd (o : LvOutcome) (cause : Cause) (final : Option (Int × Int)) (s : State) : Out :=
  let q := s.lvs.seq
  if q.state = .idle then .done s
  else
    let s1 := if (s.unit .jacks).origin = some .level then s.endUnit .jacks o.reason else s
    let f := final.getD (s.atu.record.pitch, s.atu.record.roll)
    let r : LvResult :=
      { outcome := o, cause := cause, endedIn := some q.state, passes := q.passes, pitch := f.1, roll := f.2,
        clamped := q.clamped, positions := s1.jackPositions }
    let s2 := s1.offer (.levelDone o cause q.state q.passes f.1 f.2 q.clamped)
    { st := { s2 with lvs := { seq := .reset, result := r } }, acts := [.restCheck false, .exam] }

/-- The end of the JACKS unit reaches the LVS (TABLE 6-10, R93). A cause already recorded is kept. A DESC_MISMATCH of a jack's
node has no row of TABLE 6-10: it ends the sequence FAILED with that kind as the cause, as the LOCK rows do (DESIGN CHOICE, log
entry 56). -/
def lvsUnitEnd (e : Ending) (s : State) : List Act :=
  let q := s.lvs.seq
  if q.state = .idle ∨ q.recorded.isSome then []
  else match e.why, e.cause with
  | .revoked, c | .preempted, c | .fault, c => [.lvsEnd .failed c none]
  | .interlock, .interlock => [.lvsEnd .failed .interlock none]
  | _, _ => [.lvsEnd .aborted .none none]

/-! ## Acceptance (R93) -/

/-- A LEVEL request is accepted: CONTACT, LEVEL_STATUS, and the request for JACKS naming the unlatched corner jacks. -/
def State.startLevel (s : State) (option : Bool) : Out :=
  let s1 := (s.setSeq { LvSeq.reset with state := .contact, option := option }).levelStatus
  match s1.sguRefuses .jacks .level with
  | some c => { st := s1, acts := [.lvsEnd .failed c none] }
  | none =>
    { st := s1.place .jacks .level ((cornerChans.filter fun c => !(s.chan c).latch).map contactPending)
      acts := placedActs }

/-! ## Time limits (R96, R97, R102, R106) -/

/-- The frames since the phase start; none where it is absent. -/
def State.phaseFrames (s : State) : Option Nat := s.lvs.seq.phaseStart.map (elapsed s.frame)

/-- The phase has run a limit. -/
def State.phaseDue (s : State) (st : LvState) (limit : Nat) : Bool :=
  decide (s.lvs.seq.state = st) && (match s.phaseFrames with
    | some n => decide (limit ≤ n)
    | none => false)

/-- CONTACT has run 4000 frames: the corner jacks whose latch is clear (R96). -/
def State.contactTimeout (s : State) : Out :=
  let l := cornerChans.filter fun c => !(s.chan c).latch
  if s.phaseDue .contact 4000 && decide (l.length ≠ 0) then s.phaseFail .noGround l else .done s

/-- SETTLING has run 2000 frames without a check (R97). -/
def State.settleTimeout (s : State) : Out :=
  if s.phaseDue .settling 2000 then { st := s, acts := [.lvsEnd .failed .unstable none] } else .done s

/-- LIFTING has run 6000 frames: the corner jacks still moving (R102). -/
def State.liftTimeout (s : State) : Out :=
  let l := cornerChans.filter fun c => (s.chan c).movesFor .level
  if s.phaseDue .lifting 6000 && decide (l.length ≠ 0) then s.phaseFail .liftTimeout l else .done s

/-- SUPPORT has run 4000 frames: the support jacks that still have a record (R106). -/
def State.supportTimeout (s : State) : Out :=
  let l := supportChans.filter fun c => (s.chan c).movesFor .level
  if s.phaseDue .support 4000 && decide (l.length ≠ 0) then s.phaseFail .noGround l else .done s

end Sys2Proof.Machine
end

