-- ==== Sys2Proof/Machine/Wind.lean ====
section
/-! DEFINITION. The Wind Guard (chapter 8): measurement, trips, provision for the retract, release. -/

namespace Sys2Proof.Machine

/-- The wind speed of a period: wind-factor divided by it, clamped to 0..600 (R131). -/
def windSpeed (factor period : Nat) : Nat := min 600 (roundDiv factor period).toNat

/-- A rising edge (R130, R131): filtered at 2000 µs; an accepted edge restarts the calm timer and, when it is not the first,
yields a measurement. The guard measures from frame 0 after every reset (R134): an edge between a soft reset and frame 0 is
not taken (DEDUCED, log entry 40). -/
def State.windEdge (s : State) (time : Nat) : Out :=
  if s.restartFrame then .done s
  else match s.wgd.lastEdge with
  | none => .done { s with wgd := { s.wgd with lastEdge := some time, calmStart := some s.frame } }
  | some t =>
    if time - t < 2000 then .done s
    else
      let period := time - t
      { st := { s with wgd := { s.wgd with lastEdge := some time, calmStart := some s.frame, lastPeriod := some period
                                           speed := windSpeed s.par.windFactor period } }
        acts := [.measure] }

/-- The calm timer has run 500 frames (R132). -/
def State.calmDue (s : State) : Bool :=
  match s.wgd.calmStart with
  | some f => decide (500 ≤ elapsed s.frame f)
  | none => false

/-- Calm (R132): speed 0, no last edge, and a measurement of 0. -/
def State.calm (s : State) : Out :=
  if s.calmDue then
    { st := { s with wgd := { s.wgd with speed := 0, lastEdge := none, calmStart := none } }, acts := [.measure] }
  else .done s

/-- The user's awning work that a trip ends (R135). -/
def State.tripEndings (s : State) : List Ending :=
  let x := s.unit .awning
  if x.origin = some .user ∧ ((x.state = .active ∧ (s.chan 14).moves .extend = true) ∨ x.state = .waiting) then
    [ending .awning .interlock .interlock]
  else []

/-- A trip (R134): TRIPPED, WIND_TRIP raised, R135, R136, WIND_GUARD. -/
def State.trip (s : State) : Out :=
  let extending := decide ((s.unit .awning).state = .active ∧ (s.unit .awning).origin = some .user) &&
    (s.chan 14).moves .extend
  { st := { s with wgd := { s.wgd with state := .tripped, trips := 0, bypassed := false } }
    acts := [.raise .windTrip .coach, .endUnits s.tripEndings, .provide extending, .guardNotice .armed] }

/-- The guard takes the measurement in `speed` (R134, R138, R139). -/
def actMeasure (s : State) : Out :=
  let g := s.wgd
  match g.state with
  | .armed =>
    if s.par.tripAtOnce ≤ g.speed then s.trip
    else if s.par.windTrip ≤ g.speed then
      if 3 ≤ g.trips + 1 then s.trip else .done { s with wgd := { g with trips := g.trips + 1 } }
    else .done { s with wgd := { g with trips := 0 } }
  | .tripped =>
    if s.par.windMode = .follow ∧ g.speed < s.par.resetLevel then
      { st := { s with wgd := { g with state := .holdOff, holdOff := some (after s.frame (framesOf s.par.windHoldOff)) } }
        acts := [.guardNotice .tripped, .gone .awningExposed (.unit .awning)] }
    else .done s
  | .holdOff =>
    if s.par.resetLevel ≤ g.speed then
      { st := { s with wgd := { g with state := .tripped, holdOff := none, bypassed := false } }
        acts := [.provide false, .guardNotice .holdOff] }
    else .done s

/-- A WIND_GUARD notice (R140): the state and retract state as they stand. -/
def actGuardNotice (old : GuardState) (s : State) : Out :=
  .done (s.offer (.windGuard s.wgd.state old s.wgd.speed s.wgd.retract))

def State.setRetract (s : State) (r : RetractState) : State := { s with wgd := { s.wgd with retract := r } }

/-- The retract cannot be made: FAILED, and AWNING_EXPOSED when the awning is not STOWED (R137). -/
def State.retractFailed (s : State) : Out :=
  { st := s.setRetract .failed, acts := if s.exposed then [.raise .awningExposed (.unit .awning)] else [] }

/-- A USER retract becomes WIND work: the unit, its grant and its record (TABLE 8-3). -/
def State.convertRetract (s : State) : State :=
  let s1 := s.setUnit .awning { s.unit .awning with origin := some .wind, cls := some .wind }
  let s2 := { s1 with sgu := { s1.sgu with
    grants := s1.sgu.grants.map fun (e : GEntry) => if e.unit = UnitId.awning then { e with cls := .wind } else e } }
  s2.modChan 14 fun x => { x with motion := x.motion.map fun (m : Motion) =>
    { m with origin := .wind, attended := false, deadline := none } }

/-- TABLE 8-3. An awning that the layout does not have is nothing to bring home. A guard that returns from HOLD_OFF to TRIPPED
(R139) finds R135 not applied, and the SGU refuses BUSY when the user's retract is WAITING: the retract state is FAILED as at
any refusal, and AWNING_EXPOSED is raised, whose STOP effect withdraws that retract (DESIGN CHOICE, log entry 57). -/
def actProvide (endedExtend : Bool) (s : State) : Out :=
  let x := s.unit .awning
  if !s.populated 14 || (s.awningStowed && !endedExtend) then .done (s.setRetract .notNeeded)
  else if s.sst.phase ≠ .run then .done (s.setRetract .deferred)
  else if x.state ≠ .idle ∧ (x.origin = some .wind ∨ x.origin = some .stow) then .done (s.setRetract .covered)
  else if x.state = .active ∧ x.origin = some .user ∧ (s.chan 14).moves .retract = true then
    .done (s.convertRetract.setRetract .requested)
  else if (s.chan 14).state = .faulted ∨ (s.chan 14).state = .disabled ∨ (s.node 7).state ≠ .ready then s.retractFailed
  else match s.sguRefuses .awning .wind with
  | some _ => s.retractFailed
  | none =>
    { st := (s.place .awning .wind (s.pendAll .awning .retract none)).setRetract .requested, acts := placedActs }

/-- The guard becomes ARMED (R138): counter, deadline, retract state and bypassed return to their reset values, the two
conditions end, and WIND_GUARD is queued. -/
def actGuardArm (s : State) : Out :=
  { st := { s with wgd := { s.wgd with state := .armed, trips := 0, holdOff := none, retract := .none, bypassed := false } }
    acts := [.gone .windTrip .coach, .gone .awningExposed (.unit .awning), .guardNotice s.wgd.state] }

/-- The hold-off deadline has come (R139). -/
def State.holdOffDue (s : State) : Bool :=
  decide (s.wgd.state = .holdOff) && (match s.wgd.holdOff with
    | some f => reached s.frame f
    | none => false)

/-- The end of the work that provides for a trip reaches the WGD (R137). -/
def wgdUnitEnd (e : Ending) (o : Origin) (s : State) : Out :=
  let serves := decide (e.unit = .awning) && (decide (o = .wind) || (decide (o = .stow) && decide (s.wgd.retract = .covered)))
  if serves && decide (s.wgd.state = .tripped) then
    match e.why with
    | .ended | .target => .done (s.setRetract .done)
    | .stopped => .done { s with wgd := { s.wgd with retract := .stopped, bypassed := true } }
    | _ => s.retractFailed
  else .done s

end Sys2Proof.Machine
end

