-- ==== Sys2Proof/Machine/Stow.lean ====
section
/-! DEFINITION. The stow sequence (9.5): start, steps, failures, ends. -/

namespace Sys2Proof.Machine

def State.setStow (s : State) (q : StowSeq) : State := { s with ciu := { s.ciu with stow := q } }

/-- A unit has work with direction EXTEND, pending or under way. -/
def State.extending (s : State) (u : UnitId) : Bool :=
  ((s.unit u).pending.any fun p => decide (p.dir = .extend)) || (s.unitChans u).any fun c => (s.chan c).moves .extend

/-- The USER work that a stow's start ends: INTERLOCK for EXTEND, else STOPPED (R151), in unit order (DESIGN CHOICE, log entry
51). -/
def State.userEndings (s : State) : List Ending :=
  (allUnits.filter fun u => decide ((s.unit u).origin = some .user)).map fun u =>
    if s.extending u then ending u .interlock .interlock else ending u .stopped .stopped

/-- A stow sequence starts (R151): the state leaves IDLE and the extends end; the LVS is told; USER work ends; the AWNING
step is entered. -/
def actStowStart (t : Trigger) (s : State) : Out :=
  { st := s.setStow { state := .awning, trigger := some t, stepStart := some s.frame, awaited := [] }
    acts := [.termFail true true, .lvsEnd .aborted .none none, .endUnits s.userEndings, .stowEnter .awning] }

/-- A step is entered: its state and start, STOW_STATUS, and its beginning (R151, R153, R154). -/
def actStowEnter (st : StowState) (s : State) : Out :=
  let q : StowSeq := { s.ciu.stow with state := st, stepStart := some s.frame, awaited := [] }
  { st := (s.setStow q).offer (.stowStatus st q.trigger []), acts := [.stowBegin] }

/-- Why a channel that a step would move cannot be (TABLE 9-8, first three rows). Of several, the first in channel order is
reported, and of one channel FAULTED before DISABLED before its node (DESIGN CHOICE, log entry 46). -/
def State.entryFault (s : State) (c : Fin 16) : Option (Cause × Subject) :=
  let x := s.chan c
  if x.state = .faulted then some (match x.lock with | some k => .fault k | none => .none, .chan c)
  else if x.state = .disabled then some (.fault .descMismatch, .node (nodeOf c))
  else if (s.node (nodeOf c)).state ≠ .ready then some (.fault .nodeLost, .node (nodeOf c))
  else none

/-- The rooms that the ROOMS step must bring in, in room order (R154). -/
def State.roomsOut (s : State) : List (Fin 4) :=
  allRooms.filter fun r => s.roomUsed r && decide (s.roomRest r ≠ .stowed)

/-- The jacks that the JACKS step must bring up (R155). -/
def State.jacksOut (s : State) : List (Fin 16) :=
  (jackChans.filter s.populated).filter fun c => decide (s.rest c ≠ .stowed)

/-- The step fails (R156). -/
def stowFail (s : State) (c : Cause) (sj : Subject) : Out := { st := s, acts := [.stowEnd .failed c (some sj)] }

/-- The unit of a one-unit step becomes awaited and its STOW request is placed (R153, R155). -/
def State.stowRequest (s : State) (u : UnitId) (l : List Pending) : State :=
  (s.setStow { s.ciu.stow with awaited := [u] }).place u .stow l

/-- The ROOMS step requests the first of the rooms it has left to request (R154). The step awaits every one of them from its
beginning. A refusal fails the step, and a step that has failed on an earlier room requests no more (R156). -/
def actRequestRooms (l : List (Fin 4)) (s : State) : Out :=
  match l with
  | [] => .done s
  | r :: l =>
    if s.ciu.stow.state = .rooms ∧ .room r ∈ s.ciu.stow.awaited then
      match s.sguRefuses (.room r) .stow with
      | some c => stowFail s c (.unit (.room r))
      | none =>
        { st := s.place (.room r) .stow (s.pendAll (.room r) .retract none), acts := placedActs ++ [.requestRooms l] }
    else .done s

/-- The step's beginning (R153, R154, R155). -/
def actStowBegin (s : State) : Out :=
  match s.ciu.stow.state with
  | .idle => .done s
  | .awning =>
    let x := s.unit .awning
    if !s.populated 14 then { st := s, acts := [.stowEnter .rooms] }
    else if x.state ≠ .idle ∧ x.origin = some .wind then .done (s.setStow { s.ciu.stow with awaited := [.awning] })
    else if s.awningStowed then { st := s, acts := [.stowEnter .rooms] }
    else match s.entryFault 14 with
    | some (c, sj) => stowFail s c sj
    | none =>
      match s.sguRefuses .awning .stow with
      | some c => stowFail s c (.unit .awning)
      | none => { st := s.stowRequest .awning (s.pendAll .awning .retract none), acts := placedActs }
  | .rooms =>
    let l := s.roomsOut
    if l.length = 0 then { st := s, acts := [.stowEnter .jacks] }
    else match (l.flatMap fun r => s.unitChans (.room r)).findSome? s.entryFault with
    | some (c, sj) => stowFail s c sj
    | none => { st := s.setStow { s.ciu.stow with awaited := l.map UnitId.room }, acts := [.requestRooms l] }
  | .jacks =>
    let l := s.jacksOut
    if l.length = 0 then { st := s, acts := [.stowEnd .complete .none none] }
    else if !s.jackRetract then stowFail s .interlock (.unit .jacks)
    else match l.findSome? s.entryFault with
    | some (c, sj) => stowFail s c sj
    | none =>
      match s.sguRefuses .jacks .stow with
      | some c => stowFail s c (.unit .jacks)
      | none =>
        { st := s.stowRequest .jacks (l.map fun c => { chan := c, dir := .retract, target := .toEnd, deadline := none })
          acts := placedActs }

/-- The subject of a NOT_STOWED failure: the unit, or the room (TABLE 9-8). -/
def notStowedSubject : UnitId → Subject
  | .room r => .room r
  | u => .unit u

/-- What follows when awaited work has ended with its unit STOWED: the step completes, waits on, or finds a room that has
left STOWED (R153 to R155). A room whose awaited retract ended STOWED and that has left STOWED since fails the step as a
room passed over does (DESIGN CHOICE, log entry 47). Of several rooms that no longer read STOWED the first in room order is the
subject (DESIGN CHOICE, log entry 64). -/
def State.stowProgress (s : State) : List Act :=
  let q := s.ciu.stow
  if q.awaited.length ≠ 0 then []
  else match q.state with
  | .idle => []
  | .awning => [.stowEnter .rooms]
  | .rooms =>
    match s.roomsOut with
    | [] => [.stowEnter .jacks]
    | r :: _ => [.stowEnd .failed .notStowed (some (.room r))]
  | .jacks => [.stowEnd .complete .none none]

/-- The end of awaited work reaches the CIU (R153 to R157, TABLE 9-8). Work that is not awaited is not judged, and an end by a
fault on a subject that the step is not moving does not come here (State.sparesStep, R156). -/
def stowUnitEnd (e : Ending) (s : State) : Out :=
  let q := s.ciu.stow
  if q.state ≠ .idle ∧ e.unit ∈ q.awaited then
    let s1 := s.setStow { q with awaited := q.awaited.filter fun u => decide (u ≠ e.unit) }
    match e.why with
    | .ended | .target =>
      if s1.unitStowed e.unit then { st := s1, acts := s1.stowProgress }
      else stowFail s1 .notStowed (notStowedSubject e.unit)
    | .stopped => { st := s1, acts := [.stowEnd .aborted .stopped (some (.unit e.unit))] }
    | .fault => { st := s1, acts := [.stowEnd .failed e.cause e.subject] }
    | .revoked | .preempted => stowFail s1 e.cause (.unit e.unit)
    | .interlock | .released | .silence => stowFail s1 .interlock (.unit e.unit)
  else .done s

/-- The remaining STOW work of a sequence that ends (R156), in unit order (DESIGN CHOICE, log entry 51). R156 gives the reason
STOPPED for units that are ACTIVE and has WAITING ones withdrawn without a reason: their MOTION_END carries STOPPED too (DESIGN
CHOICE, log entry 63). -/
def State.stowEndings (s : State) : List Ending :=
  (allUnits.filter fun u => decide ((s.unit u).origin = some .stow)).map fun u => ending u .stopped .stopped

/-- The sequence ends (R157): its remaining work is ended unjudged, then the result is written and reported. -/
def actStowEnd (o : StowOutcome) (c : Cause) (sj : Option Subject) (s : State) : Out :=
  if s.ciu.stow.state = .idle then .done s
  else
    { st := s.setStow { s.ciu.stow with awaited := [] }, acts := [.endUnits s.stowEndings, .stowDone o c sj] }

/-- The result record, STOW_DONE, and the sequence record at IDLE (R157). -/
def actStowDone (o : StowOutcome) (c : Cause) (sj : Option Subject) (s : State) : Out :=
  let q := s.ciu.stow
  if q.state = .idle then .done s
  else
    let r : StowResult := { outcome := o, trigger := q.trigger, step := some q.state, cause := c, subject := sj }
    let s1 := s.offer (.stowDone o q.trigger (some q.state) c sj)
    { st := { s1 with ciu := { s1.ciu with stow := .reset, result := r } }, acts := [.restCheck false] }

/-- The step has run stow-step-time (R156). -/
def State.stowDue (s : State) : Bool :=
  decide (s.ciu.stow.state ≠ .idle) && (match s.ciu.stow.stepStart with
    | some f => decide (framesOf s.par.stowStepTime ≤ elapsed s.frame f)
    | none => false)

/-- TIMEOUT names the first awaited unit (TABLE 9-8). -/
def State.stowTimeout (s : State) : Out :=
  if s.stowDue then { st := s, acts := [.stowEnd .failed .timeout (s.ciu.stow.awaited.head?.map Subject.unit)] }
  else .done s

/-- Auto-stow at a change of IGN to on (R152). In CUTOFF the result record and STOW_DONE carry no subject, since R152 names none
(DESIGN CHOICE, log entry 69). -/
def State.autoStow (s : State) : Out :=
  if s.par.autoStow ∧ s.parkSet ∧ s.sst.phase = .run ∧ s.ciu.stow.state = .idle then
    if s.sgu.supply = .cutoff then
      let r : StowResult := { outcome := .failed, trigger := some .auto, step := some .awning, cause := .supply,
                              subject := none }
      .done ({ s with ciu := { s.ciu with result := r } }.offer (.stowDone .failed (some .auto) (some .awning) .supply none))
    else { st := s, acts := [.stowStart .auto] }
  else .done s

end Sys2Proof.Machine
end

