-- ==== Sys2Proof/Machine/Interlock.lean ====
section
/-! DEFINITION. The Coach Interlock Unit (9.1 to 9.4): inputs, failing permit terms, TRAVEL, the travel alarm. -/

namespace Sys2Proof.Machine

/-- A failing term ends every EXTEND of the rooms (SLIDE_EXTEND, R116), of the awning (AWNING_EXTEND, R129), or of both
(R145). Several units end in unit order (DESIGN CHOICE, log entry 51). -/
def actTermFail (slide awning : Bool) (s : State) : Out :=
  let l := allUnits.filter fun u =>
    (match u with
     | .jacks => false
     | .room _ => slide
     | .awning => awning) && ((s.unitChans u).any fun c => (s.chan c).moves .extend)
  { st := s, acts := [.endUnits (l.map fun u => ending u .interlock .interlock)] }

/-- The rise of the alarm ends every EXTEND record: rooms and awning by their permit terms, a USER jack alone, LEVEL work on
JACKS as a whole (R149, R19). The rooms and the awning go before the jacks (DESIGN CHOICE, log entry 51). -/
def actAlarmRise (s : State) : Out :=
  let l := (s.unitChans .jacks).filter fun c => (s.chan c).moves .extend
  { st := s
    acts := [.termFail true true]
      ++ (if (s.unit .jacks).origin = some .level then
            (if l.length = 0 then [] else [.endUnits [ending .jacks .interlock .none]])
          else l.map fun c => .chanEnd c .interlock) }

/-- TRAVEL (R147), and on its change, or when forced, the travel alarm (R148); the end of AWNING_EXPOSED with the awning
STOWED (R137); the end of jack retracts under a failed JACK_RETRACT (R146); in this order (DESIGN CHOICE, log entry 53). -/
def actRestCheck (force : Bool) (s : State) : Out :=
  let travel := s.travelRule
  let judge := force || travel != s.ciu.travel
  let raised := decide (s.sst.phase = .run) && s.parkReleased && !travel
  let alarm := if judge then raised else s.ciu.alarm
  { st := { s with ciu := { s.ciu with travel := travel, alarm := alarm } }
    acts :=
      (if alarm && !s.ciu.alarm then [.raise .travelAlarm .coach, .alarmRise] else [])
        ++ (if !alarm && s.ciu.alarm then [.gone .travelAlarm .coach] else [])
        ++ (if s.awningStowed then [.gone .awningExposed (.unit .awning)] else [])
        ++ (if !s.roomsStowed && (jackChans.any fun c => (s.chan c).moves .retract) then
              [.endUnits [ending .jacks .interlock .interlock]] else []) }

/-! ## Inputs (R141, R142) -/

def State.input (s : State) : InputId → Input
  | .ign => s.ciu.ign
  | .park => s.ciu.park
  | .eng => s.ciu.eng

def State.setInput (s : State) (i : InputId) (x : Input) : State :=
  match i with
  | .ign => { s with ciu := { s.ciu with ign := x } }
  | .park => { s with ciu := { s.ciu with park := x } }
  | .eng => { s with ciu := { s.ciu with eng := x } }

/-- One sample: the run count and the last sample (R141). -/
def Input.sample (x : Input) (level : Bool) : Input :=
  { x with last := level, run := if level = x.last then sat 4 x.run else 1 }

/-- A sampled level is accepted: it has stood for four samples and differs from the accepted level (R141). -/
def Input.accepts (x : Input) : Bool := decide (x.run = 4 ∧ x.accepted ≠ some x.last)

/-- TABLE 9-2: the uses of an accepted level; `change` says that it replaces the other level. At a PARK release the rooms'
extends end first, then the LVS takes the release, then TRAVEL's alarm is judged; R109 leaves the order of the last two open
(DESIGN CHOICE, log entry 58). -/
def inputUses (s : State) (i : InputId) (level change : Bool) : Out :=
  match i with
  | .ign => if change && level then s.autoStow else .done s
  | .park =>
    { st := s
      acts := (if level then [] else [Act.termFail true false])
        ++ (if change && !level then [.lvsEnd .aborted .none none] else []) ++ [.restCheck change] }
  | .eng => { st := s, acts := (if level then [] else engineLossActs s) ++ [.budget] }

/-- A frame-end sample of an input (R141, R142). -/
def State.sampleInput (s : State) (i : InputId) (level : Bool) : Out :=
  let x := (s.input i).sample level
  if x.accepts then
    match x.accepted with
    | none => inputUses (s.setInput i { x with accepted := some level }) i level false
    | some old =>
      let s1 := s.setInput i { x with accepted := some level, changed := true }
      inputUses (s1.offer (.inputChange i level old)) i level true
  else .done (s.setInput i x)

end Sys2Proof.Machine
end

