-- ==== Sys2Proof/Machine/NodeLink.lean ====
section
/-! DEFINITION. The Node Link Controller (chapter 2) and the measurements an intake delivers (chapter 3): classification,
intake in the order of R29, the node table, descriptor reads. -/

namespace Sys2Proof.Machine

/-! ## Classification (R29) -/

/-- The fields of a VALID status frame (TABLE 13-8). -/
structure Status where
  condA : Cond
  countA : BitVec 16
  currentA : Nat
  pressureA : Nat
  condB : Cond
  countB : BitVec 16
  currentB : Nat
  pressureB : Nat
  ctl : Byte
  data : Byte
  deriving DecidableEq, Repr

/-- The status frame of slot n, when the reply is VALID: fourteen bytes, no framing error, a good CRC-8, address n, and
both condition codes 0 to 5. Every other reply is a miss (R29). -/
def statusOf (n : Fin 8) (reply : SlotReply) : Option Status :=
  match reply with
  | .silent => none
  | .bytes l =>
    if l.any RxByte.framingError then none
    else match l.map RxByte.value with
    | [addr, ka, a1, a0, ia, pa, kb, b1, b0, ib, pb, ctl, data, crc] =>
      if crc8 [addr, ka, a1, a0, ia, pa, kb, b1, b0, ib, pb, ctl, data] = crc ∧ addr.toNat = n.val then
        match Cond.ofCode ka.toNat, Cond.ofCode kb.toNat with
        | some ca, some cb =>
          some { condA := ca, countA := a1 ++ a0, currentA := ia.toNat, pressureA := pa.toNat
                 condB := cb, countB := b1 ++ b0, currentB := ib.toNat, pressureB := pb.toNat, ctl := ctl, data := data }
        | _, _ => none
      else none
    | _ => none

/-! ## Delivery (R30 to R32) -/

/-- The output record that serves a channel. -/
def State.outRec (s : State) (c : Fin 16) : OutRec :=
  let x := s.node (nodeOf c)
  if isOutB c then x.outB else x.outA

def State.setOutRec (s : State) (c : Fin 16) (o : OutRec) : State :=
  s.modNode (nodeOf c) fun x => if isOutB c then { x with outB := o } else { x with outA := o }

/-- The reported count less the last count, modulo 65536, read as signed (R30). -/
def countChange (count last : BitVec 16) : Int := (count - last).toInt

/-- A position change (R30), and the jack tests it calls for (R51). -/
def actPosition (c : Fin 16) (count : BitVec 16) (s : State) : Out :=
  let o := s.outRec c
  let s1 := s.setOutRec c { o with lastCount := some count }
  match o.lastCount with
  | none => .done s1
  | some last =>
    { st := s1.modChan c fun x => { x with position := clampPos (x.position + countChange count last) }
      acts := [.jackTest c] }

/-- The contact latch after a pressure (R53). -/
def latchAfter (latch : Bool) (p : JackParams) (pressure : Nat) : Bool :=
  if latch then !decide ((pressure : Int) < (p.contactThreshold : Int) - p.contactHysteresis)
  else decide (p.contactThreshold ≤ pressure)

/-- The current lies outside the running band (R55), exact at 0.5 A. -/
def dragOutside (p : MotorParams) (current : Nat) : Bool := decide (current < 2 * p.dragLow ∨ 2 * p.dragHigh < current)

/-- Drag counting of one intake (R55). -/
def State.dragCount (s : State) (c : Fin 16) (current : Nat) : Out :=
  let x := s.chan c
  match x.motion with
  | none => .done s
  | some m =>
    if !m.arrived && reached s.frame m.graceEnd && dragOutside (s.motorPar c) current then
      let n := sat 65535 x.dragCount
      if decide ((s.motorPar c).dragLimit < n) && !x.dragReported then
        { st := s.setChan c { x with dragCount := n, dragReported := true }, acts := [.raise .drag (.chan c)] }
      else .done (s.setChan c { x with dragCount := n })
    else .done s

/-- What a change of a jack's latch hands on (R53, R54, R145, R95, R109). R54 does not order its consequences: GROUND_LOST is
raised first, or reported gone first, then the extending rooms end, then the LVS takes the change (DESIGN CHOICE, log entry
53). -/
def latchActs (s : State) (c : Fin 16) (old new : Bool) : List Act :=
  let corner := decide (c ∈ cornerChans)
  if !old && new then
    [.gone .groundLost (.chan c)]
      ++ (if corner && decide (s.lvs.seq.state = .contact) && (s.chan c).movesFor .level then [.chanEnd c .target] else [])
      ++ [.restCheck false]
  else if old && !new then
    (if (s.chan c).moves .retract then [] else [Act.raise .groundLost (.chan c)])
      ++ (if corner && s.par.slidesNeedJacks then [.termFail true false] else [])
      ++ (if corner then [.lvsLatchLost c] else []) ++ [.restCheck false]
  else []

/-- A support jack with a LEVEL record at its support level holds (R105). -/
def supportActs (s : State) (c : Fin 16) : List Act :=
  if decide (c ∈ supportChans) && decide (s.lvs.seq.state = .support) && (s.chan c).movesFor .level &&
      decide (s.supportLevel c ≤ (s.chan c).pressure) then [.chanEnd c .target] else []

/-- Current and pressure (R31), with the latch (R53) and drag (R55). -/
def actElectric (c : Fin 16) (current pressure : Nat) (s : State) : Out :=
  let x := s.chan c
  if x.isJack then
    let latch := latchAfter x.latch (s.jackPar c) pressure
    let s1 := s.setChan c { x with current := current, pressure := pressure, latch := latch }
    { st := s1, acts := latchActs s1 c x.latch latch ++ supportActs s1 c }
  else (s.setChan c { x with current := current }).dragCount c current

/-- The fault of a protection code (TABLE 3-6). -/
def condFault : Cond → Option FaultKind
  | .overcurrent => some .overcurrent
  | .overtemp => some .overtemp
  | .openLoad => some .openLoad
  | .normal | .limitExt | .limitRet => none

/-- What a change of the validated condition hands on (R49, R50, R56): the end of the old code's fault and the raise of the
new one come before the end that a limit switch reports (DESIGN CHOICE, log entry 53). -/
def condActs (s : State) (c : Fin 16) (old new : Cond) : List Act :=
  let x := s.chan c
  (match condFault old with | some k => [.gone k (.chan c)] | none => [])
    ++ (match condFault new with | some k => [.raise k (.chan c)] | none => [])
    ++ (if new = .limitRet then [.rehome c] else [])
    ++ (if new = .limitExt ∧ x.isMotor = true ∧ x.moves .retract = false then [.extendEnd c] else [])
    ++ [.restCheck false]

/-- A condition code is delivered (R32); a channel on its closed switch whose position is not known is re-homed at every
intake (R49). The validated condition is the one after this intake: an intake that validates a change away from LIMIT_RET
does not re-home (DESIGN CHOICE, log entry 43). -/
def actCondition (c : Fin 16) (k : Cond) (s : State) : Out :=
  let o := s.outRec c
  let x := s.chan c
  if k = x.cond then
    { st := s.setOutRec c { o with candidate := none }
      acts := if x.cond = .limitRet ∧ x.known = false then [.rehome c] else [] }
  else if o.candidate = some k then
    let s1 := (s.setOutRec c { o with candidate := none }).setChan c { x with cond := k }
    { st := s1, acts := condActs s1 c x.cond k }
  else
    { st := s.setOutRec c { o with candidate := some k }
      acts := if x.cond = .limitRet ∧ x.known = false then [.rehome c] else [] }

/-! ## Descriptor reads (R37 to R40) -/

/-- The message control expected for a cursor (R37): FIRST, NEXT, END. -/
def expectedCtl (k : Nat) : Byte := if k = 0 then 1 else if k = 9 then 3 else 2

/-- A read ends: no cursor, no scratch descriptor, no step pending. -/
def Node.stopRead (x : Node) : Node := { x with cursor := none, scratch := [], xfer := .none }

/-- A new read begins in the next frame with a retry count of 0 (R36, R40). -/
def Node.startRead (x : Node) : Node :=
  { x with state := .discovering, good := 0, retry := 0, cursor := none, scratch := [], xfer := .startNext }

/-- Clears position known on the motor channels of a node (R36, R40). -/
def State.forgetMotors (s : State) (n : Fin 8) : State :=
  (s.nodeChans n).foldl (fun t c => t.modChan c fun x => if x.isMotor then x.forget else x) s

/-- A node's read has failed or its descriptor is rejected: MISMATCH, its channels DISABLED, DESC_MISMATCH (R38, R39). The
end of NODE_LOST is reported before the raise (DESIGN CHOICE, log entry 53). -/
def actMismatch (n : Fin 8) (cause : MismatchCause) (s : State) : Out :=
  let s1 := s.modNode n fun x => { x.stopRead with state := .mismatch, cause := some cause }
  let s2 := (s.nodeChans n).foldl (fun t c => t.modChan c fun x => { x with state := .disabled }) s1
  { st := s2, acts := [.gone .nodeLost (.node n), .raise .descMismatch (.node n), .restCheck false] }

/-- An attempt fails (R38): below three failures the next frame carries ABORT; at the third the read has failed. -/
def actAttemptFail (n : Fin 8) (s : State) : Out :=
  let x := s.node n
  let s1 := s.setNode n { x.stopRead with retry := x.retry + 1, xfer := if x.retry + 1 < 3 then .abortNext else .none }
  { st := s1, acts := if x.retry + 1 < 3 then [] else [.mismatch n .transfer] }

/-- The kind byte TABLE 2-7 requires of the output that serves a channel. -/
def requiredKind (x : Channel) : Nat := if x.isJack then 2 else 1

/-- Byte i of a descriptor as a number. -/
def descByte (l : List Byte) (i : Nat) : Nat := ((l[i]?).getD 0).toNat

/-- The first failing test of R39, if any. -/
def State.descFault (s : State) (n : Fin 8) (l : List Byte) : Option MismatchCause :=
  let useA := s.populated (chanA n)
  let useB := s.populated (chanB n)
  let count := descByte l 1
  let twin := match roomOf (chanA n) with
    | some r => decide ((s.room r).type = .twin)
    | none => false
  let old := (s.node n).desc
  let changed := fun i => match old with
    | some o => decide (descByte o i ≠ descByte l i)
    | none => false
  if (useA && decide (count < 1)) || (useB && decide (count < 2)) then some .outputs
  else if (useA && decide (descByte l 2 ≠ requiredKind (s.chan (chanA n))))
      || (useB && decide (descByte l 5 ≠ requiredKind (s.chan (chanB n)))) then some .kind
  else if (useA && decide (descByte l 4 = 0)) || (useB && decide (descByte l 7 = 0)) then some .c10
  else if twin && decide (descByte l 4 ≠ descByte l 7) then some .twinC10
  else if (useA && (changed 2 || changed 4)) || (useB && (changed 5 || changed 7)) then some .changed
  else none

/-- A descriptor with a good sum is judged (R39); accepted or rejected, it becomes the held descriptor. -/
def State.judgeDesc (s : State) (n : Fin 8) (l : List Byte) : Out :=
  match s.descFault n l with
  | some cause => { st := s.modNode n fun x => { x with desc := some l }, acts := [.mismatch n cause] }
  | none =>
    { st := s.modNode n fun x => { x.stopRead with state := .ready, desc := some l, retry := 0 }
      acts := [.gone .nodeLost (.node n)] }

/-- The sum of a descriptor's bytes modulo 256 (R37). -/
def descSum (l : List Byte) : Byte := l.foldl (· + ·) 0

/-- The message channel is examined only while an attempt is in progress (R37, R38, R192). -/
def actMessage (n : Fin 8) (ctl data : Byte) (s : State) : Out :=
  let x := s.node n
  match x.state, x.xfer, x.cursor with
  | .discovering, .none, some k =>
    if ctl = expectedCtl k then
      let l := x.scratch ++ [data]
      if k < 9 then .done (s.setNode n { x with scratch := l, cursor := some (k + 1) })
      else if descSum l = 0 then (s.setNode n { x.stopRead with scratch := [] }).judgeDesc n l
      else { st := s, acts := [.attemptFail n] }
    else { st := s, acts := [.attemptFail n] }
  | _, _, _ => .done s

/-! ## Counting (R34 to R36) -/

/-- A VALID slot is counted; two good frames bring a LOST node to DISCOVERING (R34, R36). -/
def actCountValid (n : Fin 8) (s : State) : Out :=
  let x := s.node n
  if x.state = .lost then
    if 2 ≤ x.good + 1 then
      { st := (s.setNode n { x.startRead with misses := 0 }).forgetMotors n, acts := [.restCheck false] }
    else .done (s.setNode n { x with misses := 0, good := x.good + 1 })
  else .done (s.setNode n { x with misses := 0 })

/-- A node's outputs lose their candidates at a miss (R32). -/
def Node.dropCandidates (x : Node) : Node :=
  { x with outA := { x.outA with candidate := none }, outB := { x.outB with candidate := none } }

/-- A miss is counted (R34); the third makes a READY or DISCOVERING node LOST (R35), an earlier one fails an attempt in
progress (R38). A node that leaves MISMATCH (R40) keeps its count: with 3 misses in a row already counted it is LOST at its
next miss (DESIGN CHOICE, log entry 41). -/
def actCountMiss (n : Fin 8) (s : State) : Out :=
  let x := s.node n
  let y : Node := { x.dropCandidates with misses := sat 3 x.misses, good := 0, missTotal := sat 65535 x.missTotal }
  if (x.state = .ready ∨ x.state = .discovering) ∧ 3 ≤ y.misses then
    let s1 := s.setNode n { y.stopRead with state := .lost, retry := 0 }
    { st := (s.nodeChans n).foldl (fun t c => t.modChan c fun z => { z with current := 0 }) s1
      acts := [.raise .nodeLost (.node n), .restCheck false] }
  else
    { st := s.setNode n y
      acts := if x.state = .discovering ∧ x.xfer = .none ∧ x.cursor.isSome = true then [.attemptFail n] else [] }

/-! ## The intake of a slot (R29) -/

/-- The acts of a VALID slot, in the order of R29; outputs that serve no populated channel deliver nothing. Inside one step
of R29 output A goes before output B (DESIGN CHOICE, log entry 42). The LVS takes a phase that the intake completes after
the conditions, the message and the count (DESIGN CHOICE, log entry 55). -/
def State.intakeActs (s : State) (n : Fin 8) (f : Status) : List Act :=
  let a := s.populated (chanA n)
  let b := s.populated (chanB n)
  (if a then [Act.position (chanA n) f.countA] else []) ++ (if b then [.position (chanB n) f.countB] else [])
    ++ (if a then [.electric (chanA n) f.currentA f.pressureA] else [])
    ++ (if b then [.electric (chanB n) f.currentB f.pressureB] else [])
    ++ (if a then [.condition (chanA n) f.condA] else []) ++ (if b then [.condition (chanB n) f.condB] else [])
    ++ [.message n f.ctl f.data, .countValid n,
        .lvsIntake ((s.nodeChans n).filter fun c => (s.chan c).movesFor .level), .restCheck false]

/-- The rack window's count of a frame end (R120). -/
def State.countRack (s : State) (r : Fin 4) : State :=
  let x := s.room r
  match x.window with
  | none => s
  | some w =>
    let n := elapsed s.frame w
    if x.type = .twin ∧ 1 ≤ n ∧ n ≤ 32 then
      let hit := s.skewValidOf r && decide ((s.roomPar r).rackLimit < (s.skewOf r).natAbs)
      s.setRoom r { x with counted := sat 32 x.counted, overLimit := if hit then sat 32 x.overLimit else x.overLimit }
    else s

/-- The accounting of a frame end: rack windows (R120) and the overdraw count (R74). The timers expire from here to the
next frame's start (R1, R24). -/
def State.frameEnd (s : State) : State := { (allRooms.foldl State.countRack s).countOverdraw with frameOver := true }

/-! ## Frames (R24, R26, R36 to R38) -/

/-- A descriptor read's step at a frame start. -/
def Node.frameStart (x : Node) : Node :=
  match x.xfer with
  | .none => x
  | .startNext => { x with xfer := .none, cursor := some 0, scratch := [] }
  | .abortNext => { x with xfer := .abort }
  | .abort => { x with xfer := .none, cursor := some 0, scratch := [] }

/-- A frame starts: its number (R24); after a soft reset number 0, LOAD and DISCOVER (R188), empty accumulators (R77), idle
windows from frame 0 (R43), a gap timer that runs on (R170); and every descriptor read's step. -/
def State.frameStart (s : State) : State :=
  let s1 := s.mapNodes Node.frameStart
  let s2 := { s1 with frameOver := false, atu := { s1.atu with scanned := false } }
  if s2.frameFresh then { s2 with frameFresh := false }
  else if s2.restartFrame then
    let s3 := { s2 with frame := 0, restartFrame := false, sst := { s2.sst with phase := .discover }
                        atu := { s2.atu with accX := 0, accY := 0, blockCount := 0 } }
    let s4 := { s3 with pli := { s3.pli with gapStart := s3.pli.gapStart.map fun f => f - (s2.frame + 1) } }
    s4.mapChans fun x => { x with idleStart := 0, idlePos := x.position }
  else { s2 with frame := s2.frame + 1 }

end Sys2Proof.Machine
end

