-- ==== Sys2Proof/Machine/Measure.lean ====
section
/-! DEFINITION. The converter scan: the battery average (4.1) and the Attitude Unit (chapter 5). -/

namespace Sys2Proof.Machine

/-! ## Battery (R58) -/

/-- The history of at most 8 codes, oldest first. -/
def pushCode (h : List Nat) (code : Nat) : List Nat := (if h.length < 8 then h else h.drop 1) ++ [code]

/-- The battery average in 10 mV units (R58). -/
def batteryAverage (h : List Nat) : Nat := (roundDiv ((h.sum * 5 : Nat) : Int) (10 * h.length)).toNat

/-- A VBAT code: the history, the average, and the six persistence counts (R58, R59). -/
def State.battery (s : State) (code : Nat) : State :=
  let h := pushCode s.sgu.batHist code
  let avg := batteryAverage h
  { s with sgu := { s.sgu with batHist := h, batAvg := avg, counts := supplyCounts s.par avg s.sgu.counts } }

/-! ## Blocks and samples (R77 to R79) -/

/-- The TX and TY codes of a frame enter the accumulators (R77). -/
def Atu.scan (a : Atu) (tx ty : Nat) : Atu :=
  { a with accX := a.accX + tx, accY := a.accY + ty, blockCount := a.blockCount + 1, scanned := true }

/-- A block average: the accumulator plus 8, divided by 16 with truncation (R77). -/
def blockAverage (acc : Nat) : Nat := (acc + 8) / 16

/-- A sample is valid when both averages lie in 48..4048 (R78). -/
def sampleValid (x y : Nat) : Bool := decide (48 ≤ x ∧ x ≤ 4048 ∧ 48 ≤ y ∧ y ≤ 4048)

/-- A corrected axis before the clamp (R79). -/
def tilt (avg offset gain : Nat) : Int := roundDiv (((avg : Int) - offset) * gain) 4096

/-- The clamp of R79. -/
def clampTilt (v : Int) : Int := clampInt (-1500) 1500 v

/-- Pitch, roll and the clamped flag of raw averages (R79). -/
def corrected (p : CoachParams) (x y : Nat) : Int × Int × Bool :=
  let a := tilt x p.tiltOffsetX p.tiltGainX
  let b := tilt y p.tiltOffsetY p.tiltGainY
  (clampTilt a, clampTilt b, decide (clampTilt a ≠ a ∨ clampTilt b ≠ b))

/-- A history of at most 8 values, oldest first (R82). -/
def pushValue (h : List Int) (v : Int) : List Int := (if h.length < 8 then h else h.drop 1) ++ [v]

/-- The greatest less the least of a history. -/
def spread : List Int → Int
  | [] => 0
  | v :: l => l.foldl max v - l.foldl min v

/-- The settle judgement of R83. -/
def settled (hp hr : List Int) (band : Nat) : AttState :=
  if hp.length = 8 ∧ hr.length = 8 ∧ spread hp ≤ band ∧ spread hr ≤ band then .settled else .unsettled

/-- The record after a valid sample (R79, R82, R83). -/
def Attitude.validSample (a : Attitude) (p : CoachParams) (x y : Nat) : Attitude :=
  let v := corrected p x y
  let hp := pushValue a.histP v.1
  let hr := pushValue a.histR v.2.1
  { state := settled hp hr p.settleBand, pitch := v.1, roll := v.2.1, clamped := v.2.2, rawX := x, rawY := y
    histP := hp, histR := hr }

/-- The record after an invalid sample (R78). -/
def Attitude.invalidSample (a : Attitude) (x y : Nat) : Attitude :=
  { a with state := .invalid, rawX := x, rawY := y, histP := [], histR := [] }

/-- A sample has been taken since power-on or RESETn, in a record that is not INVALID: raw averages of 0 show that none has
(R82). -/
def Attitude.sampled (a : Attitude) : Bool := !decide (a.rawX = 0 ∧ a.rawY = 0)

/-- A changed offset or gain (R81): a record not INVALID is recomputed from the raw averages and becomes UNSETTLED. Until the
first sample pitch and roll read 0 (R82), so there is nothing to recompute and they and the clamped flag stay (DEDUCED, log
entry 44). -/
def actAttApply (s : State) : Out :=
  let a := s.atu.record
  if a.state = .invalid then .done s
  else
    let v := if a.sampled then corrected s.par a.rawX a.rawY else (a.pitch, a.roll, a.clamped)
    .done { s with atu := { s.atu with record :=
      { a with state := .unsettled, pitch := v.1, roll := v.2.1, clamped := v.2.2, histP := [], histR := [] } } }

/-! ## Reference capture (R85, R86) -/

/-- The least and greatest with one more value. -/
def widen (r : Option (Nat × Nat)) (v : Nat) : Option (Nat × Nat) :=
  match r with
  | none => some (v, v)
  | some (lo, hi) => some (min lo v, max hi v)

/-- Greatest less least, 0 when no sample was taken (R86). -/
def rangeSpread : Option (Nat × Nat) → Nat
  | none => 0
  | some (lo, hi) => hi - lo

/-- A capture ends (R86): REFERENCE_DONE with the offsets in force after it, and the record absent. -/
def State.captureDone (s : State) (c : Capture) (ok : Bool) : State :=
  let s1 := s.offer (.referenceDone ok c.samples (rangeSpread c.rangeX) (rangeSpread c.rangeY) s.par.tiltOffsetX
    s.par.tiltOffsetY)
  { s1 with atu := { s1.atu with capture := none } }

/-- New offsets in the running set. -/
def State.setOffsets (s : State) (x y : Nat) : State :=
  { s with sst := { s.sst with params := { s.sst.params with
      coach := { s.sst.params.coach with tiltOffsetX := x, tiltOffsetY := y } } } }

/-- A valid sample is taken by a capture (R85); the 32nd ends it (R86). -/
def State.captureSample (s : State) (c : Capture) (x y : Nat) : Out :=
  if c.skip then .done { s with atu := { s.atu with capture := some { c with skip := false } } }
  else
    let d : Capture := { samples := c.samples + 1, sumX := c.sumX + x, sumY := c.sumY + y, rangeX := widen c.rangeX x
                         rangeY := widen c.rangeY y, skip := false }
    if d.samples < 32 then .done { s with atu := { s.atu with capture := some d } }
    else if rangeSpread d.rangeX ≤ 8 ∧ rangeSpread d.rangeY ≤ 8 then
      let nx := (roundDiv d.sumX 32).toNat
      let ny := (roundDiv d.sumY 32).toNat
      .done ((actAttApply (s.setOffsets nx ny)).st.captureDone d true)
    else .done (s.captureDone d false)

/-- The attitude sample of a complete block (R77, R78, R79, R83, R85, R86); without one, nothing. An invalid sample queues
REFERENCE_DONE before TILT_RANGE is raised, where R86 allows either order, and its STOP effect ends JACKS before the LVS takes
the sample, where R109 allows either (DESIGN CHOICE, log entry 62). -/
def State.attitudeSample (s : State) : Out :=
  if s.atu.blockCount < 16 then .done s
  else
    let x := blockAverage s.atu.accX
    let y := blockAverage s.atu.accY
    let s1 := { s with atu := { s.atu with accX := 0, accY := 0, blockCount := 0 } }
    let was := s.atu.record.state
    if sampleValid x y then
      let s2 := { s1 with atu := { s1.atu with record := s1.atu.record.validSample s.par x y } }
      let o := match s2.atu.capture with
        | some c => s2.captureSample c x y
        | none => .done s2
      { st := o.st
        acts := o.acts ++ (if was = .invalid then [.gone .tiltRange .coach] else []) ++ [.lvsSample] }
    else
      let s2 := { s1 with atu := { s1.atu with record := s1.atu.record.invalidSample x y } }
      let s3 := match s2.atu.capture with
        | some c => s2.captureDone c false
        | none => s2
      { st := s3
        acts := (if was = .invalid then [] else [.raise .tiltRange .coach])
          ++ [.lvsEnd .failed (.fault .tiltRange) none] }

end Sys2Proof.Machine
end

