-- ==== Sys2Proof/Machine/Settings.lean ====
section
/-! DEFINITION. The Settings Store (chapter 12): layout, parameters, image load, commit, start-up. -/

namespace Sys2Proof.Machine

/-! ## Layout and population (R3, R111, R182) -/

/-- The number of ends of a room under a layout code: TABLE 12-1 on LAYOUT3, LAYOUT2. -/
def layoutEnds (code : BitVec 4) (r : Fin 4) : Nat :=
  let set := (code.toNat / 4)
  match set, r.val with
  | 0, 0 => 1 | 0, 1 => 1 | 0, _ => 0
  | 1, 0 => 2 | 1, 1 => 1 | 1, 2 => 1 | 1, _ => 0
  | 2, 0 => 2 | 2, 1 => 2 | 2, 2 => 1 | 2, _ => 0
  | _, 0 => 2 | _, 1 => 2 | _, _ => 1

/-- The kind and role of a slot under a layout code (R3). -/
def layoutChan (code : BitVec 4) (c : Fin 16) : ChanKind × Option Role :=
  if c.val < 4 then (.jack, some .corner)
  else if c.val < 6 then (if code.getLsbD 0 then (.jack, some .support) else (.none, none))
  else match roomOf c with
  | some r =>
    let n := layoutEnds code r
    if c = roomFront r then
      (if n = 0 then (.none, none) else if n = 1 then (.roomEnd, some .single) else (.roomEnd, some .front))
    else (if n = 2 then (.roomEnd, some .rear) else (.none, none))
  | none => if c = 14 ∧ code.getLsbD 1 = true then (.awning, none) else (.none, none)

/-- A channel as populated (TABLE 1-2, middle column). -/
def Channel.populate (code : BitVec 4) (c : Fin 16) : Channel :=
  let k := layoutChan code c
  { Channel.reset with kind := k.1, role := k.2, state := if k.1 = .none then .disabled else .idle }

/-- A room as configured (TABLE 7-2). -/
def Room.populate (code : BitVec 4) (r : Fin 4) : Room :=
  { Room.reset with type := match layoutEnds code r with
      | 0 => .none
      | 1 => .single
      | _ => .twin }

/-- A node used by the layout starts DISCOVERING with its first attempt in frame 0 (R33, TABLE 2-5). -/
def Node.populate (code : BitVec 4) (n : Fin 8) : Node :=
  if (layoutChan code (chanA n)).1 = .none ∧ (layoutChan code (chanB n)).1 = .none then .reset
  else { Node.reset with state := .discovering, cursor := some 0 }

/-! ## The parameter table (TABLE 12-3) -/

/-- The scope of a parameter. -/
inductive Scope where
  | coach | room | motor | jack
  deriving DecidableEq, Repr

/-- A row of TABLE 12-3: scope, range, whether the range steps by 5, and the defined values of an enumerated parameter. -/
structure ParamRow where
  scope : Scope
  lo : Int
  hi : Int
  step5 : Bool
  values : List Int
  deriving DecidableEq, Repr

def rangeRow (scope : Scope) (lo hi : Int) : ParamRow := { scope := scope, lo := lo, hi := hi, step5 := false, values := [] }

def stepRow (scope : Scope) (lo hi : Int) : ParamRow := { scope := scope, lo := lo, hi := hi, step5 := true, values := [] }

def enumRow (values : List Int) : ParamRow :=
  { scope := .coach, lo := values.headD 0, hi := values.getLastD 0, step5 := false, values := values }

/-- TABLE 12-3; none for an id that is unassigned. The notice mask has 13 enables (R176). -/
def paramRow : Nat → Option ParamRow
  | 1 => some (stepRow .coach 100 1000)
  | 2 => some (enumRow [8, 16, 32, 64])
  | 3 => some (rangeRow .coach 900 1400)
  | 4 => some (rangeRow .coach 800 1400)
  | 5 => some (rangeRow .coach 1300 2000)
  | 6 => some (rangeRow .coach 5 100)
  | 7 => some (rangeRow .coach 20 400)
  | 8 => some (rangeRow .coach 20 400)
  | 9 => some (rangeRow .coach 1 400)
  | 10 => some (enumRow [0, 1])
  | 11 => some (rangeRow .coach 48 4048)
  | 12 => some (rangeRow .coach 48 4048)
  | 13 => some (rangeRow .coach 2458 3686)
  | 14 => some (rangeRow .coach 2458 3686)
  | 15 => some (rangeRow .coach 1 40)
  | 16 => some (rangeRow .coach 5 100)
  | 17 => some (rangeRow .coach 1 8)
  | 18 => some (rangeRow .coach 1 100)
  | 19 => some (enumRow [0, 1])
  | 20 => some (enumRow [0, 1])
  | 21 => some (stepRow .coach 10000 300000)
  | 22 => some (rangeRow .coach 100000 20000000)
  | 23 => some (rangeRow .coach 40 600)
  | 24 => some (rangeRow .coach 5 30)
  | 25 => some (enumRow [0, 1])
  | 26 => some (stepRow .coach 5000 600000)
  | 27 => some (rangeRow .coach 0 0x1FFF)
  | 32 => some (rangeRow .room 2 64)
  | 33 => some (rangeRow .room 16 2000)
  | 34 => some (stepRow .room 500 30000)
  | 40 => some (rangeRow .motor 1 65535)
  | 41 => some (rangeRow .motor 1 200)
  | 42 => some (rangeRow .motor 0 255)
  | 43 => some (rangeRow .motor 0 255)
  | 44 => some (rangeRow .motor 0 65535)
  | 45 => some (rangeRow .motor 1 1000)
  | 46 => some (rangeRow .motor 1 127)
  | 47 => some (rangeRow .motor 0 500)
  | 48 => some (rangeRow .motor 1 1000)
  | 49 => some (rangeRow .motor 0 127)
  | 50 => some (rangeRow .motor 0 127)
  | 51 => some (rangeRow .motor 1 65535)
  | 56 => some (rangeRow .jack 1 65535)
  | 57 => some (rangeRow .jack (-10000) 10000)
  | 58 => some (rangeRow .jack (-10000) 10000)
  | 59 => some (rangeRow .jack 1 255)
  | 60 => some (rangeRow .jack 0 255)
  | 61 => some (rangeRow .jack 1 100)
  | _ => none

def flagVal (b : Bool) : Int := if b then 1 else 0

/-- The value of a parameter in a set. The subject is one the row's scope takes. -/
def Params.get (p : Params) (id : Nat) (sj : Subject) : Int :=
  let k := p.coach
  match id, sj with
  | 1, _ => k.attendanceWindow | 2, _ => k.speedWindow | 3, _ => k.supplyLow | 4, _ => k.supplyCutoff
  | 5, _ => k.supplyHigh | 6, _ => k.supplyHysteresis | 7, _ => k.budgetBattery | 8, _ => k.budgetEngine
  | 9, _ => k.pumpClaim | 10, _ => flagVal k.pumpNeedsEngine | 11, _ => k.tiltOffsetX | 12, _ => k.tiltOffsetY
  | 13, _ => k.tiltGainX | 14, _ => k.tiltGainY | 15, _ => k.settleBand | 16, _ => k.levelTolerance
  | 17, _ => k.levelMaxPasses | 18, _ => k.levelDeadband | 19, _ => flagVal k.slidesNeedJacks
  | 20, _ => flagVal k.autoStow | 21, _ => k.stowStepTime | 22, _ => k.windFactor | 23, _ => k.windTrip
  | 24, _ => k.windHysteresis | 25, _ => k.windMode.code | 26, _ => k.windHoldOff | 27, _ => k.noticeMask.toNat
  | 32, .room r => (p.rooms.get r).trimBand | 33, .room r => (p.rooms.get r).rackLimit
  | 34, .room r => (p.rooms.get r).endWait
  | 40, .chan c => (p.motors.get c).travel | 41, .chan c => (p.motors.get c).claim
  | 42, .chan c => (p.motors.get c).runDuty | 43, .chan c => (p.motors.get c).creepDuty
  | 44, .chan c => (p.motors.get c).approachBand | 45, .chan c => (p.motors.get c).stallFloor
  | 46, .chan c => (p.motors.get c).stallCurrent | 47, .chan c => (p.motors.get c).endBand
  | 48, .chan c => (p.motors.get c).endTolerance | 49, .chan c => (p.motors.get c).dragLow
  | 50, .chan c => (p.motors.get c).dragHigh | 51, .chan c => (p.motors.get c).dragLimit
  | 56, .chan c => (p.jacks.get c).stroke | 57, .chan c => (p.jacks.get c).jackX
  | 58, .chan c => (p.jacks.get c).jackY | 59, .chan c => (p.jacks.get c).contactThreshold
  | 60, .chan c => (p.jacks.get c).contactHysteresis | 61, .chan c => (p.jacks.get c).supportMargin
  | _, _ => 0

def Params.modRoom (p : Params) (r : Fin 4) (f : RoomParams → RoomParams) : Params :=
  { p with rooms := p.rooms.set r (f (p.rooms.get r)) }

def Params.modMotor (p : Params) (c : Fin 16) (f : MotorParams → MotorParams) : Params :=
  { p with motors := p.motors.set c (f (p.motors.get c)) }

def Params.modJack (p : Params) (c : Fin 16) (f : JackParams → JackParams) : Params :=
  { p with jacks := p.jacks.set c (f (p.jacks.get c)) }

/-- The set with a parameter replaced by a value of its range. RESTARTED's enable is stored set (R176). -/
def Params.put (p : Params) (id : Nat) (sj : Subject) (v : Int) : Params :=
  let k := p.coach
  let n := v.toNat
  let on := decide (v = 1)
  match id, sj with
  | 1, _ => { p with coach := { k with attendanceWindow := n } }
  | 2, _ => { p with coach := { k with speedWindow := n } }
  | 3, _ => { p with coach := { k with supplyLow := n } }
  | 4, _ => { p with coach := { k with supplyCutoff := n } }
  | 5, _ => { p with coach := { k with supplyHigh := n } }
  | 6, _ => { p with coach := { k with supplyHysteresis := n } }
  | 7, _ => { p with coach := { k with budgetBattery := n } }
  | 8, _ => { p with coach := { k with budgetEngine := n } }
  | 9, _ => { p with coach := { k with pumpClaim := n } }
  | 10, _ => { p with coach := { k with pumpNeedsEngine := on } }
  | 11, _ => { p with coach := { k with tiltOffsetX := n } }
  | 12, _ => { p with coach := { k with tiltOffsetY := n } }
  | 13, _ => { p with coach := { k with tiltGainX := n } }
  | 14, _ => { p with coach := { k with tiltGainY := n } }
  | 15, _ => { p with coach := { k with settleBand := n } }
  | 16, _ => { p with coach := { k with levelTolerance := n } }
  | 17, _ => { p with coach := { k with levelMaxPasses := n } }
  | 18, _ => { p with coach := { k with levelDeadband := n } }
  | 19, _ => { p with coach := { k with slidesNeedJacks := on } }
  | 20, _ => { p with coach := { k with autoStow := on } }
  | 21, _ => { p with coach := { k with stowStepTime := n } }
  | 22, _ => { p with coach := { k with windFactor := n } }
  | 23, _ => { p with coach := { k with windTrip := n } }
  | 24, _ => { p with coach := { k with windHysteresis := n } }
  | 25, _ => { p with coach := { k with windMode := if on then .follow else .latch } }
  | 26, _ => { p with coach := { k with windHoldOff := n } }
  | 27, _ => { p with coach := { k with noticeMask := BitVec.ofNat 13 n ||| 1#13 } }
  | 32, .room r => p.modRoom r fun x => { x with trimBand := n }
  | 33, .room r => p.modRoom r fun x => { x with rackLimit := n }
  | 34, .room r => p.modRoom r fun x => { x with endWait := n }
  | 40, .chan c => p.modMotor c fun x => { x with travel := n }
  | 41, .chan c => p.modMotor c fun x => { x with claim := n }
  | 42, .chan c => p.modMotor c fun x => { x with runDuty := n }
  | 43, .chan c => p.modMotor c fun x => { x with creepDuty := n }
  | 44, .chan c => p.modMotor c fun x => { x with approachBand := n }
  | 45, .chan c => p.modMotor c fun x => { x with stallFloor := n }
  | 46, .chan c => p.modMotor c fun x => { x with stallCurrent := n }
  | 47, .chan c => p.modMotor c fun x => { x with endBand := n }
  | 48, .chan c => p.modMotor c fun x => { x with endTolerance := n }
  | 49, .chan c => p.modMotor c fun x => { x with dragLow := n }
  | 50, .chan c => p.modMotor c fun x => { x with dragHigh := n }
  | 51, .chan c => p.modMotor c fun x => { x with dragLimit := n }
  | 56, .chan c => p.modJack c fun x => { x with stroke := n }
  | 57, .chan c => p.modJack c fun x => { x with jackX := v }
  | 58, .chan c => p.modJack c fun x => { x with jackY := v }
  | 59, .chan c => p.modJack c fun x => { x with contactThreshold := n }
  | 60, .chan c => p.modJack c fun x => { x with contactHysteresis := n }
  | 61, .chan c => p.modJack c fun x => { x with supportMargin := n }
  | _, _ => p

/-- The subject fits the scope and is populated (R184). -/
def State.paramSubject (s : State) (scope : Scope) (b : Byte) : Option Subject :=
  match scope, subjectOf b with
  | .coach, some .coach => some .coach
  | .room, some (.room r) => if s.roomUsed r then some (.room r) else none
  | .motor, some (.chan c) => if (s.chan c).isMotor then some (.chan c) else none
  | .jack, some (.chan c) => if (s.chan c).isJack then some (.chan c) else none
  | _, _ => none

/-- The busy conditions of TABLE 12-4. -/
def State.paramBusy (s : State) (id : Nat) (sj : Subject) : Bool :=
  let busy := fun u => decide ((s.unit u).state ≠ .idle)
  match sj with
  | .chan c => busy (unitOfChan c)
  | .room r => busy (.room r)
  | _ =>
    if id = 9 ∨ id = 10 then busy .jacks
    else if id = 11 ∨ id = 12 then decide (s.lvs.seq.state ≠ .idle) || s.atu.capture.isSome
    else if id = 13 ∨ id = 14 ∨ id = 16 ∨ id = 17 ∨ id = 18 then decide (s.lvs.seq.state ≠ .idle)
    else if id = 21 then decide (s.ciu.stow.state ≠ .idle)
    else if id = 23 ∨ id = 24 ∨ id = 25 ∨ id = 26 then decide (s.wgd.state ≠ .armed)
    else false

/-- The value that step 6 stores: clamped, a step-5 value lowered to a multiple of 5; the notice mask keeps its 13 enables
with RESTARTED's set (R185, R176). -/
def storedValue (id : Nat) (row : ParamRow) (v : Int) : Int :=
  if id = 27 then (BitVec.ofInt 13 v ||| 1#13).toNat
  else
    let w := clampInt row.lo row.hi v
    if row.step5 then w - w % 5 else w

/-- What a stored value does at once (12.2): the budget, the slide permit, the attitude record. -/
def storeActs (s t : State) (id : Nat) : List Act :=
  if id = 7 ∨ id = 8 then [.budget]
  else if id = 19 then (if t.par.slidesNeedJacks && !s.par.slidesNeedJacks && !t.cornersLatched then
    [.termFail true false] else [])
  else if (id = 11 ∨ id = 12 ∨ id = 13 ∨ id = 14) ∧ t.sst.params ≠ s.sst.params then [.attApply]
  else []

/-! ## The image (R186) -/

/-- LOAD at power-on and RESETn: the straps, the population, the image, and DISCOVER (R3, R33, R182, R186, R188). B is
taken from budget-battery as loaded (R65). An image with a good CRC is what PARAM_GET compares with, also when its layout code
differs and the running set takes defaults (R184; DEDUCED, log entry 9). -/
def State.load (s : State) (code : BitVec 4) : Out :=
  let im := s.sst.image
  let good := im.crcGood && decide (im.layout = code)
  let params := if good then im.params else Params.defaults
  let outcome : ImageOutcome := if good then .image else if im.crcGood then .defaultsLayout else .defaultsCrc
  { st := { s with
      mode := .running, frame := 0, frameFresh := true, frameOver := false
      chc := { s.chc with chans := Vector.ofFn (Channel.populate code), rooms := Vector.ofFn (Room.populate code) }
      nlc := { s.nlc with nodes := Vector.ofFn (Node.populate code) }
      sgu := { s.sgu with budget := params.coach.budgetBattery }
      sst := { s.sst with layoutCode := code, phase := .discover, params := params, outcome := outcome
                          ref := if im.crcGood then some im.params else none } }
    acts := if im.crcGood then [] else [.raise .storeInvalid .coach] }

/-! ## Commit (R187) -/

/-- A commit that ends: COMMIT_DONE, and STORE_INVALID on FAILED. -/
def State.commitEnd (s : State) (ok : Bool) : Out :=
  match s.sst.commit with
  | none => .done s
  | some k =>
    let image : Image := if ok then { params := k.copy, layout := k.layout, crcGood := true }
      else Config.freeImage s.freeCount
    let s1 := { s with sst := { s.sst with image := image, commit := none
                                           ref := if ok then some k.copy else s.sst.ref }
                       freeCount := if ok then s.freeCount else s.freeCount + 1 }
    { st := s1.offer (.commitDone ok), acts := if ok then [] else [.raise .storeInvalid .coach] }

/-- The store has not completed by the 40th frame end (R187). -/
def State.commitDue (s : State) : Bool :=
  match s.sst.commit with
  | some k => decide (40 ≤ elapsed s.frame k.start)
  | none => false

/-- More than 40 frames have passed: the 40th frame end found the store not completed (R187). -/
def State.commitLate (s : State) : Bool :=
  match s.sst.commit with
  | some k => decide (40 < elapsed s.frame k.start)
  | none => false

/-! ## Start-up (R188) -/

/-- DISCOVER ends when no used node is DISCOVERING, or at the end of frame 199. -/
def State.runDue (s : State) : Bool :=
  decide (s.sst.phase = .discover) &&
    ((allNodes.all fun n => decide ((s.node n).state ≠ .discovering)) || decide (199 ≤ s.frame.toNat))

/-- RUN (R188): RESTARTED, TRAVEL and the alarm, the silence timer, and a DEFERRED trip. -/
def State.enterRun (s : State) : Out :=
  let s1 := { s with sst := { s.sst with phase := .run }, pli := { s.pli with silenceStart := some s.frame } }
  { st := s1.offer (.restarted s.pli.restartCause s.sst.layoutCode s.sst.outcome)
    acts := .restCheck true ::
      (if s.wgd.state = .tripped ∧ s.wgd.retract = .deferred then [.provide false] else []) }

end Sys2Proof.Machine
end

