-- ==== Sys2Proof/Machine/Replies.lean ====
section
/-! DEFINITION. Payloads of the reading replies and of the notices (TABLES 13-2, 13-5, 13-6; the field lists of R23, R41,
R90, R128, R140, R143, R150, R166, R181, R184). -/

namespace Sys2Proof.Machine

/-- OK followed by data. -/
def okReply (data : List Byte) : List Byte := u8 Result.ok.code ++ data

/-- A refusal other than INTERLOCK carries its code alone (R191). -/
def codeReply (r : Result) : List Byte := u8 r.code

/-- An INTERLOCK reply carries the permit after the code (R174). -/
def interlockReply (p : Permit) : List Byte := u8 Result.interlock.code ++ u8 p.code

/-- One bit per unit, bit 0 for JACKS (R191). -/
def unitBits (l : List UnitId) : Nat := (allUnits.map fun u => if u ∈ l then 2 ^ (unitIdx u).val else 0).sum

/-- The payload of a notice (TABLE 13-6). -/
def Notice.payload : Notice → List Byte
  | .restarted cause layout outcome => u8 cause.code ++ u8 layout.toNat ++ u8 outcome.code
  | .motionEnd u why => subjectByte (.unit u) ++ u8 why.code
  | .levelStatus state passes pass prev =>
    u8 state.code ++ u8 passes ++ u8 pass ++ optI16 (prev.map Prod.fst) ++ optI16 (prev.map Prod.snd)
  | .levelDone outcome cause endedIn passes pitch roll clamped =>
    u8 outcome.code ++ u8 cause.code ++ u8 endedIn.code ++ u8 passes ++ i16 pitch ++ i16 roll ++ flag clamped
  | .referenceDone ok samples spreadX spreadY offsetX offsetY =>
    u8 (if ok then 0 else 1) ++ u8 samples ++ u16 spreadX ++ u16 spreadY ++ u16 offsetX ++ u16 offsetY
  | .stowStatus state trigger awaited => u8 state.code ++ optU8 (trigger.map Trigger.code) ++ u8 (unitBits awaited)
  | .stowDone outcome trigger step cause subject =>
    u8 outcome.code ++ optU8 (trigger.map Trigger.code) ++ optU8 (step.map StowState.stepCode) ++ u8 cause.code
      ++ optSubject subject
  | .windGuard new old speed retract => u8 new.code ++ u8 old.code ++ u16 speed ++ u8 retract.code
  | .inputChange i new old => u8 (inputCode i) ++ flag new ++ flag old
  | .supplyChange new old average => u8 new.code ++ u8 old.code ++ u16 average
  | .faultRaised k subject severity present count index =>
    u8 k.code ++ subjectByte subject ++ u8 severity.code ++ flag present ++ u8 count ++ optU8 index
  | .faultGone k subject index => u8 k.code ++ subjectByte subject ++ u8 index
  | .commitDone ok => u8 (if ok then 0 else 1)

/-- The frame of a queued notice: KIND 0x40 and up, TAG its sequence number (TABLE 13-6). -/
def noticeFrame (seq : Byte) (n : Notice) : Frame :=
  { kind := BitVec.ofNat 8 (0x40 + n.index), tag := seq, payload := n.payload }

/-- The frame of a reply: KIND plus 0x80 modulo 256, TAG unchanged (R174). -/
def replyFrame (f : Frame) (payload : List Byte) : Frame := { kind := f.kind + 0x80, tag := f.tag, payload := payload }

/-! ## CHANNEL (R23, R128, R140) -/

/-- A motion record, or "no motion": every field absent (R23, R191). -/
def motionFields (now : FrameNo) : Option Motion → List Byte
  | none => optU8 none ++ optI32 none ++ optU8 none ++ optU8 none ++ optU32 none
  | some m =>
    u8 m.dir.code ++ (match m.target with
      | .toEnd => u32 0x7FFFFFFF
      | .at t => i32 t)
      ++ u8 m.origin.code ++ flag m.attended ++ optU32 (m.deadline.map (framesLeft now))

/-- The unit of a populated channel: its state and origin; absent for a slot of kind NONE. -/
def State.unitFields (s : State) (c : Fin 16) : List Byte :=
  if s.populated c then
    let x := s.unit (unitOfChan c)
    u8 x.state.code ++ optU8 (x.origin.map Origin.code)
  else optU8 none ++ optU8 none

/-- The room record (R128): the twin fields only for a twin room. The frames-counted byte is 0 while no rack window runs, and
a skew beyond 32 bits is sent modulo 2^32 (DESIGN CHOICE, log entry 45). -/
def State.roomFields (s : State) (r : Fin 4) : List Byte :=
  let x := s.room r
  u8 r.val ++ u8 x.type.code ++ u8 (s.roomRest r).code ++
    (if x.type = .twin then
      i32 x.skew ++ flag x.skewValid ++ u8 x.overLimit ++ u8 x.counted
        ++ optU8 (x.firstArrival.map RoomEnd.code) ++ optU32 (x.endWait.map (framesLeft s.frame))
     else [])

/-- The guard record (R140). -/
def State.guardFields (s : State) : List Byte :=
  let g := s.wgd
  u8 g.state.code ++ u8 s.par.windMode.code ++ u8 g.trips ++ u16 g.speed ++ optU32 g.lastPeriod
    ++ optU32 (g.calmStart.map fun f => 500 - elapsed s.frame f) ++ optU32 (g.holdOff.map (framesLeft s.frame))
    ++ u8 g.retract.code ++ flag g.bypassed

/-- The CHANNEL reply (R23). The rest position of a slot of kind NONE is sent as code 0, UNKNOWN (DESIGN CHOICE, log entry
16). A speed beyond the four bytes is sent modulo 2^32: R42 gives it no limit, and State keeps it exact (DESIGN CHOICE, log entry
45). -/
def State.channelReply (s : State) (c : Fin 16) : List Byte :=
  let x := s.chan c
  okReply (u8 x.kind.code ++ optU8 (x.role.map Role.code) ++ u8 x.state.code ++ i32 x.position ++ flag x.known
    ++ i32 x.speed ++ u8 x.current ++ u8 x.pressure ++ u8 x.cond.code ++ flag x.latch ++ flag x.extendEnd
    ++ u8 (s.rest c).code ++ optU8 (x.lock.map FaultKind.code) ++ u16 x.dragCount ++ motionFields s.frame x.motion
    ++ s.unitFields c
    ++ (match x.kind, roomOf c with
        | .roomEnd, some r => s.roomFields r
        | _, _ => [])
    ++ (if c = 14 then s.guardFields else []))

/-! ## NODES (R41) -/

/-- The NODES reply (R41, R192): ten bytes of 0xFF when no descriptor is held. -/
def State.nodesReply (s : State) (n : Fin 8) : List Byte :=
  let x := s.node n
  okReply (u8 x.state.code ++ u8 x.misses ++ u8 x.good ++ u8 x.retry ++ optU8 x.cursor ++ u16 x.missTotal
    ++ flag x.desc.isSome ++ x.desc.getD (List.replicate 10 0xFF#8) ++ optU8 (x.cause.map MismatchCause.code)
    ++ flag (decide (x.state ≠ .absent)))

/-! ## INPUTS (R143) -/

/-- One input: the accepted level or NONE, the last sample, the CHANGED flag. -/
def Input.fields (x : Input) : List Byte :=
  optU8 (x.accepted.map fun b => if b then 1 else 0) ++ flag x.last ++ flag x.changed

/-- The INPUTS reply (R143). -/
def State.inputsReply (s : State) : List Byte :=
  okReply (s.ciu.ign.fields ++ s.ciu.park.fields ++ s.ciu.eng.fields ++ flag s.motionAny ++ flag s.slideExtend
    ++ flag s.awningExtend ++ flag s.levelPermit ++ flag s.jackRetract ++ flag s.ciu.travel ++ flag s.ciu.alarm)

/-! ## LEVEL_RESULT and STOW_RESULT (R90, R150, R191) -/

/-- A pass plan entry (TABLE 6-3), with its dropped and clamped marks. -/
def PlanEntry.fields (e : PlanEntry) : List Byte :=
  i32 e.before ++ i32 e.height ++ i32 e.lift ++ i32 e.counts ++ optI32 e.target ++ flag e.target.isNone ++ flag e.clamped

/-- Part 0: the result record, with one position per populated jack channel, the sequence state and its passes used. -/
def State.levelPart0 (s : State) : List Byte :=
  let r := s.lvs.result
  let q := s.lvs.seq
  u8 r.outcome.code ++ u8 r.cause.code ++ optU8 (r.endedIn.map LvState.code) ++ u8 r.passes ++ i16 r.pitch ++ i16 r.roll
    ++ flag r.clamped ++ ((jackChans.filter s.populated).flatMap fun c => optI32 (r.positions.lookup c))
    ++ u8 q.state.code ++ optU8 (if q.state = .idle then none else some q.passes)

/-- Parts 1 to 4: a flag, and one corner's entry of the plan when one is present. -/
def State.levelPart (s : State) (i : Nat) : List Byte :=
  match s.lvs.seq.plan.bind fun l => l[i]? with
  | none => flag false
  | some e => flag true ++ e.fields

/-- The STOW_RESULT reply (R150). -/
def State.stowReply (s : State) : List Byte :=
  let r := s.ciu.result
  let q := s.ciu.stow
  okReply (u8 r.outcome.code ++ optU8 (r.trigger.map Trigger.code) ++ optU8 (r.step.map StowState.stepCode)
    ++ u8 r.cause.code ++ optSubject r.subject ++ u8 q.state.code ++ optU8 (q.trigger.map Trigger.code)
    ++ optU32 (q.stepStart.map fun f => framesOf s.par.stowStepTime - elapsed s.frame f))

/-! ## STATUS (R181, TABLE 13-5) -/

/-- One unit: state × 16 + origin, origin 15 when absent. -/
def UnitRec.statusByte (x : UnitRec) : List Byte := u8 (x.state.code * 16 + ((x.origin.map Origin.code).getD 15))

/-- The STATUS reply. -/
def State.statusReply (s : State) : List Byte :=
  okReply (u8 s.pli.resetCause.code ++ u8 s.sst.phase.code ++ u8 s.sgu.supply.code ++ u16 s.sgu.batAvg
    ++ u8 s.atu.record.state.code ++ i16 s.atu.record.pitch ++ i16 s.atu.record.roll ++ flag s.atu.record.clamped
    ++ u16 s.atu.record.rawX ++ u16 s.atu.record.rawY ++ flag s.atu.capture.isSome
    ++ (allUnits.flatMap fun u => (s.unit u).statusByte)
    ++ u8 s.lvs.seq.state.code ++ u8 s.ciu.stow.state.code ++ u8 s.wgd.state.code ++ u16 s.wgd.speed
    ++ flag s.ciu.travel ++ flag s.ciu.alarm ++ u8 s.flt.entries.length ++ flag s.flt.lost ++ flag s.pli.lost
    ++ u8 s.pli.notices.length ++ flag s.sst.commit.isSome
    ++ u16 s.pli.crcErrors ++ u16 s.pli.lengthErrors ++ u16 s.pli.brokenFrames ++ u16 s.pli.overruns)

/-! ## FAULTS (R166) -/

/-- One entry with its index: 13 bytes. -/
def FaultEntry.fields (i : Nat) (e : FaultEntry) : List Byte :=
  u8 i ++ u8 e.kind.code ++ subjectByte e.subject ++ u8 (e.severity.code * 16 + (if e.present then 1 else 0))
    ++ u32 e.first.toNat ++ u32 e.last.toNat ++ u8 e.count

/-- Entries with their indices from a first index on. -/
def faultFields : Nat → List FaultEntry → List Byte
  | _, [] => []
  | i, e :: l => e.fields i ++ faultFields (i + 1) l

/-- The FAULTS reply: at most 4 entries from the start index on. -/
def State.faultsReply (s : State) (start : Nat) : List Byte :=
  let l := (s.flt.entries.drop start).take 4
  okReply (u8 s.flt.entries.length ++ flag s.flt.lost ++ u8 l.length ++ faultFields start l)

/-! ## PARAM_GET (R184) -/

/-- The value in the running set, the default, the range, and whether it differs from the set last loaded or committed. -/
def State.paramReply (s : State) (id : Nat) (sj : Subject) (row : ParamRow) : List Byte :=
  let v := s.sst.params.get id sj
  let differs := match s.sst.ref with
    | some p => decide (p.get id sj ≠ v)
    | none => Config.freeDiffers s.freeCount
  okReply (i32 v ++ i32 (Params.defaults.get id sj) ++ i32 row.lo ++ i32 row.hi ++ flag differs)

end Sys2Proof.Machine
end

