-- ==== Sys2Proof/Machine/Requests.lean ====
section
/-! DEFINITION. How each owning block decides a request (R173, TABLE 11-3): the reply's payload and the request's effects. -/

namespace Sys2Proof.Machine

/-- A decided request: the state, the reply's payload, and the acts of its effect. -/
structure Served where
  st : State
  reply : List Byte
  acts : List Act

/-- A request that is refused or only answered. -/
def answer (s : State) (reply : List Byte) : Served := { st := s, reply := reply, acts := [] }

/-- A refusal with its code alone. -/
def refuse (s : State) (r : Result) : Served := answer s (codeReply r)

/-! ## MOVE (R11 to R16) -/

/-- The first check of steps 6, 7 of TABLE 1-6 that fails for a list of channels. -/
def State.chansRefuse (s : State) (l : List (Fin 16)) : Option Result :=
  if l.any fun c => decide ((s.chan c).state = .faulted ∨ (s.chan c).state = .disabled) then some .faulted
  else if l.any fun c => decide ((s.node (nodeOf c)).state ≠ .ready) then some .nodeLost
  else none

/-- The attendance deadline set now (R15). -/
def State.deadline (s : State) : FrameNo := after s.frame (framesOf s.par.attendanceWindow)

/-- A request for USER work that has passed steps 6, 7 (and 8): SUPPLY, the permits, or placed with OK (steps 9 to 11). -/
def State.moveFresh (s : State) (u : UnitId) (d : Dir) (l : List Pending) : Served :=
  if !admits s.sgu.supply .user || decide (s.sgu.budget < s.claimOf u) then refuse s .supply
  else match s.failedPermit u d with
  | some p => answer s (interlockReply p)
  | none => { st := s.place u .user l, reply := codeReply .ok, acts := placedActs }

/-- The direction a channel of a USER unit is pending or moving in. -/
def State.userDir (s : State) (u : UnitId) (c : Fin 16) : Option Dir :=
  match (s.unit u).pending.find? fun p => decide (p.chan = c) with
  | some p => some p.dir
  | none => (s.chan c).motion.map Motion.dir

/-- The attended entry or record of one channel gets a new deadline (R12). -/
def State.refreshChan (s : State) (u : UnitId) (c : Fin 16) : State :=
  let x := s.unit u
  let s1 := s.setUnit u { x with pending := x.pending.map fun (p : Pending) =>
    if p.chan = c then { p with deadline := some s.deadline } else p }
  s1.modChan c fun y => { y with motion := y.motion.map fun (m : Motion) =>
    if m.attended then { m with deadline := some s.deadline } else m }

/-- A jack of USER JACKS stops: its entry is removed or its motion ends (R13). -/
def State.stopJack (s : State) (c : Fin 16) : Act :=
  if (s.chan c).motion.isSome then .chanEnd c .stopped else .dropPending c .stopped

/-- A MOVE of a unit that works for the user (R12, R13): a refresh, or the end of what goes the other way. -/
def State.moveHeld (s : State) (u : UnitId) (d : Dir) : Served :=
  match u with
  | .jacks =>
    let held := (s.unitChans u).filter fun c => (s.userDir u c).isSome
    let same := held.filter fun c => decide (s.userDir u c = some d)
    let opposite := held.filter fun c => decide (s.userDir u c ≠ some d)
    { st := same.foldl (fun t c => t.refreshChan u c) s
      reply := codeReply (if opposite.length = 0 then .ok else .okStopped)
      acts := opposite.map s.stopJack }
  | .room _ | .awning =>
    if (s.unitChans u).any fun c => decide ((s.userDir u c).isSome ∧ s.userDir u c ≠ some d) then
      { st := s, reply := codeReply .okStopped, acts := [.endUnits [ending u .stopped .stopped]] }
    else
      { st := (s.unitChans u).foldl (fun t c => t.refreshChan u c) s, reply := codeReply .ok, acts := [] }

/-- MOVE naming a unit (TABLE 1-6). -/
def serveMove (s : State) (subject direction : Byte) : Served :=
  match dirOf direction with
  | none => refuse s .badRequest
  | some d =>
    match unitOf subject with
    | none => refuse s .badSubject
    | some u =>
      if s.sst.phase ≠ .run then refuse s .notReady
      else if !s.configured u then refuse s .badSubject
      else if s.ciu.stow.state ≠ .idle then refuse s .busy
      else if (s.unit u).state ≠ .idle then
        (if (s.unit u).origin = some .user then s.moveHeld u d else refuse s .busy)
      else match s.chansRefuse (s.unitChans u) with
      | some r => refuse s r
      | none =>
        if u = .awning ∧ d = .extend ∧ s.wgd.state ≠ .armed then refuse s .wind
        else s.moveFresh u d (s.pendAll u d (some s.deadline))

/-- A jack without an entry that meets JACKS WAITING or ACTIVE under USER (R13): steps 6, 7 and 10 for the jack alone, then
it joins. -/
def State.jackJoin (s : State) (c : Fin 16) (d : Dir) : Served :=
  match s.chansRefuse [c] with
  | some r => refuse s r
  | none =>
    match s.failedPermit .jacks d with
    | some p => answer s (interlockReply p)
    | none =>
      let x := s.unit .jacks
      if x.state = .waiting then
        let entry : Pending := { chan := c, dir := d, target := .toEnd, deadline := some s.deadline }
        { st := (s.setUnit .jacks { x with pending := x.pending ++ [entry] }).modChan c fun y => { y with state := .waiting }
          reply := codeReply .ok, acts := [] }
      else
        { st := s.createMotion c d .toEnd .user (some s.deadline), reply := codeReply .ok
          acts := [.created c, .restCheck false] }

/-- MOVE naming a jack channel (R13). -/
def serveMoveJack (s : State) (jack : Fin 6) (direction : Byte) : Served :=
  let c : Fin 16 := ⟨jack.val, by omega⟩
  match dirOf direction with
  | none => refuse s .badRequest
  | some d =>
    if s.sst.phase ≠ .run then refuse s .notReady
    else if !s.populated c then refuse s .badSubject
    else if s.ciu.stow.state ≠ .idle then refuse s .busy
    else
      let x := s.unit .jacks
      if x.state = .idle then
        match s.chansRefuse [c] with
        | some r => refuse s r
        | none =>
          s.moveFresh .jacks d [{ chan := c, dir := d, target := .toEnd, deadline := some s.deadline }]
      else if x.origin ≠ some .user then refuse s .busy
      else match s.userDir .jacks c with
      | none => s.jackJoin c d
      | some e =>
        if e = d then { st := s.refreshChan .jacks c, reply := codeReply .ok, acts := [] }
        else { st := s, reply := codeReply .okStopped, acts := [s.stopJack c] }

/-! ## STOP (R17, R18) -/

/-- STOP naming a unit (R17). -/
def serveStop (s : State) (subject : Byte) : Served :=
  match unitOf subject with
  | none => refuse s .badSubject
  | some u =>
    if s.configured u then
      { st := s, reply := codeReply .ok, acts := [.endUnits [ending u .stopped .stopped]] }
    else refuse s .badSubject

/-- STOP ALL (R18): the sequences end first, then every unit's work. R18 orders no more: of the sequences the level sequence
goes first, and the units go in unit order, JACKS, ROOM0 to ROOM3, AWNING (DESIGN CHOICE, log entry 51). -/
def serveStopAll (s : State) : Served :=
  { st := s, reply := codeReply .ok
    acts := [.lvsEnd .aborted .none none, .stowEnd .aborted .stopped none,
             .endUnits (allUnits.map fun u => ending u .stopped .stopped)] }

/-! ## Levelling (R90, R91, R94) -/

/-- The jacks that a LEVEL needs (TABLE 6-4, step 9). -/
def State.levelJacks (s : State) (option : Bool) : List (Fin 16) :=
  cornerChans ++ (if option && s.sixJacks then supportChans else [])

/-- LEVEL (TABLE 6-4). -/
def serveLevel (s : State) (option : Byte) : Served :=
  if option ≠ 0 ∧ option ≠ 1 then refuse s .badRequest
  else if s.sst.phase ≠ .run then refuse s .notReady
  else if s.lvs.seq.state ≠ .idle ∨ s.ciu.stow.state ≠ .idle ∨ s.atu.capture.isSome = true
      ∨ (s.unit .jacks).state ≠ .idle then refuse s .busy
  else if s.sgu.supply ≠ .normal ∨ s.sgu.budget < s.claimOf .jacks then refuse s .supply
  else if s.atu.record.state = .invalid then answer s (interlockReply .attitude)
  else if !s.geometryOk then refuse s .geometry
  else match s.chansRefuse (s.levelJacks (decide (option = 1))) with
  | some r => refuse s r
  | none =>
    if cornerChans.any fun c => !(s.chan c).known then answer s (interlockReply .homed)
    else if !s.levelPermit then answer s (interlockReply .level)
    else if !s.engineOk then answer s (interlockReply .engine)
    else
      let o := s.startLevel (decide (option = 1))
      { st := o.st, reply := codeReply .ok, acts := o.acts }

/-- LEVEL_ABORT (R94). -/
def serveLevelAbort (s : State) : Served :=
  { st := s, reply := codeReply .ok, acts := [.lvsEnd .aborted .none none] }

/-- LEVEL_RESULT (R90, R191). -/
def serveLevelResult (s : State) (part : Byte) : Served :=
  if part = 0 then answer s (okReply s.levelPart0)
  else if part.toNat ≤ 4 then answer s (okReply (s.levelPart (part.toNat - 1)))
  else refuse s .badRequest

/-! ## REFERENCE (R85) -/

/-- A capture record at start; the block in progress is skipped unless the next block begins with the next frame. -/
def State.newCapture (s : State) : Capture :=
  { samples := 0, sumX := 0, sumY := 0, rangeX := none, rangeY := none
    skip := !(decide (s.atu.blockCount = 0) && s.atu.scanned) }

/-- REFERENCE (TABLE 5-5). -/
def serveReference (s : State) : Served :=
  if s.sst.phase ≠ .run then refuse s .notReady
  else if s.atu.capture.isSome then refuse s .busy
  else if s.lvs.seq.state ≠ .idle then refuse s .busy
  else if s.atu.record.state = .invalid then answer (s.captureDone s.newCapture false) (codeReply .ok)
  else answer { s with atu := { s.atu with capture := some s.newCapture } } (codeReply .ok)

/-! ## STOW, GUARD_RESET (R138, R151) -/

/-- STOW (TABLE 9-6). -/
def serveStow (s : State) : Served :=
  if s.sst.phase ≠ .run then refuse s .notReady
  else if s.ciu.stow.state ≠ .idle then refuse s .busy
  else if s.sgu.supply = .cutoff then refuse s .supply
  else { st := s, reply := codeReply .ok, acts := [.stowStart .request] }

/-- GUARD_RESET (R138). -/
def serveGuardReset (s : State) : Served :=
  if s.wgd.state = .armed then answer s (codeReply .ok)
  else if s.wgd.speed < s.par.resetLevel then { st := s, reply := codeReply .ok, acts := [.guardArm] }
  else refuse s .windPresent

/-! ## Parameters (R184, R185) -/

/-- PARAM_GET (R184). -/
def serveParamGet (s : State) (id subject : Byte) : Served :=
  match paramRow id.toNat with
  | none => refuse s .badRequest
  | some row =>
    match s.paramSubject row.scope subject with
    | none => refuse s .badSubject
    | some sj =>
      { st := if s.sst.ref.isSome then s else { s with freeCount := s.freeCount + 1 }
        reply := s.paramReply id.toNat sj row, acts := [] }

/-- PARAM_SET (R185). -/
def serveParamSet (s : State) (id subject : Byte) (value : BitVec 32) : Served :=
  if s.sst.phase ≠ .run then refuse s .notReady
  else match paramRow id.toNat with
  | none => refuse s .badRequest
  | some row =>
    let v := value.toInt
    if row.values.length ≠ 0 ∧ v ∉ row.values then refuse s .badRequest
    else match s.paramSubject row.scope subject with
    | none => refuse s .badSubject
    | some sj =>
      if s.sst.commit.isSome then refuse s .busy
      else if s.paramBusy id.toNat sj then refuse s .busy
      else
        let w := storedValue id.toNat row v
        let t := { s with sst := { s.sst with params := s.sst.params.put id.toNat sj w } }
        { st := t, reply := u8 (if w = v then Result.ok else Result.okClamped).code ++ i32 w
          acts := storeActs s t id.toNat }

/-- COMMIT (R187). -/
def serveCommit (s : State) : Served :=
  if s.sst.phase ≠ .run then refuse s .notReady
  else if s.sst.commit.isSome then refuse s .busy
  else answer { s with sst := { s.sst with
      commit := some { copy := s.sst.params, layout := s.sst.layoutCode, start := s.frame } } } (codeReply .ok)

/-! ## The fault list (R164 to R166) -/

/-- FAULTS (R166). -/
def serveFaults (s : State) (start : Byte) : Served :=
  if start.toNat ≤ 31 then answer s (s.faultsReply start.toNat) else refuse s .badRequest

/-- A node leaves MISMATCH (R40): its descriptor is discarded, position known is cleared, its channels go IDLE or FAULTED,
and a new read starts in the next frame. -/
def State.leaveMismatch (s : State) (n : Fin 8) : State :=
  let s1 := s.modNode n fun x => { x.startRead with desc := none, cause := none }
  let s2 := (s.nodeChans n).foldl (fun t c => t.modChan c fun x =>
    { x with state := if x.lock.isSome then .faulted else .idle }) s1
  s2.forgetMotors n

/-- FAULT_CLEAR (R164, R165). -/
def serveFaultClear (s : State) (kind subject : Byte) : Served :=
  match FaultKind.ofCode kind.toNat with
  | none => refuse s .badRequest
  | some k =>
    match subjectOf subject with
    | none => refuse s .badSubject
    | some sj =>
      if !s.validSubject k sj then refuse s .badSubject
      else
        let r := s.clearFault k sj
        let reply := okReply (flag r.2.1 ++ u8 r.2.2)
        match k, sj with
        | .descMismatch, .node n =>
          if (s.node n).state = .mismatch then
            { st := r.1.leaveMismatch n, reply := reply, acts := [.raise .nodeLost (.node n), .restCheck false] }
          else answer r.1 reply
        | _, _ => if s.stands k sj then refuse s .stillPresent else answer r.1 reply

/-! ## STATUS, CHANNEL, NODES, INPUTS, RESET -/

/-- STATUS (R181): once formed, the reset cause becomes NONE and notices-lost is cleared. -/
def serveStatus (s : State) : Served :=
  answer { s with pli := { s.pli with resetCause := .none, lost := false } } s.statusReply

/-- CHANNEL (R23). -/
def serveChannel (s : State) (id : Byte) : Served :=
  if h : id.toNat < 16 then answer s (s.channelReply ⟨id.toNat, h⟩) else refuse s .badSubject

/-- NODES (R41). -/
def serveNodes (s : State) (address : Byte) : Served :=
  if h : address.toNat < 8 then answer s (s.nodesReply ⟨address.toNat, h⟩) else refuse s .badSubject

/-- INPUTS (R143): once formed, the CHANGED flags are cleared. -/
def serveInputs (s : State) : Served :=
  answer { s with ciu := { s.ciu with
    ign := { s.ciu.ign with changed := false }, park := { s.ciu.park with changed := false }
    eng := { s.ciu.eng with changed := false } } } s.inputsReply

/-- RESET (R189). -/
def serveReset (s : State) : Served :=
  answer { s with pli := { s.pli with resetPending := true } } (codeReply .ok)

/-- The owning block decides a request; a frame of an unknown KIND or a wrong length is BAD_REQUEST (R173). -/
def serve (i : Instr) (s : State) : Served :=
  match i with
  | .status _ => serveStatus s
  | .channel _ id => serveChannel s id
  | .nodes _ address => serveNodes s address
  | .inputs _ => serveInputs s
  | .move _ subject direction => serveMove s subject direction
  | .moveJack _ jack direction => serveMoveJack s jack direction
  | .stop _ subject => serveStop s subject
  | .stopAll _ => serveStopAll s
  | .level _ option => serveLevel s option
  | .levelAbort _ => serveLevelAbort s
  | .levelResult _ part => serveLevelResult s part
  | .reference _ => serveReference s
  | .stow _ => serveStow s
  | .stowResult _ => answer s s.stowReply
  | .guardReset _ => serveGuardReset s
  | .paramGet _ id subject => serveParamGet s id subject
  | .paramSet _ id subject value => serveParamSet s id subject value
  | .commit _ => serveCommit s
  | .faults _ start => serveFaults s start
  | .faultClear _ kind subject => serveFaultClear s kind subject
  | .reset _ => serveReset s
  | .unknownRequest _ _ _ | .powerOn _ | .resetnAssert | .resetnRelease _ | .startUpRun | .nodeCommandSlot _
  | .slotIntake _ _ | .conversionScan _ _ _ | .supplyStateChange | .attitudeSample | .speedWindowEnd _
  | .attendanceExpiry _ | .grantWaitExpiry _ | .overdrawExpiry | .rackWindowEnd _ | .endWaitExpiry _ | .contactTimeout
  | .settleTimeout | .liftPassTimeout | .supportTimeout | .stowStepTimeout | .inputAccept _ _ | .windEdge _
  | .calmExpiry | .holdOffExpiry | .panelFrameReceive | .panelGapTimeout | .transmitDone | .linkSilenceTimeout
  | .commitComplete _ | .commitTimeout | .softReset | .panelByteReceive _ | .powerLoss => refuse s .badRequest

end Sys2Proof.Machine
end

