-- ==== Sys2Proof/Machine/Panel.lean ====
section
/-! DEFINITION. The Panel Link Interface (chapter 11): the byte receiver, the holding, taking requests, the transmitter,
silence, and the soft reset's own part. -/

namespace Sys2Proof.Machine

/-! ## The receiver (R170, R172) -/

/-- The receiver back in HUNT, its gap timer stopped (R170). -/
def Pli.hunt (p : Pli) : Pli := { p with rx := .hunt, rxLen := 0, rxBytes := [], gapStart := none }

/-- A partial frame is discarded (R170). -/
def Pli.broken (p : Pli) : Pli := { p.hunt with brokenFrames := sat 65535 p.brokenFrames }

/-- All LEN + 2 bytes of a frame have been taken; it is not judged yet. -/
def Pli.complete (p : Pli) : Bool := decide (p.rx = .body ∧ p.rxLen + 2 ≤ p.rxBytes.length)

/-- A complete frame is judged by its CRC-16 (R170): the receiver returns to HUNT, a mismatch is counted. -/
def Pli.judge (p : Pli) : Pli × Option Frame :=
  match frameOf p.rxLen p.rxBytes with
  | some f => (p.hunt, some f)
  | none => ({ p.hunt with crcErrors := sat 65535 p.crcErrors }, none)

/-- One received byte, with no complete frame outstanding (the table of R170). SYNC starts the gap timer, and each byte taken
restarts it. -/
def Pli.byte (now : FrameNo) (p : Pli) (b : RxByte) : Pli :=
  match p.rx with
  | .hunt => if b.value = 0xA5#8 ∧ b.framingError = false then { p with rx := .length, gapStart := some now } else p
  | .length =>
    if b.framingError then p.broken
    else if 2 ≤ b.value.toNat ∧ b.value.toNat ≤ 60 then
      { p with rx := .body, rxLen := b.value.toNat, rxBytes := [], gapStart := some now }
    else { p.hunt with lengthErrors := sat 65535 p.lengthErrors }
  | .body => if b.framingError then p.broken else { p with rxBytes := p.rxBytes ++ [b.value], gapStart := some now }

/-- The gap timer of 20 ms has run in LENGTH or BODY (R170, R1). -/
def Pli.gapDue (p : Pli) (now : FrameNo) : Bool :=
  decide (p.rx ≠ .hunt) && (match p.gapStart with
    | some f => decide (framesOf 20 ≤ elapsed now f)
    | none => false)

/-- Judges a frame left complete, if there is one: what it hands on. -/
def State.judgeFrame (s : State) : Out :=
  if s.pli.complete then
    let r := s.pli.judge
    { st := { s with pli := r.1 }, acts := match r.2 with
        | some f => [.arrive f]
        | none => [] }
  else .done s

/-! ## Valid frames and requests (R171, R173, R178, R179) -/

/-- A valid frame restarts the silence timer from RUN on, or ends the silence (R178). -/
def Pli.heard (p : Pli) (phase : Phase) (now : FrameNo) : Pli :=
  if phase = .run then { p with silenceStart := some now, silent := false } else p

/-- A valid frame is held, or discarded as an overrun (R171). -/
def Pli.hold (p : Pli) (f : Frame) : Pli :=
  if p.holding.length < 2 then { p with holding := p.holding ++ [f] }
  else { p with overruns := sat 65535 p.overruns }

/-- A valid frame arrives (R171, R179): its silence ends, it is held, and the PLI takes a request if it may. -/
def actArrive (f : Frame) (s : State) : Out :=
  { st := { s with pli := (s.pli.heard s.sst.phase s.frame).hold f }
    acts := (if s.pli.silent then [.gone .linkSilence .coach] else []) ++ [.take] }

/-- The PLI may take a request (R173, R188, R189). -/
def State.mayTake (s : State) : Bool :=
  s.pli.slot.isNone && decide (s.sst.phase ≠ .load) && !s.pli.resetPending

/-- The oldest held frame is taken and decided; its reply is placed in the slot in the same event (R173). -/
def actTake (s : State) : Out :=
  match s.pli.holding with
  | [] => .done s
  | f :: rest =>
    if s.mayTake then
      let r := serve (decodeRequest f) { s with pli := { s.pli with holding := rest } }
      { st := { r.st with pli := { r.st.pli with slot := some (replyFrame f r.reply) } }, acts := r.acts }
    else .done s

/-! ## The transmitter (R175) -/

/-- The soft reset acts when the RESET's reply has been sent and no commit is in flight (R189). -/
def State.softResetDue (s : State) : Bool := s.pli.resetPending && s.pli.slot.isNone && s.sst.commit.isNone

/-- An idle transmitter takes the waiting reply, else the oldest notice. -/
def Pli.transmit (p : Pli) : Pli :=
  match p.tx with
  | some _ => p
  | none =>
    match p.slot, p.notices with
    | some f, _ => { p with tx := some { isReply := true, bytes := f.bytes } }
    | none, (seq, n) :: l => { p with tx := some { isReply := false, bytes := (noticeFrame seq n).bytes }, notices := l }
    | none, [] => p

/-- The transmitter chooses its next frame, but for a part whose soft reset is due: what is queued then goes with the queue
(R175, R177, R189). -/
def State.transmitted (s : State) : Pli := if s.softResetDue then s.pli else s.pli.transmit

/-- The last byte of the frame in transmission has been sent: a reply leaves the slot (R173). -/
def Pli.sent (p : Pli) : Pli :=
  match p.tx with
  | none => p
  | some t => { p with tx := none, slot := if t.isReply then none else p.slot }

/-! ## Silence (R178, R179) -/

/-- 400 frames have passed since the later of RUN and the last valid frame. -/
def State.silenceDue (s : State) : Bool :=
  match s.pli.silenceStart with
  | some f => decide (400 ≤ elapsed s.frame f)
  | none => false

/-- The work that silence ends (R179), in unit order (DESIGN CHOICE, log entry 51). -/
def State.silenceEndings (s : State) : List Ending :=
  (allUnits.filter fun u => decide ((s.unit u).origin = some .user ∨ (s.unit u).origin = some .level)).map fun u =>
    ending u .silence .none

/-- The silence condition comes to hold (R178, R179). -/
def State.silence (s : State) : Out :=
  if s.silenceDue then
    { st := { s with pli := { s.pli with silenceStart := none, silent := true } }
      acts := [.endUnits s.silenceEndings, .raise .linkSilence .coach] }
  else .done s

/-! ## The soft reset (R189, R190) -/

/-- A channel after a soft reset (TABLE 1-2, right-hand column): populated channels go IDLE. -/
def Channel.softReset (now : FrameNo) (x : Channel) : Channel :=
  { x with
    state := if x.kind = .none then .disabled else .idle
    lock := none, dragCount := 0, dragReported := false, motion := none, idleStart := now, idlePos := x.position }

/-- A node after a soft reset (TABLE 2-5): MISMATCH and DISCOVERING nodes start a new read in the next frame with cursor 0;
candidates, mismatch cause, retry count and scratch descriptor return to their reset values. -/
def Node.softReset (x : Node) : Node :=
  let y := { x.dropCandidates.stopRead with retry := 0, cause := none }
  match x.state with
  | .mismatch => { y with state := .discovering, good := 0, desc := none, cursor := some 0, xfer := .startNext }
  | .discovering => { y with cursor := some 0, xfer := .startNext }
  | .absent | .ready | .lost => y

/-- The link after a soft reset (TABLE 11-1): the counters and a frame being sent are kept. -/
def Pli.softReset (p : Pli) : Pli :=
  { Pli.reset .soft with
    crcErrors := p.crcErrors, lengthErrors := p.lengthErrors, brokenFrames := p.brokenFrames, overruns := p.overruns
    tx := p.tx }

/-- The attitude unit after a soft reset (TABLE 5-8). -/
def Atu.softReset (a : Atu) : Atu :=
  { Atu.reset with
    scanned := a.scanned
    record := { a.record with state := if a.record.state = .invalid then .invalid else .unsettled
                              histP := [], histR := [] } }

/-- The conditions that still stand, raised again by their blocks (R57, R168): protection conditions, NODE_LOST, the supply
state's fault, TILT_RANGE. R57 and R168 give no order: the blocks go in that order, the channels in channel order and the
nodes in node order (DESIGN CHOICE, log entry 52). -/
def State.reRaise (s : State) : List Act :=
  ((allChans.filter s.populated).flatMap fun c => match condFault (s.chan c).cond with
      | some k => [Act.raise k (.chan c)]
      | none => [])
    ++ ((allNodes.filter fun n => decide ((s.node n).state = .lost ∨ (s.node n).state = .discovering)).map fun n =>
      Act.raise .nodeLost (.node n))
    ++ (match supplyFault s.sgu.supply with | some k => [.raise k .coach] | none => [])
    ++ (if s.atu.record.state = .invalid then [.raise .tiltRange .coach] else [])

/-- The soft reset in one event (R190): work, sequences and guard, faults and locks, the link, and then the re-raises. The
next frame is frame 0, with LOAD (R24, R188). -/
def State.softReset (s : State) : Out :=
  let gone := allNodes.filter fun n => decide ((s.node n).state = .mismatch)
  let s1 := gone.foldl State.forgetMotors s
  let s2 := (s1.mapChans (Channel.softReset s.frame)).mapNodes Node.softReset
  let s3 := s2.mapRooms Room.endWork
  let s4 := { s3 with
    restartFrame := true, frameFresh := false
    chc := { s3.chc with units := Vector.replicate 6 .reset }
    sgu := { s3.sgu with queue := [], grants := [], nextOrder := 0, overdraw := 0 }
    lvs := { seq := .reset, result := .reset }
    ciu := { s3.ciu with
      ign := { s3.ciu.ign with changed := false }, park := { s3.ciu.park with changed := false }
      eng := { s3.ciu.eng with changed := false }
      travel := false, alarm := false, stow := .reset, result := .reset }
    wgd := .reset, atu := s3.atu.softReset, flt := .reset, pli := s3.pli.softReset
    sst := { s3.sst with phase := .load } }
  { st := s4, acts := s4.reRaise }

end Sys2Proof.Machine
end

