-- ==== Sys2Proof/Machine/Run.lean ====
section
/-! DEFINITION. One event: the agenda of hand-offs run to its end, and the lines and images that follow from the records. -/

namespace Sys2Proof.Machine

/-- The end of a unit's work reaches its requester (R19): the LVS for LEVEL, the CIU for STOW, the WGD for WIND. Work of
one of the last two may serve both (R136, R153): the WGD takes it before the CIU, so that AWNING_EXPOSED is raised before
STOW_DONE (DESIGN CHOICE, log entry 59). -/
def actHandOff (e : Ending) (o : Origin) (s : State) : Out :=
  match o with
  | .user => .done s
  | .level => { st := s, acts := lvsUnitEnd e s }
  | .stow | .wind =>
    let g := wgdUnitEnd e o s
    let c := stowUnitEnd e g.st
    { st := c.st, acts := g.acts ++ c.acts }

/-- What each act does. -/
def act : Act → State → Out
  | .raise k sj => actRaise k sj
  | .gone k sj => actGone k sj
  | .endUnits l => actEndUnits l
  | .handOff e o => actHandOff e o
  | .chanEnd c why => actChanEnd c why
  | .dropPending c why => actDropPending c why
  | .created c => actCreated c
  | .rehome c => actRehome c
  | .motorEnd c => actMotorEnd c
  | .extendEnd c => actExtendEnd c
  | .jackTest c => actJackTest c
  | .exam => Out.done
  | .granted u => actGranted u
  | .restCheck force => actRestCheck force
  | .termFail slide awning => actTermFail slide awning
  | .alarmRise => actAlarmRise
  | .lvsProgress => actLvsProgress
  | .lvsIntake had => actLvsIntake had
  | .lvsLatchLost c => actLvsLatchLost c
  | .lvsSample => actLvsSample
  | .lvsEnd o c f => actLvsEnd o c f
  | .stowStart t => actStowStart t
  | .stowEnter st => actStowEnter st
  | .stowBegin => actStowBegin
  | .requestRooms l => actRequestRooms l
  | .stowEnd o c sj => actStowEnd o c sj
  | .stowDone o c sj => actStowDone o c sj
  | .provide e => actProvide e
  | .guardNotice old => actGuardNotice old
  | .measure => actMeasure
  | .guardArm => actGuardArm
  | .position c n => actPosition c n
  | .electric c i p => actElectric c i p
  | .condition c k => actCondition c k
  | .message n ctl data => actMessage n ctl data
  | .countValid n => actCountValid n
  | .countMiss n => actCountMiss n
  | .attemptFail n => actAttemptFail n
  | .mismatch n cause => actMismatch n cause
  | .budget => actBudget
  | .attApply => actAttApply
  | .arrive f => actArrive f
  | .take => actTake

/-- Runs an agenda. An examination of the queue asked for (R67) is made before an act that asks for a grant, and when
nothing else is left (log entry 5). -/
def run : Nat → Bool → List Act → State → State
  | 0, _, _, s => s
  | n + 1, exam, [], s =>
    if exam then
      let o := examine s
      run n false o.acts o.st
    else s
  | n + 1, _, .exam :: l, s => run n true l s
  | n + 1, exam, a :: l, s =>
    if exam && a.requests then
      let o := examine s
      run n false (o.acts ++ a :: l) o.st
    else
      let o := act a s
      run n exam (o.acts ++ l) o.st

/-- The acts one event may run. No event of the part comes near it. -/
def fuel : Nat := 4096

/-- The lines and images follow from the records: skews, PUMP, TRAVEL, the command images, and the transmitter (R22, R26,
R72, R117, R147, R175). -/
def finish (s : State) : State :=
  let s1 := { s with chc := { s.chc with rooms := Vector.ofFn s.withSkew } }
  let s2 := { s1 with sgu := { s1.sgu with pump := s1.pumpRule }, ciu := { s1.ciu with travel := s1.travelRule }
                      pli := s1.transmitted }
  { s2 with nlc := { s2.nlc with nodes := Vector.ofFn fun n => { s2.node n with image := s2.imageRule n } } }

/-- A command's event: its acts, a last evaluation of TRAVEL and what hangs on it, and the lines. -/
def commit (s : State) (acts : List Act) : State := finish (run fuel false (acts ++ [.restCheck false]) s)

/-- A command while the part runs its frames; before POWER_ON and while RESETn is held, nothing happens. -/
def event (s : State) (o : Out) : Host.Outcome State Fault Refusal :=
  if s.running then .next (commit o.st o.acts) else .next s

/-- A timer's event: it acts at a frame end only, after slot 7 and before the next frame (R1, R24). -/
def expiry (s : State) (o : Out) : Host.Outcome State Fault Refusal := event s (if s.frameOver then o else .done s)

/-- A request command is the arrival of its valid frame (R171, R173). -/
def request (i : Instr) (s : State) : Host.Outcome State Fault Refusal :=
  match encodeRequest i with
  | some f => event s { st := s, acts := [.arrive f] }
  | none => .next s

end Sys2Proof.Machine
end

