-- ==== Sys2Proof/Machine/Commands.lean ====
section
/-! DEFINITION. Meanings: the requests. Each command is the arrival of its request's valid frame (R171, R173); how the owning
block decides it stands in Machine/Requests.lean. -/

namespace Sys2Proof.Machine

/-- UNKNOWN_REQUEST (R173). -/
def execUnknownRequest (kind tag : Byte) (payload : List Byte) (s : State) : Host.Outcome State Fault Refusal :=
  request (.unknownRequest kind tag payload) s

/-- STATUS (R181). -/
def execStatus (tag : Byte) (s : State) : Host.Outcome State Fault Refusal :=
  request (.status tag) s

/-- CHANNEL (R23). -/
def execChannel (tag id : Byte) (s : State) : Host.Outcome State Fault Refusal :=
  request (.channel tag id) s

/-- NODES (R41). -/
def execNodes (tag address : Byte) (s : State) : Host.Outcome State Fault Refusal :=
  request (.nodes tag address) s

/-- INPUTS (R143). -/
def execInputs (tag : Byte) (s : State) : Host.Outcome State Fault Refusal :=
  request (.inputs tag) s

/-- MOVE (R11, R12). -/
def execMove (tag subject direction : Byte) (s : State) : Host.Outcome State Fault Refusal :=
  request (.move tag subject direction) s

/-- MOVE_JACK (R13). -/
def execMoveJack (tag : Byte) (jack : Fin 6) (direction : Byte) (s : State) : Host.Outcome State Fault Refusal :=
  request (.moveJack tag jack direction) s

/-- STOP (R17). -/
def execStop (tag subject : Byte) (s : State) : Host.Outcome State Fault Refusal :=
  request (.stop tag subject) s

/-- STOP_ALL (R18). -/
def execStopAll (tag : Byte) (s : State) : Host.Outcome State Fault Refusal :=
  request (.stopAll tag) s

/-- LEVEL (R91, R93). -/
def execLevel (tag option : Byte) (s : State) : Host.Outcome State Fault Refusal :=
  request (.level tag option) s

/-- LEVEL_ABORT (R94). -/
def execLevelAbort (tag : Byte) (s : State) : Host.Outcome State Fault Refusal :=
  request (.levelAbort tag) s

/-- LEVEL_RESULT (R90, R191). -/
def execLevelResult (tag part : Byte) (s : State) : Host.Outcome State Fault Refusal :=
  request (.levelResult tag part) s

/-- REFERENCE (R85). -/
def execReference (tag : Byte) (s : State) : Host.Outcome State Fault Refusal :=
  request (.reference tag) s

/-- STOW (R151). -/
def execStow (tag : Byte) (s : State) : Host.Outcome State Fault Refusal :=
  request (.stow tag) s

/-- STOW_RESULT (R150). -/
def execStowResult (tag : Byte) (s : State) : Host.Outcome State Fault Refusal :=
  request (.stowResult tag) s

/-- GUARD_RESET (R138). -/
def execGuardReset (tag : Byte) (s : State) : Host.Outcome State Fault Refusal :=
  request (.guardReset tag) s

/-- PARAM_GET (R184). -/
def execParamGet (tag id subject : Byte) (s : State) : Host.Outcome State Fault Refusal :=
  request (.paramGet tag id subject) s

/-- PARAM_SET (R185). -/
def execParamSet (tag id subject : Byte) (value : BitVec 32) (s : State) : Host.Outcome State Fault Refusal :=
  request (.paramSet tag id subject value) s

/-- COMMIT (R187). -/
def execCommit (tag : Byte) (s : State) : Host.Outcome State Fault Refusal :=
  request (.commit tag) s

/-- FAULTS (R166). -/
def execFaults (tag start : Byte) (s : State) : Host.Outcome State Fault Refusal :=
  request (.faults tag start) s

/-- FAULT_CLEAR (R164, R165). -/
def execFaultClear (tag kind subject : Byte) (s : State) : Host.Outcome State Fault Refusal :=
  request (.faultClear tag kind subject) s

/-- RESET (R189). -/
def execReset (tag : Byte) (s : State) : Host.Outcome State Fault Refusal :=
  request (.reset tag) s

end Sys2Proof.Machine
end

