-- ==== Sys2Proof/Machine/Events.lean ====
section
/-! DEFINITION. Meanings: the coach inputs, the wind input, the store and link silence (chapters 8, 9, 11, 12). -/

namespace Sys2Proof.Machine

/-- INPUT_ACCEPT (R141, R142): the frame-end sample of an input. -/
def execInputAccept (i : InputId) (level : Bool) (s : State) : Host.Outcome State Fault Refusal :=
  event s (s.sampleInput i level)

/-- WIND_EDGE (R130, R131, R134). -/
def execWindEdge (time : Nat) (s : State) : Host.Outcome State Fault Refusal := event s (s.windEdge time)

/-- CALM_EXPIRY (R132). -/
def execCalmExpiry (s : State) : Host.Outcome State Fault Refusal := expiry s s.calm

/-- HOLD_OFF_EXPIRY (R139). -/
def execHoldOffExpiry (s : State) : Host.Outcome State Fault Refusal :=
  expiry s { st := s, acts := if s.holdOffDue then [.guardArm] else [] }

/-- LINK_SILENCE_TIMEOUT (R178, R179). -/
def execLinkSilenceTimeout (s : State) : Host.Outcome State Fault Refusal := expiry s s.silence

/-- COMMIT_COMPLETE (R187): the store reports the write complete at a frame end; `agrees` is the verdict of the read-back. A
report after the 40th frame end is too late, and the commit ends FAILED as that frame end would have ended it (log entries 4,
34). -/
def execCommitComplete (agrees : Bool) (s : State) : Host.Outcome State Fault Refusal :=
  expiry s (s.commitEnd (agrees && !s.commitLate))

/-- COMMIT_TIMEOUT (R187). -/
def execCommitTimeout (s : State) : Host.Outcome State Fault Refusal :=
  expiry s (if s.commitDue then s.commitEnd false else .done s)

end Sys2Proof.Machine
end

