-- ==== Sys2Proof/Machine/Line.lean ====
section
/-! DEFINITION. Meanings: the bytes and frames of the panel line (11.1 to 11.4). -/

namespace Sys2Proof.Machine

/-- PANEL_BYTE_RECEIVE (R170). A frame left complete is judged first; the byte is then examined. -/
def execPanelByteReceive (b : RxByte) (s : State) : Host.Outcome State Fault Refusal :=
  let o := s.judgeFrame
  event s { st := { o.st with pli := o.st.pli.byte s.frame b }, acts := o.acts }

/-- PANEL_FRAME_RECEIVE (R170, R171): the frame whose last byte has been taken is judged. -/
def execPanelFrameReceive (s : State) : Host.Outcome State Fault Refusal := event s s.judgeFrame

/-- PANEL_GAP_TIMEOUT (R170): at the frame end at which the gap timer has run 4 frames a partial frame is discarded. A
complete one is judged instead. -/
def execPanelGapTimeout (s : State) : Host.Outcome State Fault Refusal :=
  if s.pli.complete then event s s.judgeFrame
  else expiry s (if s.pli.gapDue s.frame then .done { s with pli := s.pli.broken } else .done s)

/-- TRANSMIT_DONE (R173, R175): the frame in transmission has been sent; the next request is taken. -/
def execTransmitDone (s : State) : Host.Outcome State Fault Refusal :=
  event s { st := { s with pli := s.pli.sent }, acts := [.take] }

end Sys2Proof.Machine
end

