-- ==== Sys2Proof/Machine/Resets.lean ====
section
/-! DEFINITION. Meanings: power, RESETn, start-up and the soft reset (chapters 2, 12). -/

namespace Sys2Proof.Machine

/-- The image a reset finds: a commit cut short leaves a bad CRC (R187). -/
def State.keptImage (s : State) : Image :=
  if s.sst.commit.isSome then { s.sst.image with crcGood := false } else s.sst.image

/-- The part with every block at its reset values, the store and the model's own fields kept. -/
def State.blanked (s : State) (mode : Mode) (cause : ResetCause) : State :=
  State.blank mode cause s.keptImage s.pending s.freeCount

/-- Frame 0 begins with LOAD (R188). -/
def State.boot (s : State) (cause : ResetCause) (straps : BitVec 4) : State :=
  let o := (s.blanked .running cause).load straps
  commit o.st o.acts

/-- POWER_ON (R188, R182, R186). -/
def execPowerOn (straps : BitVec 4) (s : State) : Host.Outcome State Fault Refusal := .next (s.boot .power straps)

/-- RESETN_ASSERT (R24, R76, R169): no frames, the node line undriven, PTXD idle; a commit is cut short (R187). -/
def execResetnAssert (s : State) : Host.Outcome State Fault Refusal :=
  if s.mode = .off then .next s else .next (s.blanked .lineReset .line)

/-- RESETN_RELEASE (R24, R182, R188): without RESETn held low, nothing happens. -/
def execResetnRelease (straps : BitVec 4) (s : State) : Host.Outcome State Fault Refusal :=
  if s.mode = .lineReset then .next (s.boot .line straps) else .next s

/-- POWER_LOSS (R187): nothing but the store is left. -/
def execPowerLoss (s : State) : Host.Outcome State Fault Refusal := .next (s.blanked .off .power)

/-- START_UP_RUN (R188), at a frame end. -/
def execStartUpRun (s : State) : Host.Outcome State Fault Refusal :=
  expiry s (if s.runDue then s.enterRun else .done s)

/-- SOFT_RESET (R189, R190). -/
def execSoftReset (s : State) : Host.Outcome State Fault Refusal :=
  event s (if s.softResetDue then s.softReset else .done s)

end Sys2Proof.Machine
end

