-- ==== Sys2Proof/Machine/Scan.lean ====
section
/-! DEFINITION. Meanings: the converter scan and what its counts and blocks lead to (chapters 4, 5). -/

namespace Sys2Proof.Machine

/-- A converter code is 12 bits (R76). -/
def code12 (n : Nat) : Nat := min n 4095

/-- CONVERSION_SCAN (R58, R59, R76, R77). A block left complete gives its sample first. -/
def execConversionScan (tx ty vbat : Nat) (s : State) : Host.Outcome State Fault Refusal :=
  let o := s.attitudeSample
  event s { st := { o.st.battery (code12 vbat) with atu := o.st.atu.scan (code12 tx) (code12 ty) }, acts := o.acts }

/-- SUPPLY_STATE_CHANGE (R60 to R64): acts when a count of a row of TABLE 4-2 has reached 100. -/
def execSupplyStateChange (s : State) : Host.Outcome State Fault Refusal :=
  event s (match supplyNext s.sgu.supply s.sgu.counts with
    | some new => s.supplyEnter new
    | none => .done s)

/-- ATTITUDE_SAMPLE (R77 to R86): acts when the block count is 16. -/
def execAttitudeSample (s : State) : Host.Outcome State Fault Refusal := event s s.attitudeSample

end Sys2Proof.Machine
end

