-- ==== Sys2Proof/Machine/Slots.lean ====
section
/-! DEFINITION. Meanings: the slots of the node link (chapter 2). -/

namespace Sys2Proof.Machine

/-- The start of slot n (R25, R26): the image in force is sent with its address and CRC-8 and NLDE is asserted; an ABSENT
address is sent nothing. -/
def State.openSlot (s : State) (n : Fin 8) : State :=
  let used := decide ((s.node n).state ≠ .absent)
  { s with nlc := { s.nlc with slot := some n, nlde := used
                               sent := if used then some (commandBytes n (s.imageRule n)) else none } }

/-- NODE_COMMAND_SLOT (R24, R26): slot 0 starts a frame; after a soft reset that frame is frame 0 with LOAD, from whose end
requests are taken (R188). -/
def execNodeCommandSlot (n : Fin 8) (s : State) : Host.Outcome State Fault Refusal :=
  let t := if n = 0 then s.frameStart else s
  event s { st := t.openSlot n, acts := if n = 0 ∧ s.restartFrame = true then [.take] else [] }

/-- The end of a slot: NLDE is released and the line is idle (R25). -/
def State.closeSlot (s : State) : State :=
  { s with nlc := { s.nlc with slot := none, sent := none, nlde := false } }

/-- What the reply of slot n hands on (R29): a VALID intake, a miss, or nothing for an ABSENT address. -/
def State.slotActs (s : State) (n : Fin 8) (reply : SlotReply) : List Act :=
  if (s.node n).state = .absent then []
  else match statusOf n reply with
  | some f => s.intakeActs n f
  | none => [.countMiss n]

/-- SLOT_INTAKE (R29 to R39); slot 7 ends the frame, with its rack and overdraw counts (R24, R74, R120). -/
def execSlotIntake (n : Fin 8) (reply : SlotReply) (s : State) : Host.Outcome State Fault Refusal :=
  if s.running then
    let t := commit s.closeSlot (s.slotActs n reply)
    .next (if n = 7 then t.frameEnd else t)
  else .next s

end Sys2Proof.Machine
end

