-- ==== Sys2Proof/Machine/Timers.lean ====
section
/-! DEFINITION. Meanings: windows and timers that expire at a frame end (R1). Each acts at a frame end when it is due and
finds nothing to do otherwise. -/

namespace Sys2Proof.Machine

/-- SPEED_WINDOW_END (R42 to R47), for a populated channel. -/
def execSpeedWindowEnd (c : Fin 16) (s : State) : Host.Outcome State Fault Refusal :=
  expiry s (if s.populated c then s.windowEnd c else .done s)

/-- ATTENDANCE_EXPIRY (R15). -/
def execAttendanceExpiry (u : UnitId) (s : State) : Host.Outcome State Fault Refusal :=
  expiry s { st := s, acts := s.expire u }

/-- The queue entry of a unit has waited 2000 frames (R68). -/
def State.waitDue (s : State) (u : UnitId) : Bool :=
  s.sgu.queue.any fun e => decide (e.unit = u ∧ 2000 ≤ elapsed s.frame e.arrival)

/-- GRANT_WAIT_EXPIRY (R68). -/
def execGrantWaitExpiry (u : UnitId) (s : State) : Host.Outcome State Fault Refusal :=
  expiry s { st := s, acts := if s.waitDue u then [.endUnits [ending u .revoked .revoked]] else [] }

/-- OVERDRAW_EXPIRY (R74): the count has reached 200. -/
def execOverdrawExpiry (s : State) : Host.Outcome State Fault Refusal :=
  expiry s (if 200 ≤ s.sgu.overdraw then
      { st := { s with sgu := { s.sgu with overdraw := 0 } }
        acts := [.raise .overdraw .coach] ++ (match overdrawVictim s.sgu.grants with
          | some g => [.endUnits [ending g.unit .revoked .revoked]]
          | none => []) ++ [.exam] }
    else .done s)

/-- A room's window has run 32 frames (R120). -/
def State.rackDue (s : State) (r : Fin 4) : Bool :=
  decide ((s.room r).type = .twin) && (match (s.room r).window with
    | some w => decide (32 ≤ elapsed s.frame w)
    | none => false)

/-- RACK_WINDOW_END (R120, R121): 17 or more is a rack; otherwise the next window starts where this one ended. -/
def execRackWindowEnd (r : Fin 4) (s : State) : Host.Outcome State Fault Refusal :=
  expiry s (if s.rackDue r then
      (if 17 ≤ (s.room r).overLimit then { st := s, acts := [.raise .rack (.room r)] }
       else .done (s.setRoom r { s.room r with
         window := (s.room r).window.map fun w => after w 32, overLimit := 0, counted := 0 }))
    else .done s)

/-- The end-wait deadline of a room has come while a record is not arrived (R124). -/
def State.endWaitDue (s : State) (r : Fin 4) : Bool :=
  (match (s.room r).endWait with
   | some d => reached s.frame d
   | none => false) &&
  (s.unitChans (.room r)).any fun c => (s.chan c).motion.isSome && !(s.chan c).arrived

/-- END_WAIT_EXPIRY (R124). -/
def execEndWaitExpiry (r : Fin 4) (s : State) : Host.Outcome State Fault Refusal :=
  expiry s { st := s, acts := if s.endWaitDue r then [.raise .endMismatch (.room r)] else [] }

/-- CONTACT_TIMEOUT (R96). -/
def execContactTimeout (s : State) : Host.Outcome State Fault Refusal := expiry s s.contactTimeout

/-- SETTLE_TIMEOUT (R97). -/
def execSettleTimeout (s : State) : Host.Outcome State Fault Refusal := expiry s s.settleTimeout

/-- LIFT_PASS_TIMEOUT (R102). -/
def execLiftPassTimeout (s : State) : Host.Outcome State Fault Refusal := expiry s s.liftTimeout

/-- SUPPORT_TIMEOUT (R106). -/
def execSupportTimeout (s : State) : Host.Outcome State Fault Refusal := expiry s s.supportTimeout

/-- STOW_STEP_TIMEOUT (R156). -/
def execStowStepTimeout (s : State) : Host.Outcome State Fault Refusal := expiry s s.stowTimeout

end Sys2Proof.Machine
end

