-- ==== Sys2Proof/Machine/Dispatch.lean ====
section
/-! DEFINITION. The effect of each command on everything but the queue. -/

namespace Sys2Proof.Machine

def exec (i : Instr) (s : State) : Host.Outcome State Fault Refusal :=
  match i with
  | .powerOn straps => Sys2Proof.Machine.execPowerOn straps s
  | .resetnAssert => Sys2Proof.Machine.execResetnAssert s
  | .resetnRelease straps => Sys2Proof.Machine.execResetnRelease straps s
  | .startUpRun => Sys2Proof.Machine.execStartUpRun s
  | .nodeCommandSlot n => Sys2Proof.Machine.execNodeCommandSlot n s
  | .slotIntake n reply => Sys2Proof.Machine.execSlotIntake n reply s
  | .conversionScan tx ty vbat => Sys2Proof.Machine.execConversionScan tx ty vbat s
  | .supplyStateChange => Sys2Proof.Machine.execSupplyStateChange s
  | .attitudeSample => Sys2Proof.Machine.execAttitudeSample s
  | .speedWindowEnd c => Sys2Proof.Machine.execSpeedWindowEnd c s
  | .attendanceExpiry u => Sys2Proof.Machine.execAttendanceExpiry u s
  | .grantWaitExpiry u => Sys2Proof.Machine.execGrantWaitExpiry u s
  | .overdrawExpiry => Sys2Proof.Machine.execOverdrawExpiry s
  | .rackWindowEnd r => Sys2Proof.Machine.execRackWindowEnd r s
  | .endWaitExpiry r => Sys2Proof.Machine.execEndWaitExpiry r s
  | .contactTimeout => Sys2Proof.Machine.execContactTimeout s
  | .settleTimeout => Sys2Proof.Machine.execSettleTimeout s
  | .liftPassTimeout => Sys2Proof.Machine.execLiftPassTimeout s
  | .supportTimeout => Sys2Proof.Machine.execSupportTimeout s
  | .stowStepTimeout => Sys2Proof.Machine.execStowStepTimeout s
  | .inputAccept input level => Sys2Proof.Machine.execInputAccept input level s
  | .windEdge time => Sys2Proof.Machine.execWindEdge time s
  | .calmExpiry => Sys2Proof.Machine.execCalmExpiry s
  | .holdOffExpiry => Sys2Proof.Machine.execHoldOffExpiry s
  | .panelFrameReceive => Sys2Proof.Machine.execPanelFrameReceive s
  | .panelGapTimeout => Sys2Proof.Machine.execPanelGapTimeout s
  | .transmitDone => Sys2Proof.Machine.execTransmitDone s
  | .linkSilenceTimeout => Sys2Proof.Machine.execLinkSilenceTimeout s
  | .unknownRequest kind tag payload => Sys2Proof.Machine.execUnknownRequest kind tag payload s
  | .status tag => Sys2Proof.Machine.execStatus tag s
  | .channel tag id => Sys2Proof.Machine.execChannel tag id s
  | .nodes tag address => Sys2Proof.Machine.execNodes tag address s
  | .inputs tag => Sys2Proof.Machine.execInputs tag s
  | .move tag subject direction => Sys2Proof.Machine.execMove tag subject direction s
  | .moveJack tag jack direction => Sys2Proof.Machine.execMoveJack tag jack direction s
  | .stop tag subject => Sys2Proof.Machine.execStop tag subject s
  | .stopAll tag => Sys2Proof.Machine.execStopAll tag s
  | .level tag option => Sys2Proof.Machine.execLevel tag option s
  | .levelAbort tag => Sys2Proof.Machine.execLevelAbort tag s
  | .levelResult tag part => Sys2Proof.Machine.execLevelResult tag part s
  | .reference tag => Sys2Proof.Machine.execReference tag s
  | .stow tag => Sys2Proof.Machine.execStow tag s
  | .stowResult tag => Sys2Proof.Machine.execStowResult tag s
  | .guardReset tag => Sys2Proof.Machine.execGuardReset tag s
  | .paramGet tag id subject => Sys2Proof.Machine.execParamGet tag id subject s
  | .paramSet tag id subject value => Sys2Proof.Machine.execParamSet tag id subject value s
  | .commit tag => Sys2Proof.Machine.execCommit tag s
  | .commitComplete agrees => Sys2Proof.Machine.execCommitComplete agrees s
  | .commitTimeout => Sys2Proof.Machine.execCommitTimeout s
  | .faults tag start => Sys2Proof.Machine.execFaults tag start s
  | .faultClear tag kind subject => Sys2Proof.Machine.execFaultClear tag kind subject s
  | .reset tag => Sys2Proof.Machine.execReset tag s
  | .softReset => Sys2Proof.Machine.execSoftReset s
  | .panelByteReceive b => Sys2Proof.Machine.execPanelByteReceive b s
  | .powerLoss => Sys2Proof.Machine.execPowerLoss s

end Sys2Proof.Machine
end

