-- ==== Sys2Proof/Safety.lean ====
section
/-! DEFINITION. The terms claims use: lines that follow the records, a part whose events end where they began, a part at rest,
a request that is served at once, and the end of a unit's work. -/

namespace Sys2Proof

open Machine

/-! ## The part between two commands -/

/-- The lines and images follow the records (R22, R26, R72, R117, R147). -/
structure Lines (s : State) : Prop where
  skew : ∀ r, s.withSkew r = s.room r
  pump : s.sgu.pump = s.pumpRule
  travel : s.ciu.travel = s.travelRule
  images : ∀ n, (s.node n).image = s.imageRule n

/-- An evaluation of TRAVEL ends no condition and no motion: no AWNING_EXPOSED stands for a stowed awning (R137), and no jack
retracts under a failed JACK_RETRACT (R146). -/
structure Still (s : State) : Prop where
  exposed : ∀ e ∈ s.flt.entries, e.kind = .awningExposed → e.present = true → s.awningStowed = false
  jacks : s.roomsStowed = true ∨ ∀ c ∈ jackChans, (s.chan c).moves .retract = false

/-- The part runs its frames and stands as an event leaves it. -/
structure Quiet (s : State) : Prop where
  running : s.mode = .running
  lines : Lines s
  still : Still s

/-- No travel alarm is raised and none can rise: from RUN on, PARK is not accepted as released (R148). -/
structure Parked (s : State) : Prop where
  park : s.sst.phase = .run → s.parkReleased = false
  alarm : s.ciu.alarm = false

/-- The part runs its frames, and an evaluation of TRAVEL moves the TRAVEL line alone. -/
structure Steady (s : State) : Prop where
  running : s.mode = .running
  still : Still s
  parked : Parked s

/-- The part is at rest: it runs its frames, no unit works, no sequence runs, the guard is ARMED, no listed condition stands
and no travel alarm can rise. -/
structure Resting (s : State) : Prop where
  running : s.mode = .running
  parked : Parked s
  units : ∀ u, s.unit u = .reset
  motions : ∀ c, (s.chan c).motion = none
  queue : s.sgu.queue = []
  grants : s.sgu.grants = []
  level : s.lvs.seq.state = .idle
  stow : s.ciu.stow.state = .idle
  guard : s.wgd.state = .armed
  faults : ∀ e ∈ s.flt.entries, e.present = false

/-! ## The panel link -/

/-- A request that arrives is taken in the same event (R171, R173, R178): nothing is held, no reply waits, no RESET is
pending, LOAD is past and the link is not silent. -/
structure Hears (s : State) : Prop where
  phase : s.sst.phase ≠ .load
  holding : s.pli.holding = []
  slot : s.pli.slot = none
  reset : s.pli.resetPending = false
  silent : s.pli.silent = false

/-- The state with the silence timer restarted by a valid frame (R178). -/
def Machine.State.heard (s : State) : State := { s with pli := s.pli.heard s.sst.phase s.frame }

/-- The state with a reply in the reply slot (R173). -/
def Machine.State.replied (s : State) (f : Frame) : State := { s with pli := { s.pli with slot := some f } }

/-- The state with an idle transmitter's next frame begun, but for a part whose soft reset is due (R175, R189). -/
def Machine.State.sending (s : State) : State := { s with pli := s.transmitted }

/-- The reply to a frame of a KIND and TAG (R174). -/
def replyTo (kind tag : Byte) (payload : List Byte) : Frame := { kind := kind + 0x80, tag := tag, payload := payload }

/-! ## Start-up -/

/-- The image is good for a layout code: its CRC is good and it was written under that code (R186). -/
def Machine.Image.fits (im : Image) (straps : BitVec 4) : Bool := im.crcGood && decide (im.layout = straps)

/-- Frame 0 has begun after a power-on reset or a release of RESETn with these straps and this image: LOAD is done and
DISCOVER runs (R3, R33, R182, R186, R188, and every block's reset values). -/
structure Started (im : Image) (cause : ResetCause) (straps : BitVec 4) (t : State) : Prop where
  mode : t.mode = .running
  frame : t.frame = 0
  phase : t.sst.phase = .discover
  layout : t.sst.layoutCode = straps
  params : t.sst.params = if im.fits straps then im.params else Params.defaults
  outcome : t.sst.outcome = if im.fits straps then .image else if im.crcGood then .defaultsLayout else .defaultsCrc
  image : t.sst.image = im
  commit : t.sst.commit = none
  chans : ∀ c, t.chan c = Channel.populate straps c
  rooms : ∀ r, t.room r = Room.populate straps r
  units : ∀ u, t.unit u = .reset
  nodes : ∀ n, (t.node n).state = (Node.populate straps n).state ∧ (t.node n).cursor = (Node.populate straps n).cursor
  images : ∀ n, (t.node n).image =
    if (Node.populate straps n).state = .discovering then { CmdImage.off with ctl := .reqDesc } else .off
  supply : t.sgu = .reset t.par.budgetBattery
  attitude : t.atu = .reset
  level : t.lvs = { seq := .reset, result := .reset }
  guard : t.wgd = .reset
  inputs : t.ciu = .reset
  faults : t.flt = if im.crcGood then .reset else (Flt.reset.raise .storeInvalid .coach 0).1
  causes : t.pli.resetCause = cause ∧ t.pli.restartCause = cause
  link : t.pli.rx = .hunt ∧ t.pli.holding = [] ∧ t.pli.slot = none ∧ t.pli.silenceStart = none ∧ t.pli.silent = false ∧
    t.pli.crcErrors = 0 ∧ t.pli.lengthErrors = 0 ∧ t.pli.brokenFrames = 0 ∧ t.pli.overruns = 0

/-! ## Intakes -/

/-- A channel after a VALID intake that changes neither its condition nor its latch (R30, R31). -/
def Machine.State.intakeChan (s : State) (c : Fin 16) (count : BitVec 16) (current pressure : Nat) : Channel :=
  { s.chan c with
    position := match (s.outRec c).lastCount with
      | some last => clampPos ((s.chan c).position + countChange count last)
      | none => (s.chan c).position
    current := current
    pressure := if (s.chan c).isJack then pressure else (s.chan c).pressure }

/-- An output's report changes neither the validated condition nor the latch, and re-homes nothing (R32, R49, R53). -/
structure PlainReport (s : State) (c : Fin 16) (k : Cond) (pressure : Nat) : Prop where
  cond : k = (s.chan c).cond
  home : (s.chan c).cond = .limitRet → (s.chan c).known = true
  latch : (s.chan c).isJack = true → latchAfter (s.chan c).latch (s.jackPar c) pressure = (s.chan c).latch

/-! ## Work -/

/-- From s to t the work of unit u has ended (R19, R20, R71): its record is that of an idle unit, its channels have no motion
record, it has left the queue and the grant set, and every other unit, channel and entry is as it was. -/
structure UnitEnded (s t : State) (u : UnitId) : Prop where
  idle : t.unit u = .reset
  others : ∀ v, v ≠ u → t.unit v = s.unit v
  chans : ∀ c, c ∈ unitSlots u → t.chan c = ((s.chan c).endMotion s.frame).unwait
  otherChans : ∀ c, c ∉ unitSlots u → t.chan c = s.chan c
  queue : t.sgu.queue = s.sgu.queue.filter fun e => decide (e.unit ≠ u)
  grants : t.sgu.grants = s.sgu.grants.filter fun e => decide (e.unit ≠ u)

/-- A fault is raised as the list takes it, with its notice (R160, R161); its severity effect is not in this. -/
def Machine.State.raised (s : State) (k : FaultKind) (sj : Subject) : State :=
  let r := s.flt.raise k sj s.frame
  ({ s with flt := r.1 } : State).offer (.faultRaised k sj k.severity (!k.isEvent) r.2.1 r.2.2)

/-- No unit but u has an entry in the grant queue. -/
def Machine.State.queueOnly (s : State) (u : UnitId) : Prop := ∀ e ∈ s.sgu.queue, e.unit = u

/-! ## What a command leaves aside -/

/-- The frame number and its marks, the settings, the supply values, the attitude record and its sums, IGN and ENG, and what the panel link
has received and counted are as they were. -/
structure Aside (s t : State) : Prop where
  frame : t.frame = s.frame ∧ t.frameOver = s.frameOver ∧ t.restartFrame = s.restartFrame
  settings : t.sst = s.sst
  supply : t.sgu.supply = s.sgu.supply ∧ t.sgu.batHist = s.sgu.batHist ∧ t.sgu.batAvg = s.sgu.batAvg ∧ t.sgu.counts = s.sgu.counts
  attitude : t.atu.record = s.atu.record ∧ t.atu.capture = s.atu.capture ∧ t.atu.accX = s.atu.accX ∧ t.atu.accY = s.atu.accY ∧
    t.atu.blockCount = s.atu.blockCount
  inputs : t.ciu.ign = s.ciu.ign ∧ t.ciu.eng = s.ciu.eng
  link : t.pli.rx = s.pli.rx ∧ t.pli.rxLen = s.pli.rxLen ∧ t.pli.rxBytes = s.pli.rxBytes ∧ t.pli.gapStart = s.pli.gapStart ∧
    t.pli.resetCause = s.pli.resetCause ∧
    t.pli.restartCause = s.pli.restartCause ∧ t.pli.crcErrors = s.pli.crcErrors ∧ t.pli.lengthErrors = s.pli.lengthErrors ∧
    t.pli.brokenFrames = s.pli.brokenFrames ∧ t.pli.overruns = s.pli.overruns

/-- What the intake of slot n leaves aside: the intake of slot 7 is the frame's end (R24). -/
def SlotAside (n : Fin 8) (s t : State) : Prop := Aside { s with frameOver := s.frameOver || decide (n = 7) } t

/-- The node table is as it was, but for the command images, which follow the records (R26). -/
def NodesStand (s t : State) : Prop := ∀ n, t.node n = { s.node n with image := (t.node n).image }

/-- No grant is asked for, held or given up. -/
def GrantsStand (s t : State) : Prop :=
  t.sgu.queue = s.sgu.queue ∧ t.sgu.grants = s.sgu.grants ∧ t.sgu.nextOrder = s.sgu.nextOrder

/-! ## Conditions and inputs -/

/-- At most one entry of the list has this kind and subject (R160). -/
def Machine.Flt.single (f : Flt) (k : FaultKind) (sj : Subject) : Prop :=
  (f.entries.filter fun e => decide (e.kind = k ∧ e.subject = sj)).length ≤ 1

/-- The list with the condition of a kind and subject ended: the entry stays, not present (R167). -/
def Machine.Flt.ended (f : Flt) (k : FaultKind) (sj : Subject) : Flt :=
  { f with entries := f.entries.map fun e => if e.kind = k ∧ e.subject = sj then { e with present := false } else e }

/-- A standing condition of a kind and subject ends: its entry stays, not present, and FAULT_GONE gives its index. A condition
that is not listed as present ends unseen (R167). -/
def Machine.State.lifted (s : State) (k : FaultKind) (sj : Subject) : State :=
  match s.flt.entries.findIdx? fun e => decide (e.kind = k ∧ e.subject = sj ∧ e.present = true) with
  | some i => ({ s with flt := s.flt.ended k sj } : State).offer (.faultGone k sj i)
  | none => s

/-- The part is at rest but that one condition may be listed as present. -/
structure Machine.State.RestingBut (s : State) (k : FaultKind) (sj : Subject) : Prop where
  rest : Resting { s with flt := .reset }
  faults : ∀ e ∈ s.flt.entries, e.present = true → e.kind = k ∧ e.subject = sj
  single : s.flt.single k sj

/-- One more sample of an input: the last sample and the samples in a row, at most 4 counted (R141). -/
def Machine.Input.sampled (x : Input) (level : Bool) : Input :=
  { x with last := level, run := if level = x.last then min 4 (x.run + 1) else 1 }

/-- The sample makes its level the accepted level: the fourth in a row of a level that is not accepted (R141). -/
def Machine.Input.newLevel (x : Input) (level : Bool) : Prop :=
  (x.sampled level).run = 4 ∧ x.accepted ≠ some level

/-! ## Levelling -/

/-- A level sequence holds JACKS and nothing else works. -/
structure Machine.State.Levelling (s : State) (st : LvState) (start : FrameNo) : Prop where
  steady : Steady s
  state : s.lvs.seq.state = st
  start : s.lvs.seq.phaseStart = some start
  recorded : s.lvs.seq.recorded = none
  jacks : (s.unit .jacks).state = .active ∧ (s.unit .jacks).origin = some .level
  others : ∀ u, u ≠ .jacks → (s.unit u).state = .idle
  queue : s.sgu.queue = []

/-- The sequence has ended in a state with an outcome and a cause: the work, the result record, and the sequence record (R90,
R107). -/
structure LevelEnded (s t : State) (st : LvState) (outcome : LvOutcome) (cause : Cause) : Prop where
  seq : t.lvs.seq = .reset
  result : t.lvs.result =
    { outcome := outcome, cause := cause, endedIn := some st, passes := s.lvs.seq.passes, pitch := s.atu.record.pitch
      roll := s.atu.record.roll, clamped := s.lvs.seq.clamped
      positions := (jackChans.filter s.populated).map fun c => (c, (s.chan c).position) }
  jacks : t.unit .jacks = .reset
  motions : ∀ c ∈ jackChans, t.chan c = ((s.chan c).endMotion s.frame).unwait
  others : ∀ c, c ∉ jackChans → t.chan c = s.chan c
  grants : t.sgu.grants = s.sgu.grants.filter fun e => decide (e.unit ≠ .jacks)

/-! ## Bounds of the records -/

/-- The fault list's law (R158 to R161): at most 32 entries, one for each kind and subject, each with its kind's severity and
a count of 1 to 255, and no event present. -/
structure FaultLaw (f : Flt) : Prop where
  size : f.entries.length ≤ 32
  distinct : f.entries.Pairwise fun a b => ¬(a.kind = b.kind ∧ a.subject = b.subject)
  severity : ∀ e ∈ f.entries, e.severity = e.kind.severity
  count : ∀ e ∈ f.entries, 1 ≤ e.count ∧ e.count ≤ 255
  events : ∀ e ∈ f.entries, e.kind.isEvent = true → e.present = false

/-- The bounds of the queues and of the counts (R30, R34, R158, R171, R176). -/
structure Bounded (s : State) : Prop where
  faults : FaultLaw s.flt
  notices : s.pli.notices.length ≤ 16
  holding : s.pli.holding.length ≤ 2
  counters : s.pli.crcErrors ≤ 65535 ∧ s.pli.lengthErrors ≤ 65535 ∧ s.pli.brokenFrames ≤ 65535 ∧ s.pli.overruns ≤ 65535
  misses : ∀ n, (s.node n).misses ≤ 3 ∧ (s.node n).missTotal ≤ 65535
  positions : ∀ c, -2147483648 ≤ (s.chan c).position ∧ (s.chan c).position ≤ 2147483647
  battery : s.sgu.batHist.length ≤ 8

/-- The law of grants (R63, R66, R67): a working unit has one entry, WAITING in the queue or ACTIVE in the grant set; the claims
held are at most B; in CUTOFF nothing waits or is held. -/
structure GrantLaw (s : State) : Prop where
  once : (s.sgu.queue.map QEntry.unit ++ s.sgu.grants.map GEntry.unit).Nodup
  waiting : ∀ e ∈ s.sgu.queue, (s.unit e.unit).state = .waiting
  active : ∀ g ∈ s.sgu.grants, (s.unit g.unit).state = .active
  listed : ∀ u, (s.unit u).state ≠ .idle → u ∈ s.sgu.queue.map QEntry.unit ++ s.sgu.grants.map GEntry.unit
  held : (s.sgu.grants.map GEntry.claim).sum ≤ s.sgu.budget
  cutoff : s.sgu.supply = .cutoff → s.sgu.queue = [] ∧ s.sgu.grants = []

/-! ## Requests -/

/-- The state after a request that its owner only answers: the frame has been heard, the reply is placed and an idle
transmitter takes it up (R173, R174, R175, R178). -/
def Machine.State.answered (s : State) (kind tag : Byte) (payload : List Byte) : State :=
  (s.heard.replied (replyTo kind tag payload)).sending

/-- A motion record as TABLE 1-5 creates it now. -/
def Machine.State.newMotion (s : State) (c : Fin 16) (d : Dir) (o : Origin) (deadline : Option FrameNo) : Motion :=
  { dir := d, target := .toEnd, origin := o, attended := decide (o = .user), deadline := deadline, start := s.frame
    winStart := s.frame, winPos := (s.chan c).position, stallCount := 0, graceEnd := s.frame + 100, arrived := false }

/-- From s to t a unit's work has begun on the channels listed: the unit is ACTIVE with its grant, the only one, and each
channel listed is MOVING with a new record (R8, R9, R10, R66, R67). -/
structure UnitBegun (s t : State) (u : UnitId) (o : Origin) (d : Dir) (deadline : Option FrameNo) (l : List (Fin 16)) :
    Prop where
  unit : t.unit u = { state := .active, origin := some o, cls := some o, claim := some (s.claimOf u), pending := [] }
  others : ∀ v, v ≠ u → t.unit v = s.unit v
  moving : ∀ c ∈ l, t.chan c = { s.chan c with
    state := .moving, extendEnd := false, dragCount := 0, dragReported := false, motion := some (s.newMotion c d o deadline) }
  rest : ∀ c, c ∉ l → t.chan c = s.chan c
  queue : t.sgu.queue = []
  grants : t.sgu.grants = [⟨u, o, s.claimOf u, s.sgu.nextOrder + 1⟩]

end Sys2Proof
end

