-- ==== Sys2Proof/WellFormed.lean ====
section
/-! DEFINITION. Which commands are well formed: operands the sender of a command can mean. -/

namespace Sys2Proof

open Machine

/-- The byte is a jack channel 0 to 5: a MOVE naming it is MOVE_JACK (R13). -/
def isJackByte (b : Byte) : Bool := decide (0x20 ≤ b.toNat ∧ b.toNat < 0x26)

/-- A frame that TABLE 13-4 does not give: its request is UNKNOWN_REQUEST (R173). -/
def isUnknown (kind tag : Byte) (payload : List Byte) : Bool :=
  match decodeRequest ⟨kind, tag, payload⟩ with
  | .unknownRequest _ _ _ => true
  | _ => false

/-- Converter codes are 12 bits (R76); a MOVE is not a MOVE_JACK and a STOP not a STOP_ALL; an UNKNOWN_REQUEST is one and
its payload fits a frame (TABLE 13-1). Every other command is well formed. -/
def Instr.wellFormed : Instr → Bool
  | .conversionScan tx ty vbat => decide (tx ≤ 4095 ∧ ty ≤ 4095 ∧ vbat ≤ 4095)
  | .move _ subject _ => !isJackByte subject
  | .stop _ subject => subject != 0xFF#8
  | .unknownRequest kind tag payload => isUnknown kind tag payload && decide (payload.length ≤ 58)
  | .powerOn _ | .resetnAssert | .resetnRelease _ | .startUpRun | .nodeCommandSlot _ | .slotIntake _ _
  | .supplyStateChange | .attitudeSample | .speedWindowEnd _ | .attendanceExpiry _ | .grantWaitExpiry _
  | .overdrawExpiry | .rackWindowEnd _ | .endWaitExpiry _ | .contactTimeout | .settleTimeout | .liftPassTimeout
  | .supportTimeout | .stowStepTimeout | .inputAccept _ _ | .windEdge _ | .calmExpiry | .holdOffExpiry
  | .panelFrameReceive | .panelGapTimeout | .transmitDone | .linkSilenceTimeout | .commitComplete _ | .commitTimeout
  | .softReset | .panelByteReceive _ | .powerLoss | .status _ | .channel _ _ | .nodes _ _ | .inputs _
  | .moveJack _ _ _ | .stopAll _ | .level _ _ | .levelAbort _ | .levelResult _ _ | .reference _ | .stow _
  | .stowResult _ | .guardReset _ | .paramGet _ _ _ | .paramSet _ _ _ _ | .commit _ | .faults _ _
  | .faultClear _ _ _ | .reset _ => true

end Sys2Proof
end

