-- ==== Sys2Proof/Certificates/Slice0/Obligations.lean ====
section
/-! DEFINITION. The statements for the provers. Each docstring names the rules of spec/ the statement rests on; a clause that
rests on a choice of the model names its log entry. -/

open Sys2Proof Sys2Proof.Machine

/-! ## The queue and the resets (R24, R182, R186 to R190) -/

/-- The step takes the command at the front of the queue and runs it on the state with the queue's rest; an empty queue idles
(the model's own queue, log entry 1). -/
def Obligations.StepRunsFront : Prop :=
  (∀ (c : Instr) (rest : List Instr) (s : State), s.pending = c :: rest → step s = exec c { s with pending := rest }) ∧
  ∀ s : State, s.pending = [] → step s = .next s

/-- The model's choice: every command answers some next state, in every state and with every operand, and leaves the queue of
waiting commands alone. The queue is log entry 1, a timer's row out of its time log entry 4, a command to a part that is stopped
log entry 11. What the next state is, the other statements say. -/
def Obligations.EveryCommandCompletes : Prop :=
  ∀ (c : Instr) (s : State), ∃ t, exec c s = .next t ∧ t.pending = s.pending

/-- Before a power-on reset ends and while RESETn is held low, a command other than the resets changes nothing (R24; log entry
11). -/
def Obligations.StoppedPartIgnores : Prop :=
  ∀ (c : Instr) (s : State), s.mode ≠ .running → (∀ k, c ≠ .powerOn k) → (∀ k, c ≠ .resetnRelease k) →
    c ≠ .resetnAssert → c ≠ .powerLoss → exec c s = .next s

/-- POWER_ON, and RESETN_RELEASE with RESETn held low, start the part from the straps and the image (R3, R33, R182, R186, R188).
POWER_ON does so in every mode (the model's choice, log entry 11), and where the spec gives no value after a reset the part
holds that of log entry 7, and of log entry 68 for the level result record. -/
def Obligations.ResetsStartThePart : Prop :=
  ∀ (straps : BitVec 4) (s : State),
    (∃ t, exec (.powerOn straps) s = .next t ∧ Started s.keptImage .power straps t ∧ t.freeCount = s.freeCount) ∧
    (s.mode = .lineReset →
      ∃ t, exec (.resetnRelease straps) s = .next t ∧ Started s.keptImage .line straps t ∧ t.freeCount = s.freeCount)

/-- RESETN_ASSERT and POWER_LOSS stop the part: every line is idle, and of the store the image is left, with a bad CRC when a
commit was in flight (R24, R187; the values are the model's choice, log entries 29 and 68). -/
def Obligations.ResetsStopThePart : Prop :=
  ∀ s : State,
    (∃ t, exec .powerLoss s = .next t ∧ t = State.blank .off .power t.sst.image s.pending s.freeCount ∧
      t.sst.image.params = s.sst.image.params ∧ t.sst.image.layout = s.sst.image.layout ∧
      t.sst.image.crcGood = (s.sst.image.crcGood && s.sst.commit.isNone)) ∧
    (s.mode ≠ .off →
      ∃ t, exec .resetnAssert s = .next t ∧ t = State.blank .lineReset .line t.sst.image s.pending s.freeCount ∧
        t.sst.image.params = s.sst.image.params ∧ t.sst.image.layout = s.sst.image.layout ∧
        t.sst.image.crcGood = (s.sst.image.crcGood && s.sst.commit.isNone))

/-- START_UP_RUN acts at the frame end when no node is DISCOVERING or frame 199 has come: RUN, the RESTARTED notice and the silence timer,
and TRAVEL by its rule; nothing else changes (R180, R188). -/
def Obligations.StartUpRunEntersRun : Prop :=
  ∀ s : State, Steady s → s.frameOver = true → s.parkReleased = false → s.sst.phase = .discover → s.wgd.retract ≠ .deferred →
    ((∀ n, (s.node n).state ≠ .discovering) ∨ 199 ≤ s.frame.toNat) →
    exec .startUpRun s = .next (finish (({ s with
      sst := { s.sst with phase := .run }
      pli := { s.pli with silenceStart := some s.frame } } : State).offer
        (.restarted s.pli.restartCause s.sst.layoutCode s.sst.outcome)))

/-- SOFT_RESET, once the RESET's reply is sent and no commit is in flight: work, sequences, guard, faults, locks and the link go
back to their reset values; what R190 keeps is kept. The conditions that still stand are listed again in a new list, the
protection conditions in channel order, NODE_LOST in node order, the supply state's fault, TILT_RANGE, and the locks of
OVERCURRENT and OPEN_LOAD are set again (R24, R40, R87, R163, R168, R189, R190). The order of the new list is the model's choice
(log entry 52), and so is which fields of the level result record are 0 and which absent (log entry 68). -/
def Obligations.SoftResetActs : Prop :=
  ∀ s : State, s.mode = .running → s.pli.resetPending = true → s.pli.slot = none → s.sst.commit = none →
    let unread := fun n => (s.node n).state = .mismatch
    let lockOf := fun c => if s.populated c then (match (s.chan c).cond with
      | .overcurrent => some FaultKind.overcurrent
      | .openLoad => some .openLoad
      | _ => none) else none
    let standing : List (FaultKind × Subject) :=
      ((allChans.filter s.populated).filterMap fun c => (condFault (s.chan c).cond).map fun k => (k, .chan c))
        ++ ((allNodes.filter fun n => decide ((s.node n).state = .lost ∨ (s.node n).state = .discovering ∨ unread n)).map
            fun n => (.nodeLost, .node n))
        ++ (match s.sgu.supply with
            | .normal => []
            | .low => [(.supplyLow, .coach)]
            | .high => [(.supplyHigh, .coach)]
            | .cutoff => [(.supplyCutoff, .coach)])
        ++ (if s.atu.record.state = .invalid then [(.tiltRange, .coach)] else [])
    ∃ t, exec .softReset s = .next t ∧
      t.mode = .running ∧ t.frame = s.frame ∧ t.restartFrame = true ∧ t.sst.phase = .load ∧
      (∀ u, t.unit u = .reset) ∧ t.sgu.queue = [] ∧ t.sgu.grants = [] ∧ t.sgu.pump = false ∧
      t.lvs = { seq := .reset, result := .reset } ∧ t.wgd = .reset ∧ t.atu.capture = none ∧
      t.ciu.stow = .reset ∧ t.ciu.result = .reset ∧ t.ciu.alarm = false ∧ t.ciu.travel = false ∧
      (∀ c, (t.chan c).motion = none ∧ (t.chan c).kind = (s.chan c).kind ∧ (t.chan c).position = (s.chan c).position ∧
        (t.chan c).cond = (s.chan c).cond ∧ (t.chan c).latch = (s.chan c).latch ∧ (t.chan c).lock = lockOf c ∧
        (t.chan c).state = (if s.populated c then (if (lockOf c).isSome then .faulted else .idle) else .disabled)) ∧
      (∀ c, ¬(unread (nodeOf c) ∧ (s.chan c).isMotor = true) →
        (t.chan c).known = (s.chan c).known ∧ (t.chan c).extendEnd = (s.chan c).extendEnd) ∧
      (∀ c, unread (nodeOf c) → (s.chan c).isMotor = true → (t.chan c).known = false) ∧
      (∀ n, ¬unread n → (t.node n).state = (s.node n).state ∧ (t.node n).desc = (s.node n).desc) ∧
      (∀ n, unread n → (t.node n).state = .discovering ∧ (t.node n).desc = none) ∧
      t.sst.layoutCode = s.sst.layoutCode ∧ t.sst.params = s.sst.params ∧ t.sst.image = s.sst.image ∧
      t.sgu.supply = s.sgu.supply ∧ t.sgu.budget = s.sgu.budget ∧
      t.ciu.ign = { s.ciu.ign with changed := false } ∧ t.ciu.park = { s.ciu.park with changed := false } ∧
      t.ciu.eng = { s.ciu.eng with changed := false } ∧
      t.pli.holding = [] ∧ t.pli.slot = none ∧ t.pli.resetPending = false ∧ t.pli.resetCause = .soft ∧
      t.pli.crcErrors = s.pli.crcErrors ∧ t.pli.lengthErrors = s.pli.lengthErrors ∧
      t.pli.brokenFrames = s.pli.brokenFrames ∧ t.pli.overruns = s.pli.overruns ∧
      t.flt = standing.foldl (fun f e => (f.raise e.1 e.2 s.frame).1) .reset ∧
      (standing = [] → t.pli.notices = [] ∧ t.pli.seq = 0)
/-! ## Frames and the node link (chapters 2, 3) -/

/-- While the part runs, only the start of slot 0 moves the frame number: frame 0 of a power-on reset or a release of RESETn
stands through its first slot 0, the first frame after a soft reset is frame 0, and each later frame has the next number. The
frame end lasts from the intake of slot 7 to the next slot 0, and before it no timer's row does anything (R1, R24; log entries 3
and 49). -/
def Obligations.FrameNumbersCountFrames : Prop :=
  (∀ (c : Instr) (s t : State), s.mode = .running → exec c s = .next t → t.mode = .running →
    (c = .nodeCommandSlot 0 → t.frameOver = false ∧
      t.frame = if s.frameFresh then s.frame else if s.restartFrame then 0 else s.frame + 1) ∧
    (c ≠ .nodeCommandSlot 0 → (∀ k, c ≠ .powerOn k) → t.frame = s.frame ∧
      ((∃ r, c = .slotIntake 7 r) → t.frameOver = true) ∧ ((∀ r, c ≠ .slotIntake 7 r) → t.frameOver = s.frameOver))) ∧
  ∀ (c : Instr) (s : State), Quiet s → s.frameOver = false →
    (c ∈ [.startUpRun, .overdrawExpiry, .contactTimeout, .settleTimeout, .liftPassTimeout, .supportTimeout, .stowStepTimeout,
        .calmExpiry, .holdOffExpiry, .linkSilenceTimeout, .commitTimeout] ∨ (∃ d, c = .speedWindowEnd d) ∨
      (∃ u, c = .attendanceExpiry u ∨ c = .grantWaitExpiry u) ∨ ∃ r, c = .rackWindowEnd r ∨ c = .endWaitExpiry r) →
    exec c s = .next s.sending

/-- While the part runs, no command but a reset changes the layout code or what the layout populates (R3, R182, R190). -/
def Obligations.LayoutStands : Prop :=
  ∀ (c : Instr) (s t : State), s.mode = .running → exec c s = .next t → t.mode = .running → (∀ k, c ≠ .powerOn k) →
    t.sst.layoutCode = s.sst.layoutCode ∧
    (∀ d, (t.chan d).kind = (s.chan d).kind ∧ (t.chan d).role = (s.chan d).role) ∧
    ∀ r, (t.room r).type = (s.room r).type

/-- NODE_COMMAND_SLOT: the image in force goes out with its address and CRC-8 and NLDE is asserted; an ABSENT address is sent
nothing (R25, R26). Slot 0 starts the frame first: the frame number is the next one, or stands in the first frame after a
power-on reset or a release of RESETn, or is 0 after a soft reset, which also runs LOAD and starts the idle windows and the
accumulators anew; every descriptor read takes its step, START and the frame after ABORT to a first request, a failure to ABORT;
then slot 0 sends node 0's image (R24, R36, R37, R38, R43, R77, R188; log entry 3). -/
def Obligations.SlotSendsTheImage : Prop :=
  (∀ (n : Fin 8) (s : State), n ≠ 0 → Quiet s →
    exec (.nodeCommandSlot n) s = .next (State.sending { s with nlc := { s.nlc with
      slot := some n
      nlde := decide ((s.node n).state ≠ .absent)
      sent := if (s.node n).state = .absent then none else some (commandBytes n (s.node n).image) } })) ∧
  (∀ s : State, Steady s → (s.restartFrame = false ∨ s.pli.holding = []) →
    exec (.nodeCommandSlot 0) s = .next (finish (s.frameStart.openSlot 0))) ∧
  ∀ s : State, Steady s → (s.restartFrame = false ∨ s.pli.holding = []) → ∃ t, exec (.nodeCommandSlot 0) s = .next t ∧
    let afresh := s.frameFresh = false ∧ s.restartFrame = true
    t.frame = (if s.frameFresh then s.frame else if s.restartFrame then 0 else s.frame + 1) ∧
    t.frameOver = false ∧ t.frameFresh = false ∧ t.sst.phase = (if afresh then .discover else s.sst.phase) ∧
    (∀ n, let x := s.node n
      let request := { x with cursor := some 0, scratch := [], xfer := .none }
      t.node n = { (match x.xfer with
        | .none => x
        | .startNext => request
        | .abortNext => { x with xfer := .abort }
        | .abort => request) with image := (t.node n).image }) ∧
    (∀ n, (s.node n).state = .discovering → (s.node n).xfer = .startNext ∨ (s.node n).xfer = .abort →
      (t.node n).image = { CmdImage.off with ctl := .reqDesc, data := 0 }) ∧
    (∀ n, (s.node n).state = .discovering → (s.node n).xfer = .abortNext → (t.node n).image = { CmdImage.off with ctl := .abort }) ∧
    (∀ n k, (s.node n).state = .discovering → (s.node n).xfer = .none → (s.node n).cursor = some k →
      (t.node n).image = { CmdImage.off with ctl := .reqDesc, data := k }) ∧
    t.nlc.slot = some 0 ∧ t.nlc.nlde = decide ((s.node 0).state ≠ .absent) ∧
    t.nlc.sent = (if (s.node 0).state = .absent then none else some (commandBytes 0 (t.node 0).image)) ∧
    (∀ c, t.chan c = if afresh then { s.chan c with idleStart := 0, idlePos := (s.chan c).position } else s.chan c) ∧
    (afresh → t.atu.accX = 0 ∧ t.atu.accY = 0 ∧ t.atu.blockCount = 0) ∧ t.atu.record = s.atu.record ∧
    (∀ u, t.unit u = s.unit u) ∧ GrantsStand s t ∧ t.flt = s.flt ∧ t.lvs = s.lvs ∧ t.wgd = s.wgd ∧ t.ciu.stow = s.ciu.stow

/-- SLOT_INTAKE of a VALID frame that changes no condition and no latch, from a READY node of a part at rest: positions,
currents and pressures are delivered, the candidates and misses are cleared, and nothing else of the channels, units, faults
and other nodes changes (R29, R30, R31, R32, R34). One output that reports more: its jack's latch is set at contact-threshold and
cleared below it by contact-hysteresis, which raises GROUND_LOST (R53, R54); a new condition waits as a candidate, and the same
code again validates it: LIMIT_RET re-homes the channel, LIMIT_EXT is a motor's extend end with its travel test, a protection code
raises its fault, and a LOCK locks (R32, R49, R50, R47, R56). -/
def Obligations.ValidSlotIsDelivered : Prop :=
  (∀ (n : Fin 8) (reply : SlotReply) (f : Status) (s : State), Resting s → (s.node n).state = .ready →
    statusOf n reply = some f →
    (s.populated (chanA n) = true → PlainReport s (chanA n) f.condA f.pressureA) →
    (s.populated (chanB n) = true → PlainReport s (chanB n) f.condB f.pressureB) →
    ∃ t, exec (.slotIntake n reply) s = .next t ∧
      (s.populated (chanA n) = true → t.chan (chanA n) = s.intakeChan (chanA n) f.countA f.currentA f.pressureA ∧
        (t.node n).outA = { lastCount := some f.countA, candidate := none }) ∧
      (s.populated (chanB n) = true → t.chan (chanB n) = s.intakeChan (chanB n) f.countB f.currentB f.pressureB ∧
        (t.node n).outB = { lastCount := some f.countB, candidate := none }) ∧
      (∀ c, c ∉ s.nodeChans n → t.chan c = s.chan c) ∧
      (t.node n).state = .ready ∧ (t.node n).misses = 0 ∧ (t.node n).missTotal = (s.node n).missTotal ∧
      (∀ m, m ≠ n → (t.node m).state = (s.node m).state ∧ (t.node m).misses = (s.node m).misses ∧
        (t.node m).desc = (s.node m).desc) ∧
      (∀ u, t.unit u = s.unit u) ∧ t.flt = s.flt ∧ t.nlc.slot = none ∧ t.nlc.nlde = false ∧
      SlotAside n s t ∧ GrantsStand s t ∧ t.lvs = s.lvs ∧ t.wgd = s.wgd ∧ t.ciu.stow = s.ciu.stow ∧ t.ciu.park = s.ciu.park) ∧
  ∀ (n : Fin 8) (b : Bool) (reply : SlotReply) (f : Status) (s : State), Resting s → (s.node n).state = .ready →
    statusOf n reply = some f →
    let c := if b then chanB n else chanA n
    let k := if b then f.condB else f.condA
    let pressure := if b then f.pressureB else f.pressureA
    let x := s.chan c
    let jack := s.jackPar c
    let latch := if x.latch then decide ((jack.contactThreshold : Int) - jack.contactHysteresis ≤ pressure)
      else decide (jack.contactThreshold ≤ pressure)
    let y : Channel := { s.intakeChan c (if b then f.countB else f.countA) (if b then f.currentB else f.currentA) pressure with
      latch := if x.isJack then latch else x.latch }
    let raised := fun (g : Flt) (k : FaultKind) => (g.raise k (.chan c) s.frame).1
    let flt := if x.isJack = true ∧ x.latch = true ∧ latch = false then raised s.flt .groundLost else s.flt
    let locked := fun k : FaultKind => ({ y with
      lock := some k, state := if x.state = .disabled then ChanState.disabled else .faulted } : Channel)
    let off := x.isMotor = true ∧ x.known = true ∧ (s.motorPar c).endTolerance < (y.position - ((s.motorPar c).travel : Int)).natAbs
    s.populated c = true → (x.cond = .limitRet → x.known = true) →
    (s.populated (if b then chanA n else chanB n) = true → PlainReport s (if b then chanA n else chanB n)
      (if b then f.condA else f.condB) (if b then f.pressureA else f.pressureB)) →
    ∃ t, exec (.slotIntake n reply) s = .next t ∧
      (∀ d, d ∉ s.nodeChans n → t.chan d = s.chan d) ∧ (∀ u, t.unit u = s.unit u) ∧ SlotAside n s t ∧ GrantsStand s t ∧
      t.lvs = s.lvs ∧ t.wgd = s.wgd ∧ t.ciu.stow = s.ciu.stow ∧ t.ciu.park = s.ciu.park ∧
      (k = x.cond → t.chan c = y ∧ t.flt = flt ∧ (t.outRec c).candidate = none) ∧
      (k ≠ x.cond → (s.outRec c).candidate ≠ some k → t.chan c = y ∧ t.flt = flt ∧ (t.outRec c).candidate = some k) ∧
      (k ≠ x.cond → (s.outRec c).candidate = some k → (t.outRec c).candidate = none ∧
        (k = .normal → t.chan c = { y with cond := k } ∧ t.flt = flt) ∧
        (k = .limitRet → t.chan c = { y with cond := k, position := 0, known := true, extendEnd := false } ∧ t.flt = flt) ∧
        (k = .limitExt → t.chan c = { y with cond := k, extendEnd := y.extendEnd || x.isMotor } ∧
          t.flt = if off then raised flt .travelMismatch else flt) ∧
        (k = .overcurrent → t.chan c = { locked .overcurrent with cond := k } ∧ t.flt = raised flt .overcurrent) ∧
        (k = .openLoad → t.chan c = { locked .openLoad with cond := k } ∧ t.flt = raised flt .openLoad) ∧
        (k = .overtemp → t.chan c = { y with cond := k } ∧ t.flt = raised flt .overtemp))

/-- SLOT_INTAKE without a VALID frame is a miss: the counts move, the candidates go, and no field is delivered (R29, R32, R34). -/
def Obligations.MissIsCounted : Prop :=
  ∀ (n : Fin 8) (reply : SlotReply) (s : State), Quiet s → statusOf n reply = none → (s.node n).state ≠ .absent →
    ((s.node n).state = .ready → (s.node n).misses < 2) → (s.node n).state ≠ .discovering →
    ∃ t, exec (.slotIntake n reply) s = .next t ∧
      t.node n = { (s.node n).dropCandidates with
        misses := min 3 ((s.node n).misses + 1), good := 0, missTotal := min 65535 ((s.node n).missTotal + 1) } ∧
      (∀ m, m ≠ n → t.node m = s.node m) ∧ (∀ c, t.chan c = s.chan c) ∧ (∀ u, t.unit u = s.unit u) ∧
      t.flt = s.flt ∧ SlotAside n s t ∧ GrantsStand s t ∧ t.lvs = s.lvs ∧ t.wgd = s.wgd ∧ t.ciu.stow = s.ciu.stow ∧ t.ciu.park = s.ciu.park

/-- The third miss of a READY node of a part at rest makes it LOST: its image is OFF, its channels' currents are 0, NODE_LOST is
listed, and positions, descriptor and last counts are kept (R35). Two VALID slots in a row bring it back to DISCOVERING: a new
read begins in the next frame, and its motor channels' positions are not known (R34, R36); those of a channel on LIMIT_RET too,
because the slot is counted after its fields are delivered, which is the model's reading (log entry 20). In the JACKS step of a
stow the loss of a node that serves a jack ends the work of JACKS with FAULT (R35, R162, TABLE 10-3). Where the step moves a
jack of the node the stow is FAILED with NODE_LOST (R156, R157); where it moves none, the fault does not fail the step (R156),
which goes on, JACKS still awaited: that it waits so for its time limit, and that a jack whose motion has ended is not one the
step moves, is the model's reading (log entry 61). The loss of a node that serves no jack ends nothing. -/
def Obligations.ThirdMissLosesTheNode : Prop :=
  (∀ (n : Fin 8) (reply : SlotReply) (s : State), Resting s → statusOf n reply = none → (s.node n).state = .ready →
    (s.node n).misses = 2 →
    ∃ t, exec (.slotIntake n reply) s = .next t ∧
      (t.node n).state = .lost ∧ (t.node n).misses = 3 ∧ (t.node n).image = .off ∧ (t.node n).cursor = none ∧
      (t.node n).scratch = [] ∧ (t.node n).retry = 0 ∧ (t.node n).desc = (s.node n).desc ∧
      (t.node n).outA.lastCount = (s.node n).outA.lastCount ∧ (t.node n).outB.lastCount = (s.node n).outB.lastCount ∧
      (∀ c, c ∈ s.nodeChans n → t.chan c = { s.chan c with current := 0 }) ∧
      (∀ c, c ∉ s.nodeChans n → t.chan c = s.chan c) ∧
      t.flt = (s.flt.raise .nodeLost (.node n) s.frame).1 ∧
      (∀ m, m ≠ n → t.node m = { s.node m with image := (t.node m).image }) ∧ (∀ u, t.unit u = s.unit u) ∧
      SlotAside n s t ∧ GrantsStand s t ∧ t.lvs = s.lvs ∧ t.wgd = s.wgd ∧ t.ciu.stow = s.ciu.stow ∧ t.ciu.park = s.ciu.park) ∧
  (∀ (n : Fin 8) (reply : SlotReply) (f : Status) (s : State), s.RestingBut .nodeLost (.node n) → (s.node n).state = .lost →
    statusOf n reply = some f → (s.node n).image = .off →
    (s.populated (chanA n) = true → PlainReport s (chanA n) f.condA f.pressureA) →
    (s.populated (chanB n) = true → PlainReport s (chanB n) f.condB f.pressureB) →
    let delivered := fun c : Fin 16 => if c = chanA n then s.intakeChan c f.countA f.currentA f.pressureA
      else s.intakeChan c f.countB f.currentB f.pressureB
    let outA := if s.populated (chanA n) then { lastCount := some f.countA, candidate := none } else (s.node n).outA
    let outB := if s.populated (chanB n) then { lastCount := some f.countB, candidate := none } else (s.node n).outB
    ∃ t, exec (.slotIntake n reply) s = .next t ∧
      ((s.node n).good = 0 → t.node n = { s.node n with misses := 0, good := 1, outA := outA, outB := outB } ∧
        ∀ c ∈ s.nodeChans n, t.chan c = delivered c) ∧
      (1 ≤ (s.node n).good → t.node n = { s.node n with
          state := .discovering, misses := 0, good := 0, retry := 0, cursor := none, scratch := [], xfer := .startNext
          outA := outA, outB := outB } ∧
        ∀ c ∈ s.nodeChans n, t.chan c = if (s.chan c).isMotor then { delivered c with known := false, extendEnd := false }
          else delivered c) ∧
      (∀ m, m ≠ n → t.node m = { s.node m with image := (t.node m).image }) ∧ (∀ c, c ∉ s.nodeChans n → t.chan c = s.chan c) ∧
      (∀ u, t.unit u = s.unit u) ∧ t.flt = s.flt ∧ SlotAside n s t ∧ GrantsStand s t ∧ t.lvs = s.lvs ∧ t.wgd = s.wgd ∧
      t.ciu.stow = s.ciu.stow ∧ t.ciu.park = s.ciu.park) ∧
  ∀ (n : Fin 8) (reply : SlotReply) (s : State), Steady s → statusOf n reply = none → (s.node n).state = .ready →
    (s.node n).misses = 2 → s.lvs.seq.state = .idle → s.ciu.stow.state = .jacks → .jacks ∈ s.ciu.stow.awaited →
    (s.unit .jacks).state ≠ .idle → (s.unit .jacks).origin = some .stow → s.queueOnly .jacks →
    (∀ u, u ≠ .jacks → (s.unit u).state = .idle) →
    let q := s.ciu.stow
    let moved := ∃ c ∈ s.unitChans .jacks, nodeOf c = n ∧ ((s.chan c).motion ≠ none ∨ ∃ p ∈ (s.unit .jacks).pending, p.chan = c)
    let served := ∃ c ∈ s.unitChans .jacks, nodeOf c = n
    let dark := fun c : Fin 16 => if c ∈ s.nodeChans n then { s.chan c with current := 0 } else s.chan c
    ∃ t, exec (.slotIntake n reply) s = .next t ∧ (t.node n).state = .lost ∧ (t.node n).misses = 3 ∧
      t.flt = (s.flt.raise .nodeLost (.node n) s.frame).1 ∧
      (∀ m, m ≠ n → t.node m = { s.node m with image := (t.node m).image }) ∧
      (∀ u, u ≠ .jacks → t.unit u = s.unit u) ∧ (∀ c, c ∉ jackChans → t.chan c = dark c) ∧
      SlotAside n s t ∧ t.lvs = s.lvs ∧ t.wgd = s.wgd ∧ t.ciu.park = s.ciu.park ∧
      (¬served → t.unit .jacks = s.unit .jacks ∧ (∀ c ∈ jackChans, t.chan c = dark c) ∧ GrantsStand s t) ∧
      (served → t.unit .jacks = .reset ∧ (∀ c ∈ jackChans, t.chan c = ((dark c).endMotion s.frame).unwait) ∧
        t.sgu.queue = [] ∧ (t.sgu.grants = s.sgu.grants.filter fun e => decide (e.unit ≠ .jacks))) ∧
      (¬moved → t.ciu.stow = q ∧ t.ciu.result = s.ciu.result) ∧
      (served → ¬moved → t.pli = ((s.raised .nodeLost (.node n)).offer (.motionEnd .jacks .fault)).transmitted) ∧
      (moved → t.ciu.stow = .reset ∧
        t.ciu.result = { outcome := .failed, trigger := q.trigger, step := some .jacks, cause := .fault .nodeLost
                         subject := some (.node n) })

/-- The last byte of a descriptor whose sum is good decides: a descriptor that passes every test makes the node READY; the
first failing test makes it MISMATCH with that cause, its channels DISABLED and DESC_MISMATCH listed. The descriptor is held
either way, and NODE_LOST of the node, where it stands, ends (R36, R37, R39, R167). An expected byte before the last joins the
read; any other message, a bad sum or a miss fails the attempt: the next frame carries ABORT, and at the third failure the node is
MISMATCH with cause TRANSFER (R37, R38). That NODE_LOST ends before the raise is the model's choice (log entry 53). -/
def Obligations.DescriptorIsJudged : Prop :=
  (∀ (n : Fin 8) (reply : SlotReply) (f : Status) (s : State), (Resting s ∨ s.RestingBut .nodeLost (.node n)) →
    (s.node n).state = .discovering →
    (s.node n).xfer = .none → (s.node n).cursor = some 9 → (s.node n).scratch.length = 9 →
    statusOf n reply = some f → f.ctl = 3 → descSum ((s.node n).scratch ++ [f.data]) = 0 →
    (s.populated (chanA n) = true → PlainReport s (chanA n) f.condA f.pressureA) →
    (s.populated (chanB n) = true → PlainReport s (chanB n) f.condB f.pressureB) →
    ∃ t, exec (.slotIntake n reply) s = .next t ∧
      (t.node n).desc = some ((s.node n).scratch ++ [f.data]) ∧ (t.node n).cursor = none ∧ (t.node n).scratch = [] ∧
      (∀ m, m ≠ n → t.node m = { s.node m with image := (t.node m).image }) ∧ (∀ c, c ∉ s.nodeChans n → t.chan c = s.chan c) ∧
      (∀ u, t.unit u = s.unit u) ∧ SlotAside n s t ∧ GrantsStand s t ∧ t.lvs = s.lvs ∧ t.wgd = s.wgd ∧ t.ciu.stow = s.ciu.stow ∧ t.ciu.park = s.ciu.park ∧
      (s.descFault n ((s.node n).scratch ++ [f.data]) = none → (t.node n).state = .ready ∧ (t.node n).retry = 0 ∧
        t.flt = s.flt.ended .nodeLost (.node n)) ∧
      ∀ cause, s.descFault n ((s.node n).scratch ++ [f.data]) = some cause →
        (t.node n).state = .mismatch ∧ (t.node n).cause = some cause ∧ (t.node n).image = .off ∧
        (∀ c, c ∈ s.nodeChans n → (t.chan c).state = .disabled) ∧
        t.flt = ((s.flt.ended .nodeLost (.node n)).raise .descMismatch (.node n) s.frame).1) ∧
  ∀ (n : Fin 8) (reply : SlotReply) (k : Nat) (s : State), (Resting s ∨ s.RestingBut .nodeLost (.node n)) →
    (s.node n).state = .discovering → (s.node n).xfer = .none → (s.node n).cursor = some k → k ≤ 9 →
    (∀ f, statusOf n reply = some f → (s.populated (chanA n) = true → PlainReport s (chanA n) f.condA f.pressureA) ∧
      (s.populated (chanB n) = true → PlainReport s (chanB n) f.condB f.pressureB)) →
    (statusOf n reply = none → (s.node n).misses < 2) →
    let expected : Byte := if k = 0 then 1 else if k = 9 then 3 else 2
    let joins := ∃ f, statusOf n reply = some f ∧ f.ctl = expected ∧ k < 9
    let fails := statusOf n reply = none ∨ ∃ f, statusOf n reply = some f ∧
      (f.ctl ≠ expected ∨ (k = 9 ∧ descSum ((s.node n).scratch ++ [f.data]) ≠ 0))
    ∃ t, exec (.slotIntake n reply) s = .next t ∧
      (joins → ∀ f, statusOf n reply = some f → (t.node n).state = .discovering ∧ (t.node n).cursor = some (k + 1) ∧
        (t.node n).scratch = (s.node n).scratch ++ [f.data] ∧ (t.node n).retry = (s.node n).retry ∧ t.flt = s.flt) ∧
      (fails → (s.node n).retry < 2 → (t.node n).state = .discovering ∧ (t.node n).retry = (s.node n).retry + 1 ∧
        (t.node n).xfer = .abortNext ∧ (t.node n).cursor = none ∧ (t.node n).scratch = [] ∧ t.flt = s.flt) ∧
      (fails → 2 ≤ (s.node n).retry → (t.node n).state = .mismatch ∧ (t.node n).cause = some .transfer ∧
        (t.node n).desc = (s.node n).desc ∧ (∀ c, c ∈ s.nodeChans n → (t.chan c).state = .disabled) ∧
        t.flt = ((s.flt.ended .nodeLost (.node n)).raise .descMismatch (.node n) s.frame).1) ∧
      (∀ m, m ≠ n → t.node m = { s.node m with image := (t.node m).image }) ∧ (∀ c, c ∉ s.nodeChans n → t.chan c = s.chan c) ∧
      (∀ u, t.unit u = s.unit u) ∧ SlotAside n s t ∧ GrantsStand s t ∧ t.lvs = s.lvs ∧ t.wgd = s.wgd ∧
      t.ciu.stow = s.ciu.stow ∧ t.ciu.park = s.ciu.park

/-! ## Measurements: motion, supply, attitude (chapters 3, 4, 5) -/

/-- A window of a channel without a motion record has run: its speed is the change × 200 by the frames it covered, rounded by
R2, and the next window starts where it ended. A window that has not run is left as it is (R42, R43). -/
def Obligations.IdleWindowGivesSpeed : Prop :=
  ∀ (c : Fin 16) (s : State), Steady s → s.frameOver = true → s.populated c = true → (s.chan c).motion = none →
    (s.par.speedWindow ≤ elapsed s.frame (s.chan c).idleStart →
      exec (.speedWindowEnd c) s = .next (finish (s.setChan c { s.chan c with
        speed := roundDiv (((s.chan c).position - (s.chan c).idlePos) * 200) (elapsed s.frame (s.chan c).idleStart)
        idleStart := s.frame, idlePos := (s.chan c).position }))) ∧
    (elapsed s.frame (s.chan c).idleStart < s.par.speedWindow → exec (.speedWindowEnd c) s = .next (finish s))

/-- A window of a channel with a motion record has run and the stall condition does not hold at a second window in a row:
the speed is that of the window, and the windows in a row in which a motor's stall condition held, once its grace period is
over and while it has not arrived, are counted (R42, R44, R45, R46). -/
def Obligations.MovingWindowGivesSpeed : Prop :=
  ∀ (c : Fin 16) (m : Motion) (s : State), Steady s → s.frameOver = true → s.populated c = true → (s.chan c).motion = some m →
    s.par.speedWindow ≤ elapsed s.frame m.winStart → m.stallCount ≤ 1 →
    let speed := roundDiv (((s.chan c).position - m.winPos) * 200) (elapsed s.frame m.winStart)
    let judged := (s.chan c).isMotor = true ∧ m.arrived = false ∧ reached s.frame m.graceEnd = true
    let holds := speed.natAbs < (s.motorPar c).stallFloor ∧ 2 * (s.motorPar c).stallCurrent ≤ (s.chan c).current
    ¬(judged ∧ holds ∧ m.stallCount = 1) →
    exec (.speedWindowEnd c) s = .next (finish (s.setChan c { s.chan c with
      speed := speed
      motion := some { m with
        winStart := s.frame, winPos := (s.chan c).position
        stallCount := if judged then (if holds then m.stallCount + 1 else 0) else m.stallCount } }))

/-- The second window in a row with the stall condition, away from the end the channel drives to, or in a retract with the
position not known and no LIMIT_RET, is a STALL: it is raised with the channel as subject and ends the work of its USER unit
with FAULT; at that end, the only motor of its USER unit is re-homed by a retract, or has reached its extend end, with the
travel test, and the work ends with END (R45, R46, R47, R48, R49, R162). A VALID intake of a moving motor channel that is its
unit's only one, with no AWNING_EXPOSED present and no jack that retracts: a retract that validates LIMIT_RET re-homes and ends
with END; an extend that validates LIMIT_EXT is at its extend end, has its travel test and ends with END; a protection code
raises its fault and ends the work with FAULT, under a lock for OVERCURRENT and OPEN_LOAD; a current outside the running band
after the grace period is counted, and past drag-limit raises DRAG once (R20, R50, R55, R56, R163). TRAVEL_MISMATCH comes before
the end of its motion by the model's choice (log entry 53); the intake of slot 7, the awning's, ends the frame and takes the
frame end's rack and overdraw counts after its own event (log entry 3). -/
def Obligations.StallEndsTheWork : Prop :=
  (∀ (c : Fin 16) (u : UnitId) (m : Motion) (s : State), Steady s → s.frameOver = true → c ∈ s.unitChans u → (s.chan c).isMotor = true →
    (s.unit u).state ≠ .idle → (s.unit u).origin = some .user → s.queueOnly u → (s.chan c).motion = some m →
    s.par.speedWindow ≤ elapsed s.frame m.winStart → m.arrived = false → reached s.frame m.graceEnd = true →
    m.stallCount = 1 →
    (m.dir = .retract → if (s.chan c).known then ((s.motorPar c).endBand : Int) < (s.chan c).position
      else (s.chan c).cond ≠ .limitRet) →
    (m.dir = .extend → (s.chan c).known = true ∧ (s.chan c).position < (s.motorPar c).travel - (s.motorPar c).endBand) →
    let speed := roundDiv (((s.chan c).position - m.winPos) * 200) (elapsed s.frame m.winStart)
    speed.natAbs < (s.motorPar c).stallFloor → 2 * (s.motorPar c).stallCurrent ≤ (s.chan c).current →
    exec (.speedWindowEnd c) s = .next (finish (((s.setChan c { s.chan c with
      speed := speed
      motion := some { m with winStart := s.frame, winPos := (s.chan c).position, stallCount := 2 } }).raised
        .stall (.chan c)).endUnit u .fault))) ∧
  (∀ (c : Fin 16) (u : UnitId) (m : Motion) (s : State), Steady s → s.frameOver = true → s.unitChans u = [c] →
    (s.chan c).isMotor = true → (∀ r, u = .room r → (s.room r).type ≠ .twin) → (s.unit u).state ≠ .idle →
    (s.unit u).origin = some .user → s.queueOnly u → (s.chan c).motion = some m → m.origin = .user →
    s.par.speedWindow ≤ elapsed s.frame m.winStart → m.arrived = false → reached s.frame m.graceEnd = true → m.stallCount = 1 →
    (∀ e ∈ s.flt.entries, e.kind = .awningExposed → e.present = false) →
    let x := s.chan c
    let p := s.motorPar c
    let speed := roundDiv ((x.position - m.winPos) * 200) (elapsed s.frame m.winStart)
    let stalled := { x with
      speed := speed, motion := some { m with winStart := s.frame, winPos := x.position, stallCount := 2 } }
    let off := x.known = true ∧ p.endTolerance < (x.position - p.travel).natAbs
    let atEnd := s.setChan c { stalled with extendEnd := true }
    speed.natAbs < p.stallFloor → 2 * p.stallCurrent ≤ x.current →
    (m.dir = .retract → (if x.known then x.position ≤ p.endBand else x.cond = .limitRet) → exec (.speedWindowEnd c) s =
      .next (finish ((s.setChan c { stalled with position := 0, known := true, extendEnd := false }).endUnit u .ended))) ∧
    (m.dir = .extend → (x.known = true → (p.travel : Int) - p.endBand ≤ x.position) → exec (.speedWindowEnd c) s =
      .next (finish ((if off then atEnd.raised .travelMismatch (.chan c) else atEnd).endUnit u .ended)))) ∧
  ∀ (n : Fin 8) (reply : SlotReply) (f : Status) (u : UnitId) (m : Motion) (s : State), Steady s → s.lvs.seq.state = .idle →
    (s.node n).state = .ready → statusOf n reply = some f → s.populated (chanB n) = false →
    let c := chanA n
    s.unitChans u = [c] → (s.chan c).isMotor = true → (s.unit u).state ≠ .idle → (s.unit u).origin = some .user →
    s.queueOnly u → (s.chan c).motion = some m → m.origin = .user → m.arrived = false →
    (∀ r, u = .room r → (s.room r).type ≠ .twin) → (∀ e ∈ s.flt.entries, e.kind = .awningExposed → e.present = false) →
    (∀ d ∈ jackChans, (s.chan d).moves .retract = false) →
    let p := s.motorPar c
    let outside := reached s.frame m.graceEnd = true ∧ (f.currentA < 2 * p.dragLow ∨ 2 * p.dragHigh < f.currentA)
    let x := s.intakeChan c f.countA f.currentA f.pressureA
    let w := fun y : Channel => ({ s with nlc := { s.nlc with slot := none, sent := none, nlde := false } } : State).setNode n
      { s.node n with misses := 0, outA := { lastCount := some f.countA, candidate := none } } |>.setChan c y
    let done := fun v : State => if n = 7 then (finish v).frameEnd else finish v
    let becomes := fun v : State => exec (.slotIntake n reply) s = .next (done v)
    (¬outside → (s.outRec c).candidate = some f.condA → f.condA ≠ (s.chan c).cond → condFault (s.chan c).cond = none →
      let y := { x with cond := f.condA }
      let off := x.known = true ∧ p.endTolerance < (x.position - p.travel).natAbs
      let faulted := fun k : FaultKind => (w y).raised k (.chan c)
      (f.condA = .limitRet → m.dir = .retract →
        becomes ((w { y with position := 0, known := true, extendEnd := false }).endUnit u .ended)) ∧
      (f.condA = .limitExt → m.dir = .extend → becomes ((if off then (w { y with extendEnd := true }).raised .travelMismatch (.chan c)
        else w { y with extendEnd := true }).endUnit u .ended)) ∧
      (f.condA = .overcurrent →
        becomes (((faulted .overcurrent).setChan c { y with lock := some .overcurrent }).endUnit u .fault)) ∧
      (f.condA = .openLoad → becomes (((faulted .openLoad).setChan c { y with lock := some .openLoad }).endUnit u .fault)) ∧
      (f.condA = .overtemp → becomes ((faulted .overtemp).endUnit u .fault))) ∧
    (outside → f.condA = (s.chan c).cond → ((s.chan c).cond = .limitRet → (s.chan c).known = true) → x.dragCount < 65535 →
      (x.dragCount < p.dragLimit ∨ x.dragReported = true → becomes (w { x with dragCount := x.dragCount + 1 })) ∧
      (p.dragLimit ≤ x.dragCount → x.dragReported = false →
        becomes ((w { x with dragCount := x.dragCount + 1, dragReported := true }).raised .drag (.chan c))))

/-- CONVERSION_SCAN with no block complete: VBAT enters the history of at most 8 codes and the average is their sum × 5 by
10 × their number, rounded by R2; TX and TY enter the accumulators. Each of the six persistence counts rises, to at most 100,
where its condition of TABLE 4-1 holds of the new average, and is 0 where it fails; the thresholds default as R59 says (R58, R59,
R77). -/
def Obligations.ScanTakesTheCodes : Prop :=
  (∀ (tx ty vbat : Nat) (s : State), Quiet s → s.atu.blockCount < 16 → tx ≤ 4095 → ty ≤ 4095 → vbat ≤ 4095 →
    let h := (if s.sgu.batHist.length < 8 then s.sgu.batHist else s.sgu.batHist.drop 1) ++ [vbat]
    let avg := (roundDiv ((h.sum * 5 : Nat) : Int) (10 * h.length)).toNat
    let cutoff := min s.par.supplyCutoff s.par.supplyLow
    let count := fun (holds : Bool) (n : Nat) => if holds then min 100 (n + 1) else 0
    exec (.conversionScan tx ty vbat) s = .next (State.sending { s with
      sgu := { s.sgu with
        batHist := h, batAvg := avg
        counts :=
          { belowCutoff := count (decide (avg < cutoff)) s.sgu.counts.belowCutoff
            belowLow := count (decide (avg < s.par.supplyLow)) s.sgu.counts.belowLow
            aboveHigh := count (decide (s.par.supplyHigh < avg)) s.sgu.counts.aboveHigh
            clearOfCutoff := count (decide (cutoff + s.par.supplyHysteresis ≤ avg)) s.sgu.counts.clearOfCutoff
            clearOfLow := count (decide (s.par.supplyLow + s.par.supplyHysteresis ≤ avg)) s.sgu.counts.clearOfLow
            clearOfHigh := count (decide (avg + s.par.supplyHysteresis ≤ s.par.supplyHigh)) s.sgu.counts.clearOfHigh } }
      atu := { s.atu with accX := s.atu.accX + tx, accY := s.atu.accY + ty, blockCount := s.atu.blockCount + 1
                          scanned := true } })) ∧
  let d := Params.defaults.coach
  d.supplyLow = 1160 ∧ d.supplyCutoff = 1080 ∧ d.supplyHigh = 1550 ∧ d.supplyHysteresis = 30

/-- SUPPLY_STATE_CHANGE with a count of a row of TABLE 4-2 at 100: the state changes by the first such row, all six counts go
to 0, SUPPLY_CHANGE is offered, the old state's fault ends and the new state's fault is raised. With USER work alone, LOW and HIGH
revoke every queue entry, CUTOFF every grant and then every entry (R60, R62, R63, R64, R167). That the ends of work are the first
effects of the change after SUPPLY_CHANGE is the model's choice (log entry 39), and so is their order: CUTOFF takes the grants in
the order of the grant list, the oldest first, and then the entries (log entry 48); LOW and HIGH take the entries from the head of
the queue on (log entry 54). -/
def Obligations.SupplyStateChanges : Prop :=
  (∀ (new : Supply) (s : State), Resting s → supplyNext s.sgu.supply s.sgu.counts = some new →
    let t := ({ s with sgu := { s.sgu with supply := new, counts := .zero } } : State).offer
      (.supplyChange new s.sgu.supply s.sgu.batAvg)
    exec .supplyStateChange s = .next (finish (match new with
      | .normal => t
      | .low => t.raised .supplyLow .coach
      | .high => t.raised .supplyHigh .coach
      | .cutoff => t.raised .supplyCutoff .coach))) ∧
  ∀ (new : Supply) (s : State), Steady s → s.wgd.state = .armed → supplyNext s.sgu.supply s.sgu.counts = some new →
    (∀ u, (s.unit u).state ≠ .idle → (s.unit u).origin = some .user ∧
      ((∃ e ∈ s.sgu.queue, e.unit = u) ∨ ∃ g ∈ s.sgu.grants, g.unit = u)) →
    (∀ e ∈ s.sgu.queue, e.cls = .user ∧ (s.unit e.unit).state ≠ .idle) → (new = .normal → s.sgu.queue = []) →
    (s.sgu.grants.map GEntry.unit ++ s.sgu.queue.map QEntry.unit).Nodup →
    (∀ k ∈ [FaultKind.supplyLow, .supplyHigh, .supplyCutoff], s.flt.single k .coach) →
    let waiting := s.sgu.queue.map QEntry.unit
    let ends := match new with
      | .normal => []
      | .low | .high => waiting
      | .cutoff => s.sgu.grants.map GEntry.unit ++ waiting
    let t := ends.foldl (fun w u => w.endUnit u .revoked)
      (({ s with sgu := { s.sgu with supply := new, counts := .zero } } : State).offer
        (.supplyChange new s.sgu.supply s.sgu.batAvg))
    let t := match s.sgu.supply with
      | .normal => t
      | .low => t.lifted .supplyLow .coach
      | .high => t.lifted .supplyHigh .coach
      | .cutoff => t.lifted .supplyCutoff .coach
    exec .supplyStateChange s = .next (finish (match new with
      | .normal => t
      | .low => t.raised .supplyLow .coach
      | .high => t.raised .supplyHigh .coach
      | .cutoff => t.raised .supplyCutoff .coach))

/-- ATTITUDE_SAMPLE of a complete block, both averages in 48..4048: pitch and roll are (average − offset) × gain by 4096,
rounded and clamped to ±1500, the flag says whether a clamp acted, the values join histories of at most 8, and the record is
SETTLED exactly when both histories hold 8 values within settle-band; the accumulators are empty (R77, R78, R79, R82, R83). A
capture takes the sample, and its 32nd ends it: with both spreads at most 8 codes the offsets become the rounded means and the
record is recomputed, and REFERENCE_DONE is offered (R81, R85, R86). In SETTLING the sample is counted; the check takes the first SETTLED sample from the eighth on. After a pass
the executed lifts predict the change of attitude, and a second pass in a row that disagrees fails the sequence with LEVEL_RESPONSE.
Within tolerance the outcome is LEVEL; with the passes used up, or no jack to drive, BEST_EFFORT or NOT_LEVEL; SUPPORT follows where
it applies. Otherwise a pass is planned from heights, lifts and counts, and the jacks not dropped extend to their targets (R97 to
R101, R103, R104, R105, R107). -/
def Obligations.ValidSampleUpdatesAttitude : Prop :=
  ∀ s : State, 16 ≤ s.atu.blockCount → s.atu.record.state ≠ .invalid →
    let x := (s.atu.accX + 8) / 16
    let y := (s.atu.accY + 8) / 16
    48 ≤ x → x ≤ 4048 → 48 ≤ y → y ≤ 4048 →
    let axis := fun avg offset gain : Nat => roundDiv (((avg : Int) - offset) * gain) 4096
    let limited := fun v : Int => max (-1500) (min 1500 v)
    let pitch := axis x s.par.tiltOffsetX s.par.tiltGainX
    let roll := axis y s.par.tiltOffsetY s.par.tiltGainY
    let newest := fun (h : List Int) (v : Int) => (if h.length < 8 then h else h.drop 1) ++ [limited v]
    let steady := fun h : List Int => h.length = 8 ∧ ∀ a ∈ h, ∀ b ∈ h, a - b ≤ s.par.settleBand
    ∃ st : AttState, (st = .settled ∨ st = .unsettled) ∧
      (st = .settled ↔ steady (newest s.atu.record.histP pitch) ∧ steady (newest s.atu.record.histR roll)) ∧
      let record : Attitude :=
        { state := st, pitch := limited pitch, roll := limited roll
          clamped := decide (limited pitch ≠ pitch ∨ limited roll ≠ roll), rawX := x, rawY := y
          histP := newest s.atu.record.histP pitch, histR := newest s.atu.record.histR roll }
      let atu := { s.atu with accX := 0, accY := 0, blockCount := 0, record := record }
      (Quiet s → s.lvs.seq.state = .idle → s.atu.capture = none →
        exec .attitudeSample s = .next (State.sending { s with atu := atu })) ∧
      (∀ c, Quiet s → s.lvs.seq.state = .idle → s.atu.capture = some c →
        let range := fun (r : Option (Nat × Nat)) (v : Nat) => match r with
          | none => (v, v)
          | some (lo, hi) => (min lo v, max hi v)
        let rx := range c.rangeX x
        let ry := range c.rangeY y
        let d : Capture := { samples := c.samples + 1, sumX := c.sumX + x, sumY := c.sumY + y, rangeX := some rx
                             rangeY := some ry, skip := false }
        let ends := fun (ok : Bool) (w : State) => State.sending ({ w with atu := { w.atu with capture := none } }.offer
          (.referenceDone ok d.samples (rx.2 - rx.1) (ry.2 - ry.1) w.par.tiltOffsetX w.par.tiltOffsetY))
        let fits := rx.2 - rx.1 ≤ 8 ∧ ry.2 - ry.1 ≤ 8
        (c.skip = true → exec .attitudeSample s = .next (State.sending { s with
          atu := { atu with capture := some { c with skip := false } } })) ∧
        (c.skip = false → d.samples < 32 → exec .attitudeSample s = .next (State.sending { s with
          atu := { atu with capture := some d } })) ∧
        (c.skip = false → d.samples = 32 → ¬fits → exec .attitudeSample s = .next (ends false { s with atu := atu })) ∧
        (c.skip = false → d.samples = 32 → fits →
          let nx := (roundDiv d.sumX 32).toNat
          let ny := (roundDiv d.sumY 32).toNat
          let p := axis x nx s.par.tiltGainX
          let r := axis y ny s.par.tiltGainY
          exec .attitudeSample s = .next (ends true { s with
            sst := { s.sst with params := { s.sst.params with
              coach := { s.sst.params.coach with tiltOffsetX := nx, tiltOffsetY := ny } } }
            atu := { atu with record := { record with
              state := .unsettled, pitch := limited p, roll := limited r
              clamped := decide (limited p ≠ p ∨ limited r ≠ r), histP := [], histR := [] } } }))) ∧
      ∀ f, s.Levelling .settling f → s.atu.capture = none →
        let q := { s.lvs.seq with samples := min 65535 (s.lvs.seq.samples + 1) }
        let p := record.pitch
        let r := record.roll
        let support := s.populated 4 = true ∧ q.option = true
        let level := p.natAbs ≤ s.par.levelTolerance ∧ r.natAbs ≤ s.par.levelTolerance
        let rest := fun t : State => t.atu = atu ∧ t.sst = s.sst ∧ t.wgd = s.wgd ∧ NodesStand s t ∧
          t.ciu.stow = s.ciu.stow ∧ (∀ u, u ≠ .jacks → t.unit u = s.unit u) ∧ (∀ c, c ∉ jackChans → t.chan c = s.chan c)
        let ends := fun (o : LvOutcome) (cause : Cause) (clamped : Bool) (flt : Flt) => ∃ t, exec .attitudeSample s = .next t ∧
          t.lvs.seq = .reset ∧ t.lvs.result =
            { outcome := o, cause := cause, endedIn := some .settling, passes := q.passes, pitch := p, roll := r
              clamped := clamped, positions := (jackChans.filter s.populated).map fun c => (c, (s.chan c).position) } ∧
          t.unit .jacks = .reset ∧ (t.sgu.grants = s.sgu.grants.filter fun e => decide (e.unit ≠ .jacks)) ∧ t.flt = flt ∧ rest t
        let short := fun clamped : Bool => if clamped then LvOutcome.bestEffort else .notLevel
        let driving := fun (c : Fin 16) (goal : Target) => { s.chan c with
          state := ChanState.moving, extendEnd := false, dragCount := 0, dragReported := false
          motion := some { s.newMotion c .extend .level none with target := goal } }
        let mean := fun a b : Int => roundDiv (a + b) 2
        let px := fun c => (s.jackPar c).jackX
        let py := fun c => (s.jackPar c).jackY
        let spreadX := mean (px 0) (px 1) - mean (px 2) (px 3)
        let spreadY := mean (py 1) (py 3) - mean (py 0) (py 2)
        let c10 := fun c => s.c10 c
        (¬(st = .settled ∧ 7 ≤ s.lvs.seq.samples) →
          exec .attitudeSample s = .next (finish { s with atu := atu, lvs := { s.lvs with seq := q } })) ∧
        ∀ (before : List Int) (p₀ r₀ : Int), st = .settled → 7 ≤ s.lvs.seq.samples →
          (1 ≤ q.passes → q.plan.map (List.map PlanEntry.before) = some before ∧ before.length = 4 ∧ q.prev = some (p₀, r₀) ∧
            1000 ≤ spreadX ∧ 1000 ≤ spreadY ∧ ∀ c ∈ cornerChans, 1 ≤ c10 c) →
          let lifted := fun c : Fin 16 => roundDiv (((s.chan c).position - before.getD c.val 0) * 10000) (c10 c)
          let predicted := fun diff spread : Int => roundDiv (diff * 573) (100 * spread).toNat
          let pitchBy := predicted (mean (lifted 0) (lifted 1) - mean (lifted 2) (lifted 3)) spreadX
          let rollBy := predicted (mean (lifted 1) (lifted 3) - mean (lifted 0) (lifted 2)) spreadY
          let off := fun change predicted : Int => max 10 (roundDiv ((predicted.natAbs : Int) * 2) 5) < (change - predicted).natAbs
          let disagrees := 1 ≤ q.passes ∧ (off (p - p₀) pitchBy ∨ off (r - r₀) rollBy)
          let misses := if q.passes = 0 then q.misses else if disagrees then q.misses + 1 else 0
          (disagrees → 1 ≤ q.misses →
            ends .failed (.fault .levelResponse) q.clamped (s.flt.raise .levelResponse .coach s.frame).1) ∧
          (¬(disagrees ∧ 1 ≤ q.misses) →
            (level → ¬support → ends .level .none q.clamped s.flt) ∧
            (level → support → (∀ c ∈ supportChans, (s.chan c).state = .idle ∧ (s.chan c).motion = none ∧
                (s.chan c).pressure < min 255 ((s.jackPar c).contactThreshold + (s.jackPar c).supportMargin)) →
              ∃ t, exec .attitudeSample s = .next t ∧ t.lvs = { s.lvs with seq := { q with
                  state := .support, phaseStart := some s.frame, pending := some .level, misses := misses, prev := some (p, r) } } ∧
                (∀ c ∈ cornerChans, t.chan c = s.chan c) ∧ (∀ c ∈ supportChans, t.chan c = driving c .toEnd) ∧
                t.unit .jacks = s.unit .jacks ∧ GrantsStand s t ∧ t.flt = s.flt ∧ rest t) ∧
            (¬level → q.passes = s.par.levelMaxPasses → ¬support → ends (short q.clamped) .none q.clamped s.flt) ∧
            (¬level → q.passes < s.par.levelMaxPasses →
              (∀ c ∈ cornerChans, (s.chan c).state = .idle ∧ (s.chan c).motion = none) →
              let h := fun c => roundDiv (((s.jackPar c).jackX * p + (s.jackPar c).jackY * r) * 1745) 10000
              let top := max (max (h 0) (h 1)) (max (h 2) (h 3))
              let counts := fun c => roundDiv ((top - h c) * c10 c) 10000
              let target := fun c => min ((s.jackPar c).stroke : Int) ((s.chan c).position + counts c)
              let driven := fun c => (s.par.levelDeadband : Int) ≤ counts c ∧ (s.chan c).position < target c
              let clamped := q.clamped || decide (∃ c ∈ cornerChans, (s.par.levelDeadband : Int) ≤ counts c ∧
                ((s.jackPar c).stroke : Int) < (s.chan c).position + counts c)
              ((∀ c ∈ cornerChans, ¬driven c) → ¬support → ends (short clamped) .none clamped s.flt) ∧
              ((∃ c ∈ cornerChans, driven c) → ∃ t, exec .attitudeSample s = .next t ∧
                t.lvs.seq.state = .lifting ∧ t.lvs.seq.passes = q.passes + 1 ∧ t.lvs.seq.phaseStart = some s.frame ∧
                t.lvs.seq.prev = some (p, r) ∧ t.lvs.seq.clamped = clamped ∧ t.lvs.seq.misses = misses ∧
                (∀ c ∈ cornerChans, t.chan c = if driven c then driving c (.at (target c)) else s.chan c) ∧
                (∀ c ∈ supportChans, t.chan c = s.chan c) ∧ t.unit .jacks = s.unit .jacks ∧ GrantsStand s t ∧ t.flt = s.flt ∧
                rest t)))

/-- ATTITUDE_SAMPLE of a complete block with an average outside 48..4048: the record becomes INVALID with the raw averages,
empty histories and the last pitch and roll, and TILT_RANGE is raised; in a record that is INVALID already nothing new is. The
first valid sample after that takes the record to UNSETTLED, with its pitch and roll, the clamped flag and histories of this one
sample, and the condition of TILT_RANGE ends (R78, R79, R83, R167). -/
def Obligations.InvalidSampleRaisesTiltRange : Prop :=
  ∀ s : State, 16 ≤ s.atu.blockCount → s.atu.capture = none →
    let x := (s.atu.accX + 8) / 16
    let y := (s.atu.accY + 8) / 16
    let sampled := fun r : Attitude => ({ s with atu := { s.atu with
      accX := 0, accY := 0, blockCount := 0, record := { r with rawX := x, rawY := y } } } : State)
    let becomes := fun w : State => exec .attitudeSample s = .next (finish w)
    let valid := 48 ≤ x ∧ x ≤ 4048 ∧ 48 ≤ y ∧ y ≤ 4048
    let invalid := sampled { s.atu.record with state := .invalid, histP := [], histR := [] }
    (Resting s → s.atu.record.state ≠ .invalid → ¬valid → becomes (invalid.raised .tiltRange .coach)) ∧
    (s.RestingBut .tiltRange .coach → s.atu.record.state = .invalid →
      (¬valid → becomes invalid) ∧
      (valid → s.atu.record.histP = [] → s.atu.record.histR = [] →
        let axis := fun avg offset gain : Nat => roundDiv (((avg : Int) - offset) * gain) 4096
        let limited := fun v : Int => max (-1500) (min 1500 v)
        let pitch := axis x s.par.tiltOffsetX s.par.tiltGainX
        let roll := axis y s.par.tiltOffsetY s.par.tiltGainY
        becomes ((sampled { s.atu.record with
          state := .unsettled, pitch := limited pitch, roll := limited roll
          clamped := decide (limited pitch ≠ pitch ∨ limited roll ≠ roll)
          histP := [limited pitch], histR := [limited roll] }).lifted .tiltRange .coach)))

/-! ## Ends of work and timers (chapters 1, 4, 6, 7, 9) -/

/-- The end of a working unit's work: the unit goes IDLE and leaves the queue and the grant set, its motion records are
removed, a room's window, arrival and end-wait end, MOTION_END is offered, and everything else stays as it is (R19, R20, R43, R71,
R114). -/
def Obligations.WorkEndsWhole : Prop :=
  ∀ (u : UnitId) (why : Reason) (s : State), (s.unit u).state ≠ .idle →
    let t := s.endUnit u why
    UnitEnded s t u ∧
    t.pli = s.pli.offer s.par.noticeMask (.motionEnd u why) ∧
    (∀ c ∈ unitSlots u, (s.chan c).motion ≠ none → (s.chan c).state ≠ .disabled → t.chan c = { s.chan c with
      motion := none, state := if (s.chan c).lock = none then .idle else .faulted
      idleStart := s.frame, idlePos := (s.chan c).position }) ∧
    (∀ r, t.room r = if u = .room r then { s.room r with
      window := none, overLimit := 0, counted := 0, firstArrival := none, endWait := none } else s.room r) ∧
    t = { s with chc := t.chc, pli := t.pli, sgu := { s.sgu with queue := t.sgu.queue, grants := t.sgu.grants } }

/-- ATTENDANCE_EXPIRY of a room or the awning under USER with a deadline that has come, pending or of an attended record:
the unit's work ends with RELEASED. With no such deadline nothing ends (R15). -/
def Obligations.AttendanceReleasesTheUnit : Prop :=
  ∀ (u : UnitId) (s : State), Steady s → s.frameOver = true → u ≠ .jacks → (s.unit u).state ≠ .idle → (s.unit u).origin = some .user →
    let due := fun d : Option FrameNo => ∃ f, d = some f ∧ (s.frame - f).toNat < 2147483648
    let expired := (∃ p ∈ (s.unit u).pending, due p.deadline) ∨
      ∃ c ∈ s.unitChans u, ∃ m, (s.chan c).motion = some m ∧ m.attended = true ∧ due m.deadline
    (expired → s.queueOnly u → exec (.attendanceExpiry u) s = .next (finish (s.endUnit u .released))) ∧
    (¬expired → exec (.attendanceExpiry u) s = .next (finish s))

/-- ATTENDANCE_EXPIRY of USER JACKS with one moving jack's deadline come: that jack ends with RELEASED, and with the last
record the unit's work ends (R13, R15, R20). An intake that brings an extending jack with its position known to its target or its
stroke ends that jack's record with TARGET or END in the same way (R51). In a level sequence an intake of output A ends a jack's
record when its latch sets in CONTACT, where a GROUND_LOST of it that stands ends, at its target in LIFTING, and at its support level
in SUPPORT, and the jack holds; with the last of them CONTACT and LIFTING are followed by SETTLING, and SUPPORT ends the sequence
with the pending outcome (R54, R95, R101, R102, R105, R107, R167). The phase is taken after the whole intake (log entry 55). -/
def Obligations.AttendanceReleasesAJack : Prop :=
  (∀ (c : Fin 16) (m : Motion) (f : FrameNo) (s : State), Steady s → s.frameOver = true → (s.unit .jacks).state = .active →
    (s.unit .jacks).origin = some .user → (s.unit .jacks).pending = [] → c ∈ s.unitChans .jacks →
    (s.chan c).motion = some m → m.origin = .user → m.attended = true → m.deadline = some f → reached s.frame f = true →
    (∀ d ∈ s.unitChans .jacks, d ≠ c → ∀ k, (s.chan d).motion = some k → ∃ g, k.deadline = some g ∧ reached s.frame g = false) →
    ((∃ d ∈ s.unitChans .jacks, d ≠ c ∧ (s.chan d).motion ≠ none) →
      exec (.attendanceExpiry .jacks) s = .next (finish (s.setChan c ((s.chan c).endMotion s.frame)))) ∧
    ((∀ d ∈ s.unitChans .jacks, d ≠ c → (s.chan d).motion = none) → s.queueOnly .jacks →
      exec (.attendanceExpiry .jacks) s =
        .next (finish ((s.setChan c ((s.chan c).endMotion s.frame)).endUnit .jacks .released)))) ∧
  (∀ (n : Fin 8) (reply : SlotReply) (f : Status) (m : Motion) (s : State), Steady s → s.lvs.seq.state = .idle →
    (s.node n).state = .ready → statusOf n reply = some f → chanA n ∈ s.unitChans .jacks → chanB n ∈ s.unitChans .jacks →
    PlainReport s (chanA n) f.condA f.pressureA → PlainReport s (chanB n) f.condB f.pressureB →
    (s.unit .jacks).state = .active → (s.unit .jacks).origin = some .user → (s.unit .jacks).pending = [] →
    (s.chan (chanA n)).kind = .jack →
    (s.chan (chanA n)).motion = some m → m.origin = .user → m.dir = .extend → (s.chan (chanA n)).known = true →
    (s.chan (chanB n)).motion = none → (s.outRec (chanA n)).lastCount ≠ none →
    let x := s.intakeChan (chanA n) f.countA f.currentA f.pressureA
    let hit := match m.target with
      | .at k => decide (k ≤ x.position)
      | .toEnd => false
    let ends := hit = true ∨ ((s.jackPar (chanA n)).stroke : Int) ≤ x.position
    let others := ∃ d ∈ s.unitChans .jacks, d ≠ chanA n ∧ (s.chan d).motion ≠ none
    (¬ends ∨ others ∨ s.queueOnly .jacks) →
    ∃ t, exec (.slotIntake n reply) s = .next t ∧
      (¬ends → t.chan (chanA n) = x ∧ t.unit .jacks = s.unit .jacks) ∧
      (ends → t.chan (chanA n) = x.endMotion s.frame) ∧
      (ends → others → t.unit .jacks = s.unit .jacks) ∧
      (ends → ¬others → t.unit .jacks = .reset ∧ (t.sgu.grants = s.sgu.grants.filter fun e => decide (e.unit ≠ .jacks)) ∧
        t.pli = ({ s with pli := s.pli.offer s.par.noticeMask (.motionEnd .jacks (if hit then .target else .ended)) } :
          State).transmitted) ∧
      t.flt = s.flt ∧ SlotAside n s t ∧ t.wgd = s.wgd ∧ t.ciu.stow = s.ciu.stow ∧ (∀ v, v ≠ .jacks → t.unit v = s.unit v)) ∧
  ∀ (st : LvState) (since : FrameNo) (n : Fin 8) (reply : SlotReply) (f : Status) (m : Motion) (s : State), s.Levelling st since →
    (s.node n).state = .ready → statusOf n reply = some f → s.populated (chanB n) = true →
    let c := chanA n
    s.populated c = true → (s.chan c).kind = .jack → f.condA = (s.chan c).cond →
    ((s.chan c).cond = .limitRet → (s.chan c).known = true) → PlainReport s (chanB n) f.condB f.pressureB →
    (s.chan (chanB n)).motion = none → (s.chan c).motion = some m → m.dir = .extend → m.origin = .level →
    (s.outRec c).lastCount ≠ none →
    let x := s.intakeChan c f.countA f.currentA f.pressureA
    let y := s.intakeChan (chanB n) f.countB f.currentB f.pressureB
    let jack := s.jackPar c
    x.position < jack.stroke →
    let q := s.lvs.seq
    let rest := fun t : State => t.wgd = s.wgd ∧ t.ciu.stow = s.ciu.stow ∧ SlotAside n s t ∧ t.chan (chanB n) = y ∧
      (∀ d, d ∉ s.nodeChans n → t.chan d = s.chan d) ∧ ∀ u, u ≠ .jacks → t.unit u = s.unit u
    let holds := fun (flt : Flt) (z : Channel) (lvs : Lvs) => ∃ t, exec (.slotIntake n reply) s = .next t ∧ t.chan c = z ∧
      t.lvs = lvs ∧ t.flt = flt ∧ t.unit .jacks = s.unit .jacks ∧ GrantsStand s t ∧ rest t
    let becomes := holds s.flt
    let settling := { s.lvs with seq := { q with state := .settling, phaseStart := some s.frame, samples := 0 } }
    let last := fun l : List (Fin 16) => ∀ d ∈ l, d ≠ c → (s.chan d).motion = none
    (st = .contact → c ∈ cornerChans → m.target = .toEnd → (s.chan c).latch = false → s.flt.single .groundLost (.chan c) →
      let z := { x with latch := true }.endMotion s.frame
      let found := holds (s.flt.ended .groundLost (.chan c))
      let grounded := ∀ d ∈ cornerChans, d ≠ c → (s.chan d).latch = true ∧ (s.chan d).motion = none
      (f.pressureA < jack.contactThreshold → becomes x s.lvs) ∧
      (jack.contactThreshold ≤ f.pressureA → ¬grounded → found z s.lvs) ∧
      (jack.contactThreshold ≤ f.pressureA → grounded → found z settling)) ∧
    (∀ k, st = .lifting → c ∈ cornerChans → m.target = .at k → PlainReport s c f.condA f.pressureA → x.known = true →
      (x.position < k → becomes x s.lvs) ∧
      (k ≤ x.position → ¬last cornerChans → becomes (x.endMotion s.frame) s.lvs) ∧
      (k ≤ x.position → last cornerChans → becomes (x.endMotion s.frame) settling)) ∧
    (st = .support → c ∈ supportChans → m.target = .toEnd → PlainReport s c f.condA f.pressureA →
      let reached := min 255 (jack.contactThreshold + jack.supportMargin) ≤ f.pressureA
      (¬reached → becomes x s.lvs) ∧
      (reached → ¬last supportChans → becomes (x.endMotion s.frame) s.lvs) ∧
      ∀ o p, reached → last supportChans → q.pending = some o → q.prev = some p →
        (∀ d ∈ jackChans, d ≠ c → (s.chan d).motion = none ∧ (s.chan d).state ≠ .waiting) →
        ∃ t, exec (.slotIntake n reply) s = .next t ∧ t.chan c = (x.endMotion s.frame).unwait ∧ t.flt = s.flt ∧ t.unit .jacks = .reset ∧
          (t.sgu.grants = s.sgu.grants.filter fun e => decide (e.unit ≠ .jacks)) ∧
          t.lvs = { seq := .reset, result :=
            { outcome := o, cause := .none, endedIn := some .support, passes := q.passes, pitch := p.1, roll := p.2
              clamped := q.clamped, positions := (jackChans.filter s.populated).map fun d =>
                (d, if d = c then x.position else if d = chanB n then y.position else (s.chan d).position) } } ∧ rest t)

/-- GRANT_WAIT_EXPIRY of a USER unit: an entry that has waited 2000 frames ends with REVOKED; before that nothing ends (R68). -/
def Obligations.WaitingEntryIsRevoked : Prop :=
  ∀ (u : UnitId) (e : QEntry) (s : State), Steady s → s.frameOver = true → s.sgu.queue = [e] → e.unit = u → (s.unit u).state = .waiting →
    (s.unit u).origin = some .user →
    exec (.grantWaitExpiry u) s =
      .next (finish (if 2000 ≤ (s.frame - e.arrival).toNat then s.endUnit u .revoked else s))

/-- OVERDRAW_EXPIRY with the count at 200: the count goes to 0, OVERDRAW is raised and the youngest USER grant, the one of the
greatest order, is revoked; without a USER or LEVEL grant only the event is raised. At a frame end the count rises by 1, to 200
at most, while four times the draw exceeds five times B, and is 0 otherwise; the draw is that of the granted units' channels, with
the pump's claim while PUMP is on (R74; log entry 3). -/
def Obligations.OverdrawRevokesTheYoungest : Prop :=
  (∀ s : State, Steady s → s.frameOver = true → s.sgu.queue = [] → 200 ≤ s.sgu.overdraw →
    let t := State.raised { s with sgu := { s.sgu with overdraw := 0 } } .overdraw .coach
    (∀ g ∈ s.sgu.grants, g.cls = .user → (∀ e ∈ s.sgu.grants, e.cls = .user → e ≠ g → e.order < g.order) →
      (s.unit g.unit).state ≠ .idle → (s.unit g.unit).origin = some .user →
      exec .overdrawExpiry s = .next (finish (t.endUnit g.unit .revoked))) ∧
    ((∀ g ∈ s.sgu.grants, g.cls ≠ .user ∧ g.cls ≠ .level) → exec .overdrawExpiry s = .next (finish t))) ∧
  ∀ (reply : SlotReply) (s : State), Quiet s → (s.node 7).state = .absent →
    let drawn := ((s.sgu.grants.map fun g => ((s.unitChans g.unit).map fun c => (s.chan c).current).sum).sum)
      + (if s.sgu.pump then 2 * s.par.pumpClaim else 0)
    ∃ t, exec (.slotIntake 7 reply) s = .next t ∧
      t.sgu = { s.sgu with overdraw := if 5 * (2 * s.sgu.budget) < 4 * drawn then (if s.sgu.overdraw < 200 then s.sgu.overdraw + 1
        else 200) else 0 } ∧
      t.frameOver = true ∧ t.frame = s.frame ∧ t.flt = s.flt ∧ (∀ c, t.chan c = s.chan c) ∧ (∀ u, t.unit u = s.unit u) ∧
      (∀ n, t.node n = s.node n) ∧ t.lvs = s.lvs ∧ t.wgd = s.wgd ∧ t.ciu = s.ciu ∧ t.atu = s.atu ∧ t.sst = s.sst

/-- RACK_WINDOW_END of a twin room whose window has run 32 frames: with 16 or fewer frames over the limit the next window
starts where this one ended; with 17 or more RACK is raised, both ends are locked and the USER work ends with FAULT (R120,
R121, R163). The first 32 frame ends of a window are counted, and those with a valid skew beyond rack-limit are counted over the
limit (R117, R120); that frame end is the intake of slot 7 (log entry 3). -/
def Obligations.RackWindowIsJudged : Prop :=
  (∀ (r : Fin 4) (w : FrameNo) (s : State), Steady s → s.frameOver = true → (s.room r).type = .twin → (s.room r).window = some w →
    32 ≤ (s.frame - w).toNat →
    ((s.room r).overLimit ≤ 16 → exec (.rackWindowEnd r) s =
      .next (finish (s.setRoom r { s.room r with window := some (w + 32), overLimit := 0, counted := 0 }))) ∧
    (17 ≤ (s.room r).overLimit → (s.unit (.room r)).state ≠ .idle → (s.unit (.room r)).origin = some .user →
      s.queueOnly (.room r) → ∃ t, exec (.rackWindowEnd r) s = .next t ∧
        t.flt = (s.flt.raise .rack (.room r) s.frame).1 ∧ t.unit (.room r) = .reset ∧
        (∀ u, u ≠ .room r → t.unit u = s.unit u) ∧
        (∀ c ∈ s.unitChans (.room r), (t.chan c).motion = none ∧ (t.chan c).lock = some .rack ∧
          ((s.chan c).state ≠ .disabled → (t.chan c).state = .faulted)) ∧
        (∀ c, c ∉ unitSlots (.room r) → t.chan c = s.chan c) ∧ (t.room r).window = none ∧
        (t.sgu.grants = s.sgu.grants.filter fun e => decide (e.unit ≠ .room r)) ∧
        Aside s t ∧ NodesStand s t ∧ t.lvs = s.lvs ∧ t.wgd = s.wgd ∧ t.ciu.stow = s.ciu.stow)) ∧
  ∀ (reply : SlotReply) (s : State), Quiet s → (s.node 7).state = .absent → ∃ t, exec (.slotIntake 7 reply) s = .next t ∧
    ∀ r : Fin 4,
      let front := s.chan (roomFront r)
      let rear := s.chan (roomRear r)
      let beyond := front.known = true ∧ rear.known = true ∧ (s.roomPar r).rackLimit < (front.position - rear.position).natAbs
      let runs := (s.room r).type = .twin ∧ ∃ w, (s.room r).window = some w ∧ 1 ≤ (s.frame - w).toNat ∧ (s.frame - w).toNat ≤ 32
      let up := fun k : Nat => if k < 32 then k + 1 else 32
      (runs → t.room r = { s.room r with
        counted := up (s.room r).counted, overLimit := if beyond then up (s.room r).overLimit else (s.room r).overLimit }) ∧
      (¬runs → t.room r = s.room r)

/-- END_WAIT_EXPIRY of a USER room with an end still under way at its end-wait deadline: END_MISMATCH is raised and the work
ends with FAULT (R124, R162). The deadline is set when an end of a twin room arrives first: the front end's intake that validates
LIMIT_RET re-homes it and marks its record arrived; when the rear end has arrived before, the room's work ends with END (R48, R49,
R122, R123). -/
def Obligations.EndWaitFails : Prop :=
  (∀ (r : Fin 4) (d : FrameNo) (s : State), Steady s → s.frameOver = true → (s.room r).endWait = some d →
    (s.frame - d).toNat < 2147483648 →
    (∃ c ∈ s.unitChans (.room r), ∃ m, (s.chan c).motion = some m ∧ m.arrived = false) →
    (s.unit (.room r)).state ≠ .idle → (s.unit (.room r)).origin = some .user → s.queueOnly (.room r) →
    exec (.endWaitExpiry r) s = .next (finish ((s.raised .endMismatch (.room r)).endUnit (.room r) .fault))) ∧
  ∀ (r : Fin 4) (n : Fin 8) (reply : SlotReply) (f : Status) (m k : Motion) (s : State), Steady s → s.lvs.seq.state = .idle →
    n.val = r.val + 3 → (s.node n).state = .ready → statusOf n reply = some f → (s.room r).type = .twin →
    let front := roomFront r
    let rear := roomRear r
    s.unitChans (.room r) = [front, rear] → (s.chan front).isMotor = true → (s.chan rear).isMotor = true →
    (s.unit (.room r)).state ≠ .idle → (s.unit (.room r)).origin = some .user → s.queueOnly (.room r) →
    (s.chan front).motion = some m → (s.chan rear).motion = some k → m.dir = .retract → k.dir = .retract → m.arrived = false →
    reached s.frame m.graceEnd = false → reached s.frame k.graceEnd = false → condFault (s.chan front).cond = none →
    (s.chan front).cond ≠ .limitRet → f.condA = .limitRet → (s.outRec front).candidate = some .limitRet →
    PlainReport s rear f.condB f.pressureB →
    let x := { s.intakeChan front f.countA f.currentA f.pressureA with
      cond := .limitRet, position := 0, known := true, extendEnd := false }
    let y := s.intakeChan rear f.countB f.currentB f.pressureB
    ∃ t, exec (.slotIntake n reply) s = .next t ∧ t.flt = s.flt ∧ SlotAside n s t ∧ t.lvs = s.lvs ∧ t.wgd = s.wgd ∧
      t.ciu.stow = s.ciu.stow ∧ (∀ c, c ≠ front → c ≠ rear → t.chan c = s.chan c) ∧
      (∀ u, u ≠ .room r → t.unit u = s.unit u) ∧
      (k.arrived = false → t.unit (.room r) = s.unit (.room r) ∧ GrantsStand s t ∧
        t.chan front = { x with motion := some { m with arrived := true } } ∧ t.chan rear = y ∧
        (t.room r).firstArrival = some .front ∧
        (t.room r).endWait = some (s.frame + BitVec.ofNat 32 ((s.roomPar r).endWait / 5))) ∧
      (k.arrived = true → t.unit (.room r) = .reset ∧ t.chan front = (x.endMotion s.frame).unwait ∧
        t.chan rear = (y.endMotion s.frame).unwait ∧ (t.room r).firstArrival = none ∧ (t.room r).endWait = none ∧
        (t.room r).window = none)

/-- The four time limits of a level sequence: 4000 frames of CONTACT with a corner jack unlatched, 2000 of SETTLING, 6000 of
LIFTING with a corner jack moving, 4000 of SUPPORT with a support jack moving. The jacks raise NO_GROUND or LIFT_TIMEOUT and
the sequence ends FAILED (R96, R97, R102, R106, R107). Short of its limit no row does anything. -/
def Obligations.LevelTimeLimitsFail : Prop :=
  (∀ (f : FrameNo) (s : State), s.frameOver = true →
    let raised := fun (k : FaultKind) (l : List (Fin 16)) =>
      l.foldl (fun g c => (Flt.raise g k (.chan c) s.frame).1) s.flt
    let rest := fun t : State => Aside s t ∧ NodesStand s t ∧ t.wgd = s.wgd ∧ t.ciu.stow = s.ciu.stow
    let moving := fun l : List (Fin 16) => l.filter fun c => (s.chan c).movesFor .level
    (s.Levelling .contact f → 4000 ≤ (s.frame - f).toNat → (∃ c ∈ cornerChans, (s.chan c).latch = false) →
      (∀ c ∈ cornerChans, s.populated c = true) →
      ∃ t, exec .contactTimeout s = .next t ∧ LevelEnded s t .contact .failed (.fault .noGround) ∧
        t.flt = raised .noGround (cornerChans.filter fun c => !(s.chan c).latch) ∧ rest t) ∧
    (s.Levelling .settling f → 2000 ≤ (s.frame - f).toNat →
      ∃ t, exec .settleTimeout s = .next t ∧ LevelEnded s t .settling .failed .unstable ∧ t.flt = s.flt ∧ rest t) ∧
    (s.Levelling .lifting f → 6000 ≤ (s.frame - f).toNat → moving cornerChans ≠ [] →
      (∀ c ∈ cornerChans, s.populated c = true) →
      ∃ t, exec .liftPassTimeout s = .next t ∧ LevelEnded s t .lifting .failed (.fault .liftTimeout) ∧
        t.flt = raised .liftTimeout (moving cornerChans) ∧ rest t) ∧
    (s.Levelling .support f → 4000 ≤ (s.frame - f).toNat → moving supportChans ≠ [] →
      (∀ c ∈ supportChans, s.populated c = true) →
      ∃ t, exec .supportTimeout s = .next t ∧ LevelEnded s t .support .failed (.fault .noGround) ∧
        t.flt = raised .noGround (moving supportChans) ∧ rest t)) ∧
  ∀ (st : LvState) (f : FrameNo) (s : State), s.Levelling st f →
    let short := fun limit : Nat => (s.frame - f).toNat < limit
    (st = .contact → short 4000 → exec .contactTimeout s = .next (finish s)) ∧
    (st = .settling → short 2000 → exec .settleTimeout s = .next (finish s)) ∧
    (st = .lifting → short 6000 → exec .liftPassTimeout s = .next (finish s)) ∧
    (st = .support → short 4000 → exec .supportTimeout s = .next (finish s))

/-- STOW_STEP_TIMEOUT of a step that has run stow-step-time: every unit of origin STOW has its work ended with STOPPED, the
sequence ends FAILED with TIMEOUT and the first awaited unit as subject, STOW_DONE is offered after the MOTION_ENDs, and the
sequence is IDLE. Before that time nothing happens (R156, R157). Several units end in unit order (log entry 51), and one that is
still WAITING ends with STOPPED as an ACTIVE one does (log entry 63): both are the model's choice. -/
def Obligations.StowStepTimesOut : Prop :=
  ∀ s : State, Steady s → s.frameOver = true →
    (∀ e ∈ s.sgu.queue, (s.unit e.unit).origin = some .stow ∧ (s.unit e.unit).state ≠ .idle) → s.wgd.retract ≠ .covered →
    let q := s.ciu.stow
    let due := q.state ≠ .idle ∧ ∃ f, q.stepStart = some f ∧ s.par.stowStepTime / 5 ≤ (s.frame - f).toNat
    let subject := q.awaited.head?.map Subject.unit
    let t := (allUnits.filter fun u => decide ((s.unit u).origin = some .stow)).foldl (fun w u => w.endUnit u .stopped) s
    (due → exec .stowStepTimeout s = .next (finish { t.offer (.stowDone .failed q.trigger (some q.state) .timeout subject) with
      ciu := { s.ciu with
        stow := .reset
        result := { outcome := .failed, trigger := q.trigger, step := some q.state, cause := .timeout, subject := subject } } })) ∧
    (¬due → s.sgu.queue = [] → exec .stowStepTimeout s = .next (finish s))

/-! ## Coach inputs, wind, link silence and the store (chapters 8, 9, 11, 12) -/

/-- A sample that accepts nothing only counts; the fourth sample in a row of another level makes it the accepted level, and a
replaced level sets the CHANGED flag and offers INPUT_CHANGE. For IGN without auto-stow that is all (R141, R142). With auto-stow
on, PARK set, in RUN and no stow running, a change of IGN to on starts a stow of trigger AUTO, in CUTOFF writes the FAILED
result at once; with PARK not set it starts none (R152). That this FAILED result has no subject is the model's choice (log entry
69). That one INPUT_ACCEPT is one frame-end sample of one input is the model's choice (log entry 24). -/
def Obligations.InputIsFiltered : Prop :=
  (∀ (level : Bool) (s : State), Quiet s →
    (∀ i, ¬(s.input i).newLevel level →
      exec (.inputAccept i level) s = .next (s.setInput i ((s.input i).sampled level)).sending) ∧
    (s.ciu.ign.newLevel level → s.par.autoStow = false →
      exec (.inputAccept .ign level) s = .next (State.sending (match s.ciu.ign.accepted with
        | none => s.setInput .ign { s.ciu.ign.sampled level with accepted := some level }
        | some old => (s.setInput .ign { s.ciu.ign.sampled level with accepted := some level, changed := true }).offer
            (.inputChange .ign level old))))) ∧
  ∀ s : State, Resting s → s.ciu.ign.newLevel true → s.ciu.ign.accepted = some false → s.par.autoStow = true →
    let ign := { s.ciu.ign.sampled true with accepted := some true, changed := true }
    let w := (s.setInput .ign ign).offer (.inputChange .ign true false)
    let rest := fun t : State => t.ciu.ign = ign ∧ t.sst = s.sst ∧ t.atu = s.atu ∧ NodesStand s t ∧ t.lvs = s.lvs ∧
      t.wgd = s.wgd ∧ t.flt = s.flt ∧ t.ciu.park = s.ciu.park ∧ t.ciu.eng = s.ciu.eng
    let able := s.ciu.park.accepted = some true ∧ s.sst.phase = .run
    (¬able → exec (.inputAccept .ign true) s = .next (finish w)) ∧
    (able → s.sgu.supply = .cutoff → exec (.inputAccept .ign true) s = .next (finish ({ w with ciu := { w.ciu with
      result := { outcome := .failed, trigger := some .auto, step := some .awning, cause := .supply, subject := none } } }.offer
        (.stowDone .failed (some .auto) (some .awning) .supply none)))) ∧
    (able → s.sgu.supply ≠ .cutoff → (∀ c, s.populated c = true → s.rest c = .stowed) →
      ∃ t, exec (.inputAccept .ign true) s = .next t ∧ t.ciu.stow = .reset ∧
        t.ciu.result = { outcome := .complete, trigger := some .auto, step := some .jacks, cause := .none, subject := none } ∧
        (∀ c, t.chan c = s.chan c) ∧ (∀ u, t.unit u = s.unit u) ∧ GrantsStand s t ∧ rest t) ∧
    (able → s.sgu.supply ≠ .cutoff → s.populated 14 = true → s.rest 14 ≠ .stowed → (s.chan 14).state = .idle →
      (s.chan 14).cond ≠ .limitRet → (s.node 7).state = .ready → (s.motorPar 14).claim ≤ s.sgu.budget →
      ∃ t, exec (.inputAccept .ign true) s = .next t ∧
        t.ciu.stow = { state := .awning, trigger := some .auto, stepStart := some s.frame, awaited := [.awning] } ∧
        UnitBegun s t .awning .stow .retract none [14] ∧ rest t)

/-- ENG accepted at another level with nothing granted or queued: B is budget-engine while it runs, else budget-battery (R65,
R70, R142). A fall of B over USER grants revokes the youngest first until the held sum fits: exactly the grants for which the
claims of the grants as old or older exceed B (R67, R70). ENG accepted as not running with pump-needs-engine on first ends the
work of JACKS with INTERLOCK, and B falls over the grants that remain; a level sequence then ends FAILED with cause INTERLOCK
(R73, R107). One INPUT_ACCEPT is one frame-end sample of ENG (log entry 24). -/
def Obligations.EngineSetsTheBudget : Prop :=
  (∀ (level old : Bool) (s : State), Resting s → s.par.pumpNeedsEngine = false → s.ciu.eng.newLevel level →
    s.ciu.eng.accepted = some old →
    exec (.inputAccept .eng level) s = .next (finish (({ s with
      ciu := { s.ciu with eng := { s.ciu.eng.sampled level with accepted := some level, changed := true } }
      sgu := { s.sgu with budget := if level then s.par.budgetEngine else s.par.budgetBattery } } : State).offer
        (.inputChange .eng level old)))) ∧
  (∀ s : State, Steady s → s.par.pumpNeedsEngine = false → s.ciu.eng.newLevel false → s.ciu.eng.accepted = some true →
    s.sgu.queue = [] → (∀ g ∈ s.sgu.grants, g.cls = .user ∧ (s.unit g.unit).state ≠ .idle ∧ (s.unit g.unit).origin = some .user) →
    (s.sgu.grants.map GEntry.unit).Nodup → (s.sgu.grants.map GEntry.order).Nodup → s.par.budgetBattery < s.sgu.budget →
    let revoked := fun g : GEntry =>
      s.par.budgetBattery < ((s.sgu.grants.filter fun e => decide (e.order ≤ g.order)).map GEntry.claim).sum
    ∃ t, exec (.inputAccept .eng false) s = .next t ∧ t.sgu.budget = s.par.budgetBattery ∧ t.sgu.queue = [] ∧
      t.sgu.grants = (s.sgu.grants.filter fun g => !decide (revoked g)) ∧
      (t.sgu.grants.map GEntry.claim).sum ≤ s.par.budgetBattery ∧
      (∀ g ∈ s.sgu.grants, revoked g → t.unit g.unit = .reset ∧
        ∀ c ∈ unitSlots g.unit, t.chan c = ((s.chan c).endMotion s.frame).unwait) ∧
      (∀ u, (¬∃ g ∈ s.sgu.grants, g.unit = u ∧ revoked g) → t.unit u = s.unit u ∧ ∀ c ∈ unitSlots u, t.chan c = s.chan c) ∧
      t.ciu.eng = { s.ciu.eng.sampled false with accepted := some false, changed := true } ∧ t.flt = s.flt ∧ t.lvs = s.lvs ∧
      t.wgd = s.wgd ∧ t.ciu.stow = s.ciu.stow ∧ t.ciu.park = s.ciu.park ∧ t.sst = s.sst ∧ NodesStand s t) ∧
  ∀ s : State, Steady s → s.par.pumpNeedsEngine = true → s.ciu.eng.newLevel false → s.ciu.eng.accepted = some true →
    s.queueOnly .jacks →
    ((s.sgu.grants.filter fun g => decide (g.unit ≠ .jacks)).map GEntry.claim).sum ≤ s.par.budgetBattery →
    let eng := { s.ciu.eng.sampled false with accepted := some false, changed := true }
    let w := ({ s with ciu := { s.ciu with eng := eng }, sgu := { s.sgu with budget := s.par.budgetBattery } } : State).offer
      (.inputChange .eng false true)
    ((s.unit .jacks).state ≠ .idle → (s.unit .jacks).origin = some .user →
      exec (.inputAccept .eng false) s = .next (finish (w.endUnit .jacks .interlock))) ∧
    ∀ st f, s.Levelling st f → st ≠ .idle → ∃ t, exec (.inputAccept .eng false) s = .next t ∧
      LevelEnded s t st .failed .interlock ∧ t.flt = s.flt ∧ t.sgu.budget = s.par.budgetBattery ∧ t.ciu.eng = eng ∧
      t.ciu.stow = s.ciu.stow ∧ t.ciu.park = s.ciu.park ∧ t.wgd = s.wgd ∧ t.sst = s.sst ∧ NodesStand s t

/-- PARK accepted as released in RUN with nothing working: with every populated channel STOWED no alarm rises; otherwise the
travel alarm rises and TRAVEL_ALARM is raised (R141, R147, R148, R149). A room that extends for the user when PARK is released,
the only work there is, has its work ended with INTERLOCK (R145), before the alarm is judged by the model's choice (log entry
58). One INPUT_ACCEPT is one frame-end sample of PARK (log entry 24). The other terms end what they permit in the same way. With
slides-need-jacks on, a report that clears the contact latch of a corner jack at rest raises GROUND_LOST and ends the work of
the room that extends for the user, with INTERLOCK (R53, R54, R145), in this order by the model's choice (log entry 53). While
jacks retract for the user, a room end whose validated condition leaves LIMIT_RET takes its room out of STOWED, and the work of
JACKS ends with INTERLOCK (R32, R146). -/
def Obligations.ParkReleaseIsJudged : Prop :=
  (∀ s : State, Resting s → s.sst.phase = .run → s.ciu.park.newLevel false → s.ciu.park.accepted = some true →
    ∃ t, exec (.inputAccept .park false) s = .next t ∧
      t.ciu.park.accepted = some false ∧ t.ciu.park.changed = true ∧
      t.ciu.travel = decide (∀ c, s.populated c = true → s.rest c = .stowed) ∧
      t.ciu.alarm = decide (¬∀ c, s.populated c = true → s.rest c = .stowed) ∧
      t.flt = (if ∀ c, s.populated c = true → s.rest c = .stowed then s.flt
        else (s.flt.raise .travelAlarm .coach s.frame).1) ∧
      (∀ c, t.chan c = s.chan c) ∧ (∀ u, t.unit u = s.unit u) ∧
      Aside s t ∧ NodesStand s t ∧ GrantsStand s t ∧ t.lvs = s.lvs ∧ t.wgd = s.wgd ∧ t.ciu.stow = s.ciu.stow) ∧
  (∀ (r : Fin 4) (s : State), Steady s → s.sst.phase = .run → s.ciu.park.newLevel false → s.ciu.park.accepted = some true →
    (s.unit (.room r)).state ≠ .idle → (s.unit (.room r)).origin = some .user → s.queueOnly (.room r) →
    (∃ c ∈ s.unitChans (.room r), ∃ m, (s.chan c).motion = some m ∧ m.dir = .extend) →
    (∀ c, c ∉ unitSlots (.room r) → (s.chan c).motion = none) → s.lvs.seq.state = .idle → s.ciu.travel = false →
    (∃ c, s.populated c = true ∧ s.rest c ≠ .stowed) →
    let w := (({ s with ciu := { s.ciu with
      park := { s.ciu.park.sampled false with accepted := some false, changed := true } } } : State).offer
        (.inputChange .park false true)).endUnit (.room r) .interlock
    exec (.inputAccept .park false) s =
      .next (finish (State.raised { w with ciu := { w.ciu with alarm := true } } .travelAlarm .coach))) ∧
  (∀ (n : Fin 8) (b : Bool) (reply : SlotReply) (f : Status) (r : Fin 4) (s : State), Steady s → (s.node n).state = .ready →
    statusOf n reply = some f → s.lvs.seq.state = .idle → s.par.slidesNeedJacks = true →
    (s.unit (.room r)).state ≠ .idle → (s.unit (.room r)).origin = some .user → s.queueOnly (.room r) →
    (∃ e ∈ s.unitChans (.room r), ∃ m, (s.chan e).motion = some m ∧ m.dir = .extend) →
    (∀ e, e ∉ unitSlots (.room r) → (s.chan e).motion = none) →
    let c := if b then chanB n else chanA n
    let d := if b then chanA n else chanB n
    let jack := s.jackPar c
    let pressure := if b then f.pressureB else f.pressureA
    c ∈ cornerChans → (s.chan c).kind = .jack → (s.chan c).latch = true →
    (pressure : Int) < (jack.contactThreshold : Int) - jack.contactHysteresis →
    (if b then f.condB else f.condA) = (s.chan c).cond → ((s.chan c).cond = .limitRet → (s.chan c).known = true) →
    (s.populated d = true → PlainReport s d (if b then f.condA else f.condB) (if b then f.pressureA else f.pressureB)) →
    ∃ t, exec (.slotIntake n reply) s = .next t ∧
      t.chan c = { s.intakeChan c (if b then f.countB else f.countA) (if b then f.currentB else f.currentA) pressure with
        latch := false } ∧
      (s.populated d = true → t.chan d = s.intakeChan d (if b then f.countA else f.countB) (if b then f.currentA else f.currentB)
        (if b then f.pressureA else f.pressureB)) ∧
      (∀ e ∈ unitSlots (.room r), t.chan e = ((s.chan e).endMotion s.frame).unwait) ∧
      (∀ e, e ∉ s.nodeChans n → e ∉ unitSlots (.room r) → t.chan e = s.chan e) ∧
      t.unit (.room r) = .reset ∧ (∀ u, u ≠ .room r → t.unit u = s.unit u) ∧ t.sgu.queue = [] ∧
      (t.sgu.grants = s.sgu.grants.filter fun e => decide (e.unit ≠ .room r)) ∧
      t.flt = (s.flt.raise .groundLost (.chan c) s.frame).1 ∧
      t.pli = ((s.raised .groundLost (.chan c)).offer (.motionEnd (.room r) .interlock)).transmitted ∧
      (∀ m, m ≠ n → t.node m = { s.node m with image := (t.node m).image }) ∧ SlotAside n s t ∧ t.lvs = s.lvs ∧ t.wgd = s.wgd ∧
      t.ciu.stow = s.ciu.stow ∧ t.ciu.park = s.ciu.park ∧ t.ciu.alarm = s.ciu.alarm) ∧
  ∀ (r : Fin 4) (reply : SlotReply) (f : Status) (s : State), Steady s →
    let c := roomFront r
    let d := roomRear r
    let n := nodeOf c
    (s.node n).state = .ready → statusOf n reply = some f → s.lvs.seq.state = .idle →
    (s.unit .jacks).state ≠ .idle → (s.unit .jacks).origin = some .user → s.queueOnly .jacks →
    (∃ e ∈ jackChans, ∃ m, (s.chan e).motion = some m ∧ m.dir = .retract) →
    (∀ e, e ∉ jackChans → (s.chan e).motion = none) →
    s.roomUsed r = true → (s.chan c).kind = .roomEnd → (s.chan c).known = true → (s.chan c).cond = .limitRet →
    (s.outRec c).candidate = some .normal → f.condA = .normal →
    (s.populated d = true → PlainReport s d f.condB f.pressureB) →
    ∃ t, exec (.slotIntake n reply) s = .next t ∧
      t.chan c = { s.intakeChan c f.countA f.currentA f.pressureA with cond := .normal } ∧ t.roomRest r ≠ .stowed ∧
      (s.populated d = true → t.chan d = s.intakeChan d f.countB f.currentB f.pressureB) ∧
      (∀ e ∈ jackChans, t.chan e = ((s.chan e).endMotion s.frame).unwait) ∧
      (∀ e, e ∉ s.nodeChans n → e ∉ jackChans → t.chan e = s.chan e) ∧
      t.unit .jacks = .reset ∧ (∀ u, u ≠ .jacks → t.unit u = s.unit u) ∧ t.sgu.queue = [] ∧
      (t.sgu.grants = s.sgu.grants.filter fun e => decide (e.unit ≠ .jacks)) ∧ t.sgu.pump = false ∧ t.flt = s.flt ∧
      t.pli = (s.offer (.motionEnd .jacks .interlock)).transmitted ∧
      (∀ m, m ≠ n → t.node m = { s.node m with image := (t.node m).image }) ∧ SlotAside n s t ∧ t.lvs = s.lvs ∧ t.wgd = s.wgd ∧
      t.ciu.stow = s.ciu.stow ∧ t.ciu.park = s.ciu.park ∧ t.ciu.alarm = s.ciu.alarm

/-- Edges of an ARMED guard that trip nothing: a first edge starts the calm timer, an edge within 2000 µs is ignored, any
other gives a measurement, wind-factor by the period, rounded, at most 600; calm, 500 frames without an edge, is a measurement of
0. A measurement of at least wind-trip counts, a smaller one sets the count to 0 (R130, R131, R132, R134; log entry 22 for a
time before the last edge, which is ignored, and for times without a bound; log entry 40 for edges before frame 0). -/
def Obligations.EdgesMeasureTheWind : Prop :=
  ∀ s : State, Quiet s → s.restartFrame = false → s.wgd.state = .armed →
    (∀ time, s.wgd.lastEdge = none → exec (.windEdge time) s =
      .next (State.sending { s with wgd := { s.wgd with lastEdge := some time, calmStart := some s.frame } })) ∧
    (∀ time last, s.wgd.lastEdge = some last → time < last + 2000 → exec (.windEdge time) s = .next s.sending) ∧
    (∀ time last, s.wgd.lastEdge = some last → last + 2000 ≤ time →
      let speed := min 600 (roundDiv s.par.windFactor (time - last)).toNat
      (speed : Int) < roundDiv (s.par.windTrip * 3) 2 → (s.par.windTrip ≤ speed → s.wgd.trips ≤ 1) →
      exec (.windEdge time) s = .next (State.sending { s with wgd := { s.wgd with
        lastEdge := some time, calmStart := some s.frame, lastPeriod := some (time - last), speed := speed
        trips := if s.par.windTrip ≤ speed then s.wgd.trips + 1 else 0 } })) ∧
    (∀ start, s.frameOver = true → s.wgd.calmStart = some start → 500 ≤ (s.frame - start).toNat → 0 < s.par.windTrip →
      exec .calmExpiry s = .next (State.sending { s with wgd := { s.wgd with
        speed := 0, lastEdge := none, calmStart := none, trips := 0 } }))

/-- The third measurement in a row of at least wind-trip, or one of at least wind-trip × 3 / 2, trips the ARMED guard:
WIND_TRIP is raised, and an awning that is STOWED, or that the layout does not have (log entry 19), needs no retract (R134,
R136). The half of an odd wind-trip is rounded up, which is the model's reading of R2 (log entry 28). An awning that can be
brought home and is not STOWED gets WIND work at once: it is granted and retracts to END (R8, R9, R10, R136). Before RUN the
retract is DEFERRED. Work for a stow or for the wind COVERS it; a retract for the user becomes WIND work under its grant; an
extend for the user, from whatever rest position, and user work that waits in either direction end with INTERLOCK before the
retract begins; a retract of an extend that stands on its closed switch ends at once, DONE. A locked or disabled awning, one
whose node is not READY, and a request that the SGU refuses, in CUTOFF or with the claim over B, FAIL with AWNING_EXPOSED. Over
a budget that a USER room's grant holds, that grant is preempted (R69, R135, R136, R137). The examination that grants and
preempts comes after WIND_GUARD is offered, and so do the notices of the units it ends: the rules give no order here, it is the
model's choice (log entry 5). -/
def Obligations.TripBringsTheAwningHome : Prop :=
  (∀ (time last : Nat) (s : State), Resting s → s.restartFrame = false → s.wgd.lastEdge = some last → last + 2000 ≤ time →
    let speed := min 600 (roundDiv s.par.windFactor (time - last)).toNat
    (s.par.windTrip ≤ speed ∧ 2 ≤ s.wgd.trips) ∨ roundDiv (s.par.windTrip * 3) 2 ≤ (speed : Int) →
    let rest := fun t : State =>
      Aside s t ∧ NodesStand s t ∧ t.lvs = s.lvs ∧ t.ciu.stow = s.ciu.stow ∧ t.ciu.park = s.ciu.park
    let tripped := fun r : RetractState => { s.wgd with
      state := .tripped, trips := 0, bypassed := false, lastEdge := some time, calmStart := some s.frame
      lastPeriod := some (time - last), speed := speed, retract := r }
    let homing : Motion :=
      { dir := .retract, target := .toEnd, origin := .wind, attended := false, deadline := none, start := s.frame
        winStart := s.frame, winPos := (s.chan 14).position, stallCount := 0, graceEnd := s.frame + 100, arrived := false }
    ((s.populated 14 = false ∨ s.rest 14 = .stowed) → ∃ t, exec (.windEdge time) s = .next t ∧
      t.wgd = tripped .notNeeded ∧ t.flt = (s.flt.raise .windTrip .coach s.frame).1 ∧ (∀ u, t.unit u = s.unit u) ∧
      (∀ c, t.chan c = s.chan c) ∧ rest t ∧ GrantsStand s t) ∧
    (s.populated 14 = true → s.rest 14 ≠ .stowed → s.sst.phase = .run → (s.chan 14).state = .idle → (s.chan 14).cond ≠ .limitRet →
      (s.node 7).state = .ready → s.sgu.supply ≠ .cutoff → (s.motorPar 14).claim ≤ s.sgu.budget →
      ∃ t, exec (.windEdge time) s = .next t ∧
        t.wgd = tripped .requested ∧ t.flt = (s.flt.raise .windTrip .coach s.frame).1 ∧
        t.unit .awning = { state := .active, origin := some .wind, cls := some .wind, claim := some (s.motorPar 14).claim
                           pending := [] } ∧
        (∀ u, u ≠ .awning → t.unit u = s.unit u) ∧
        t.chan 14 = { s.chan 14 with
          state := .moving, extendEnd := false, dragCount := 0, dragReported := false, motion := some homing } ∧
        (∀ c, c ≠ 14 → t.chan c = s.chan c) ∧ t.sgu.queue = [] ∧
        t.sgu.grants = [⟨.awning, .wind, (s.motorPar 14).claim, s.sgu.nextOrder + 1⟩] ∧ rest t)) ∧
  ∀ (time last : Nat) (s : State), Steady s → s.restartFrame = false → s.wgd.state = .armed → s.wgd.lastEdge = some last →
    last + 2000 ≤ time → s.populated 14 = true → s.pli.resetPending = false →
    let out := s.rest 14 ≠ .stowed
    let speed := min 600 (roundDiv s.par.windFactor (time - last)).toNat
    (s.par.windTrip ≤ speed ∧ 2 ≤ s.wgd.trips) ∨ roundDiv (s.par.windTrip * 3) 2 ≤ (speed : Int) →
    let awning := s.unit .awning
    let x := s.chan 14
    let claim := s.claimOf .awning
    let tripped := fun r : RetractState => State.raised { s with wgd := { s.wgd with
      state := .tripped, trips := 0, bypassed := false, lastEdge := some time, calmStart := some s.frame
      lastPeriod := some (time - last), speed := speed, retract := r } } .windTrip .coach
    let told := fun (r : RetractState) (w : State) => w.offer (.windGuard .tripped .armed speed r)
    let becomes := fun w : State => exec (.windEdge time) s = .next (finish w)
    let ready := x.state ≠ .faulted ∧ x.state ≠ .disabled ∧ (s.node 7).state = .ready
    let begun := fun t : State => exec (.windEdge time) s = .next t ∧ t.wgd = (tripped .requested).wgd ∧
      t.flt = (tripped .requested).flt ∧
      t.unit .awning = { state := .active, origin := some .wind, cls := some .wind, claim := some claim, pending := [] } ∧
      (t.chan 14).motion = some (s.newMotion 14 .retract .wind none) ∧ (t.chan 14).state = .moving ∧ t.sgu.queue = [] ∧
      t.sgu.grants = [⟨.awning, .wind, claim, s.sgu.nextOrder + 1⟩] ∧ Aside s t ∧ NodesStand s t ∧ t.lvs = s.lvs
    let outward := (awning.state = .active ∧ ∃ m, x.motion = some m ∧ m.dir = .extend) ∨
      (awning.state = .waiting ∧ x.state = .waiting ∧ x.motion = none)
    (out → s.sst.phase ≠ .run → awning.state = .idle → awning.origin = none → becomes (told .deferred (tripped .deferred))) ∧
    (out → s.sst.phase = .run → awning.state ≠ .idle → (awning.origin = some .stow ∨ awning.origin = some .wind) →
      becomes (told .covered (tripped .covered))) ∧
    (∀ m, out → s.sst.phase = .run → awning.state = .active → awning.origin = some .user → x.motion = some m →
      m.dir = .retract →
      let w := ((tripped .requested).setUnit .awning { awning with origin := some .wind, cls := some .wind }).setChan 14
        { x with motion := some { m with origin := .wind, attended := false, deadline := none } }
      becomes (told .requested { w with sgu := { w.sgu with
        grants := w.sgu.grants.map fun (g : GEntry) => if g.unit = .awning then { g with cls := .wind } else g } })) ∧
    (out → s.sst.phase = .run → awning.state = .idle → awning.origin = none →
      (¬ready ∨ s.sgu.supply = .cutoff ∨ s.sgu.budget < claim) →
      becomes (told .failed ((tripped .failed).raised .awningExposed (.unit .awning)))) ∧
    (s.sst.phase = .run → outward → awning.origin = some .user → x.lock = none → ready →
      s.sgu.supply ≠ .cutoff → claim ≤ s.sgu.budget → (∀ e ∈ s.sgu.queue, e.unit = .awning) →
      (∀ g ∈ s.sgu.grants, g.unit = .awning) →
      let ended := told .requested ((tripped .requested).offer (.motionEnd .awning .interlock))
      (out → x.cond ≠ .limitRet → ∃ t, begun t ∧ t.pli = ended.pli.transmit ∧
        (∀ c, c ≠ 14 → t.chan c = s.chan c) ∧ ∀ u, u ≠ .awning → t.unit u = s.unit u) ∧
      (s.rest 14 = .stowed → awning.state = .active → s.ciu.stow.state = .idle → ∃ t, exec (.windEdge time) s = .next t ∧ t.wgd = (tripped .done).wgd ∧ t.flt = (tripped .done).flt ∧
        t.pli = (ended.offer (.motionEnd .awning .ended)).pli.transmit ∧ t.unit .awning = .reset ∧
        (t.chan 14).motion = none ∧ (t.chan 14).state = .idle ∧ (t.chan 14).position = 0 ∧ (t.chan 14).known = true ∧
        t.sgu.queue = [] ∧ t.sgu.grants = [] ∧ (∀ c, c ≠ 14 → t.chan c = s.chan c) ∧ (∀ u, u ≠ .awning → t.unit u = s.unit u) ∧
        Aside s t ∧ NodesStand s t ∧ t.lvs = s.lvs)) ∧
    (∀ r g, out → s.sst.phase = .run → awning = .reset → x.state = .idle → x.motion = none → x.cond ≠ .limitRet → ready →
      s.sgu.supply ≠ .cutoff → claim ≤ s.sgu.budget → s.sgu.queue = [] → s.sgu.grants = [g] → g.unit = .room r → g.cls = .user →
      (s.unit (.room r)).state ≠ .idle → (s.unit (.room r)).origin = some .user → s.sgu.budget < g.claim + claim →
      ∃ t, begun t ∧ t.pli = ((told .requested (tripped .requested)).offer (.motionEnd (.room r) .preempted)).pli.transmit ∧
        t.unit (.room r) = .reset ∧ (∀ c ∈ unitSlots (.room r), t.chan c = ((s.chan c).endMotion s.frame).unwait) ∧
        (∀ c, c ≠ 14 → c ∉ unitSlots (.room r) → t.chan c = s.chan c) ∧
        ∀ u, u ≠ .awning → u ≠ .room r → t.unit u = s.unit u)

/-- The guard is armed by GUARD_RESET with the speed under the reset level, and at the end of a hold-off: counter, deadline,
retract state and bypassed go to their reset values, WIND_TRIP and AWNING_EXPOSED end, then WIND_GUARD is offered, and nothing
else changes. Before its deadline a hold-off goes on. GUARD_RESET on an
ARMED guard is OK and changes nothing; with the wind present it is WIND_PRESENT (R138, R139, R140, R167). In FOLLOW mode a
measurement below the reset level takes a TRIPPED guard to HOLD_OFF with its deadline, and one at or above it takes a guard in
HOLD_OFF back to TRIPPED; an awning that is STOWED, or that the layout does not have (log entry 19), then needs no retract (R136,
R139). -/
def Obligations.GuardIsArmed : Prop :=
  ∀ s : State, Quiet s →
    let armed := fun w : State => (({ w with wgd := { w.wgd with
      state := .armed, trips := 0, holdOff := none, retract := .none, bypassed := false } } : State).lifted .windTrip
        .coach).lifted .awningExposed (.unit .awning) |>.offer (.windGuard .armed s.wgd.state s.wgd.speed .none)
    let single := s.flt.single .windTrip .coach ∧ s.flt.single .awningExposed (.unit .awning)
    (∀ f, s.frameOver = true → s.wgd.state = .holdOff → s.wgd.holdOff = some f → single →
      exec .holdOffExpiry s = .next (State.sending (if (s.frame - f).toNat < 2147483648 then armed s else s))) ∧
    (∀ tag, Hears s →
      (s.wgd.state ≠ .armed → s.wgd.speed < s.par.windTrip - s.par.windHysteresis → single →
        exec (.guardReset tag) s = .next (armed (s.heard.replied (replyTo 0x0D tag [0]))).sending) ∧
      (s.wgd.state = .armed →
        exec (.guardReset tag) s = .next (s.heard.replied (replyTo 0x0D tag [0])).sending) ∧
      (s.wgd.state ≠ .armed → s.par.windTrip - s.par.windHysteresis ≤ s.wgd.speed →
        exec (.guardReset tag) s = .next (s.heard.replied (replyTo 0x0D tag [10])).sending)) ∧
    ∀ time last, s.restartFrame = false → s.wgd.lastEdge = some last → last + 2000 ≤ time →
      let speed := min 600 (roundDiv s.par.windFactor (time - last)).toNat
      let g := { s.wgd with
        lastEdge := some time, calmStart := some s.frame, lastPeriod := some (time - last), speed := speed }
      let present := s.par.windTrip - s.par.windHysteresis ≤ speed
      let becomes := fun w : State => exec (.windEdge time) s = .next w.sending
      (s.wgd.state = .tripped → present ∨ s.par.windMode ≠ .follow → becomes { s with wgd := g }) ∧
      (s.wgd.state = .tripped → ¬present → s.par.windMode = .follow → s.flt.single .awningExposed (.unit .awning) →
        becomes ((({ s with wgd := { g with
          state := .holdOff, holdOff := some (s.frame + BitVec.ofNat 32 (s.par.windHoldOff / 5)) } } : State).offer
            (.windGuard .holdOff .tripped speed s.wgd.retract)).lifted .awningExposed (.unit .awning))) ∧
      (s.wgd.state = .holdOff → ¬present → becomes { s with wgd := g }) ∧
      (s.wgd.state = .holdOff → present → (s.populated 14 = false ∨ s.rest 14 = .stowed) →
        becomes (({ s with wgd := { g with
          state := .tripped, holdOff := none, bypassed := false, retract := .notNeeded } } : State).offer
            (.windGuard .tripped .holdOff speed .notNeeded)))

/-- LINK_SILENCE_TIMEOUT, 400 frames after the later of RUN and the last valid frame: the silence holds, the work of every USER
unit ends with SILENCE, in unit order, and LINK_SILENCE is raised; other work goes on. LEVEL work on JACKS ends with SILENCE and
its sequence ABORTED, and the notices offered are MOTION_END (JACKS, SILENCE), LEVEL_DONE and FAULT_RAISED, in this order (R107,
R178, R179). The unit order is the model's choice (log entry 51). -/
def Obligations.SilenceEndsTheWork : Prop :=
  ∀ (f : FrameNo) (s : State), s.frameOver = true → s.pli.silenceStart = some f → 400 ≤ (s.frame - f).toNat →
    let t := ({ s with pli := { s.pli with silenceStart := none, silent := true } } : State)
    (Steady s → (∀ u, (s.unit u).origin ≠ some .level) →
      ((∀ u, (s.unit u).origin ≠ some .user) ∨
        ∀ e ∈ s.sgu.queue, (s.unit e.unit).origin = some .user ∧ (s.unit e.unit).state ≠ .idle) →
      exec .linkSilenceTimeout s = .next (finish (((allUnits.filter fun u => decide ((s.unit u).origin = some .user)).foldl
        (fun w u => w.endUnit u .silence) t).raised .linkSilence .coach))) ∧
    ∀ st g, s.Levelling st g → st ≠ .idle → ∃ w, exec .linkSilenceTimeout s = .next w ∧
      LevelEnded s w st .aborted .none ∧ w.flt = (s.flt.raise .linkSilence .coach s.frame).1 ∧
      w.pli = (State.raised ((t.offer (.motionEnd .jacks .silence)).offer (.levelDone .aborted .none st s.lvs.seq.passes
        s.atu.record.pitch s.atu.record.roll s.lvs.seq.clamped)) .linkSilence .coach).transmitted ∧
      w.pli.silent = true ∧ w.pli.silenceStart = none ∧
      Aside s w ∧ NodesStand s w ∧ w.wgd = s.wgd ∧ w.ciu.stow = s.ciu.stow ∧ w.ciu.park = s.ciu.park

/-- A commit in flight ends at a frame end, and inside a frame COMMIT_COMPLETE does nothing. Completed by the 40th frame end with
the copy read back: the image is the copy under its layout code, COMMIT_DONE says OK. Otherwise, or at the 40th frame end:
COMMIT_DONE says FAILED and STORE_INVALID is raised; the image that then stands is not given (R187; log entry 8). Of a report and
the time limit at the 40th frame end, the row given first decides (log entry 34). -/
def Obligations.CommitEnds : Prop :=
  ∀ (k : Commit) (s : State), Steady s → s.sst.commit = some k →
    let frames := (s.frame - k.start).toNat
    (s.frameOver = true → frames ≤ 40 → exec (.commitComplete true) s = .next (finish (({ s with sst := { s.sst with
      image := { params := k.copy, layout := k.layout, crcGood := true }, commit := none, ref := some k.copy } } : State).offer
        (.commitDone true)))) ∧
    (s.frameOver = true →
      let failed := fun im => State.raised (({ s with
        sst := { s.sst with image := im, commit := none }, freeCount := s.freeCount + 1 } : State).offer (.commitDone false))
        .storeInvalid .coach
      ∃ im, exec (.commitComplete false) s = .next (finish (failed im)) ∧
        (40 < frames → exec (.commitComplete true) s = .next (finish (failed im))) ∧
        exec .commitTimeout s = .next (finish (if 40 ≤ frames then failed im else s))) ∧
    (s.frameOver = false → ∀ agrees, exec (.commitComplete agrees) s = .next (finish s))

/-! ## The panel line (chapter 11) -/

/-- The receiver's table: what one byte does in each state while no complete frame is outstanding, and what a gap of 20 ms, 4
frames, since SYNC or the last byte does to a partial frame at the frame end (R1, R170). -/
def Obligations.ReceiverFollowsTheTable : Prop :=
  ∀ s : State, Quiet s →
    let p := s.pli
    let hunting := { p with rx := RxState.hunt, rxLen := 0, rxBytes := [], gapStart := none }
    let now := some s.frame
    let becomes := fun (q : Pli) (c : Instr) => exec c s = .next (State.sending { s with pli := q })
    (p.rx = .hunt → ∀ v e, becomes (if v = 0xA5#8 ∧ e = false then { p with rx := .length, gapStart := now } else p)
      (.panelByteReceive ⟨v, e⟩)) ∧
    (p.rx = .length →
      (∀ v, becomes { hunting with brokenFrames := min 65535 (p.brokenFrames + 1) } (.panelByteReceive ⟨v, true⟩)) ∧
      ∀ v : Byte, becomes (if 2 ≤ v.toNat ∧ v.toNat ≤ 60 then { p with rx := .body, rxLen := v.toNat, rxBytes := [], gapStart := now }
        else { hunting with lengthErrors := min 65535 (p.lengthErrors + 1) }) (.panelByteReceive ⟨v, false⟩)) ∧
    (p.rx = .body → p.rxBytes.length < p.rxLen + 2 →
      (∀ v, becomes { hunting with brokenFrames := min 65535 (p.brokenFrames + 1) } (.panelByteReceive ⟨v, true⟩)) ∧
      ∀ v, becomes { p with rxBytes := p.rxBytes ++ [v], gapStart := now } (.panelByteReceive ⟨v, false⟩)) ∧
    (p.rx = .hunt → becomes p .panelGapTimeout) ∧
    (p.rx = .length ∨ (p.rx = .body ∧ p.rxBytes.length < p.rxLen + 2) →
      let due := s.frameOver = true ∧ ∃ f, p.gapStart = some f ∧ 4 ≤ (s.frame - f).toNat
      (due → becomes { hunting with brokenFrames := min 65535 (p.brokenFrames + 1) } .panelGapTimeout) ∧
      (¬due → becomes p .panelGapTimeout))

/-- A frame with all its bytes: with a good CRC it is a valid frame, and its request is the command its KIND and payload
spell; with any other CRC it is discarded and counted. The receiver hunts again either way (R170, R171, R173). -/
def Obligations.CompleteFrameIsJudged : Prop :=
  ∀ (kind tag hi lo : Byte) (payload : List Byte) (s : State), Quiet s → s.pli.rx = .body →
    s.pli.rxLen = payload.length + 2 → s.pli.rxBytes = kind :: tag :: payload ++ [hi, lo] →
    let hunting := { s.pli with rx := RxState.hunt, rxLen := 0, rxBytes := [], gapStart := none }
    (crc16 (u8 s.pli.rxLen ++ kind :: tag :: payload) = hi ++ lo →
      exec .panelFrameReceive s = exec (decodeRequest ⟨kind, tag, payload⟩) { s with pli := hunting }) ∧
    (crc16 (u8 s.pli.rxLen ++ kind :: tag :: payload) ≠ hi ++ lo →
      exec .panelFrameReceive s = .next (State.sending { s with
        pli := { hunting with crcErrors := min 65535 (s.pli.crcErrors + 1) } }))

/-- TRANSMIT_DONE of a reply empties the reply slot; of a notice it leaves the slot as it is. With nothing held, or nothing that
may be taken, the transmitter takes its next frame; but with a soft reset due it takes none, which is the model's choice (log entry
50), and what it takes it takes at the event's end (log entry 31). Otherwise the oldest held frame, whatever it is, is taken and decided then:
its reply is placed in the slot and the rest stay held; a request that is only answered changes nothing else (R173, R175, R188,
R189). -/
def Obligations.TransmissionEnds : Prop :=
  ∀ (x : TxFrame) (s : State), Quiet s → s.pli.tx = some x →
    let sent := { s.pli with tx := none, slot := if x.isReply then none else s.pli.slot }
    (s.pli.holding = [] ∨ sent.slot ≠ none ∨ s.pli.resetPending = true ∨ s.sst.phase = .load →
      exec .transmitDone s = .next (State.sending { s with pli := sent })) ∧
    (∀ f rest, s.pli.holding = f :: rest → sent.slot = none → s.pli.resetPending = false → s.sst.phase ≠ .load →
      let w := ({ s with pli := { sent with holding := rest } } : State)
      let served := serve (decodeRequest f) w
      let reply := replyTo f.kind f.tag served.reply
      (∃ t, exec .transmitDone s = .next t ∧ t.pli.holding = rest ∧ t.pli.slot = some reply) ∧
      (served.st = w → served.acts = [] → exec .transmitDone s = .next (w.replied reply).sending)) ∧
    ∀ tag rest, s.pli.holding = ⟨0x08, tag, []⟩ :: rest → sent.slot = none → s.pli.resetPending = false →
      s.sst.phase ≠ .load → s.lvs.seq.state = .idle →
      exec .transmitDone s = .next (State.sending { s with
        pli := { sent with holding := rest, slot := some (replyTo 0x08 tag [0]) } })

/-- A request that arrives while a reply waits or goes out is held, two of them at most; a third is discarded and counted as an
overrun (R171, R173, R178). That a request row is the arrival of its whole valid frame, which may wait in the holding, is the
model's choice (log entry 6). -/
def Obligations.RequestIsHeld : Prop :=
  ∀ (i : Instr) (f : Frame) (s : State), Quiet s → encodeRequest i = some f → s.pli.slot ≠ none → s.pli.silent = false →
    (s.pli.holding.length < 2 → exec i s = .next (State.sending { s.heard with
      pli := { s.heard.pli with holding := s.pli.holding ++ [f] } })) ∧
    (2 ≤ s.pli.holding.length → exec i s = .next (State.sending { s.heard with
      pli := { s.heard.pli with overruns := min 65535 (s.pli.overruns + 1) } }))

/-! ## Requests that read (R23, R41, R90, R143, R150, R166, R173, R181, R184) -/

/-- The reading requests, taken at once: each answers OK with its record and changes nothing else, but that STATUS clears the
reset cause and notices-lost and INPUTS the CHANGED flags. The bytes of CHANNEL, NODES, INPUTS, LEVEL_RESULT, STOW_RESULT,
STATUS and FAULTS are written out, absent fields as all ones or the most negative value (R191); FAULTS gives at most 4 entries
from the start index on, 13 bytes each. A channel or node that is none is BAD_SUBJECT; a part above 4, a start index above 31, a
frame of no request are BAD_REQUEST (R23, R41, R90, R128, R140, R143, R150, R166, R173, R181, TABLE 13-2, TABLE 13-5). The
model's choices: the code values (log entries 14 and 60), the widths of fields TABLE 13-2 does not name (log entry 15), the
record of a slot of kind NONE and an absent motion record (log entry 16), LEVEL_RESULT before any result (log entries 17 and
68), the subject of a coach fault in FAULTS, sent as 0x00 and not as all ones (log entry 65), and the frames counted of a window
that does not run and a skew or speed beyond four bytes (log entry 45). -/
def Obligations.ReadsAnswer : Prop :=
  ∀ (tag : Byte) (s : State), Quiet s → Hears s →
    let opt8 := fun v : Option Nat => u8 (v.getD 0xFF)
    let opt32 := fun v : Option Nat => u32 (v.getD 0xFFFFFFFF)
    let signed32 := fun v : Option Int => i32 (v.getD (-2147483648))
    let left := fun d : FrameNo => if (s.frame - d).toNat < 2147483648 then 0 else (d - s.frame).toNat
    (∀ c : Fin 16,
      let x := s.chan c
      let u := s.unit (unitOfChan c)
      let motion := match x.motion with
        | none => u8 0xFF ++ i32 (-2147483648) ++ u8 0xFF ++ u8 0xFF ++ u32 0xFFFFFFFF
        | some m => u8 m.dir.code ++ i32 (match m.target with | .toEnd => 2147483647 | .at k => k) ++ u8 m.origin.code
            ++ flag m.attended ++ opt32 (m.deadline.map left)
      let room := fun r : Fin 4 =>
        let y := s.room r
        u8 r.val ++ u8 y.type.code ++ u8 (s.roomRest r).code ++ (if y.type = .twin then i32 y.skew ++ flag y.skewValid
          ++ u8 y.overLimit ++ u8 y.counted ++ opt8 (y.firstArrival.map RoomEnd.code) ++ opt32 (y.endWait.map left) else [])
      let g := s.wgd
      let guard := u8 g.state.code ++ u8 s.par.windMode.code ++ u8 g.trips ++ u16 g.speed ++ opt32 g.lastPeriod
        ++ opt32 (g.calmStart.map fun f => 500 - (s.frame - f).toNat) ++ opt32 (g.holdOff.map left) ++ u8 g.retract.code
        ++ flag g.bypassed
      exec (.channel tag (BitVec.ofNat 8 c.val)) s = .next (s.answered 0x02 tag
        (0 :: (u8 x.kind.code ++ opt8 (x.role.map Role.code) ++ u8 x.state.code ++ i32 x.position ++ flag x.known ++ i32 x.speed
          ++ u8 x.current ++ u8 x.pressure ++ u8 x.cond.code ++ flag x.latch ++ flag x.extendEnd ++ u8 (s.rest c).code
          ++ opt8 (x.lock.map FaultKind.code) ++ u16 x.dragCount ++ motion
          ++ (if s.populated c then u8 u.state.code ++ opt8 (u.origin.map Origin.code) else u8 0xFF ++ u8 0xFF)
          ++ (if x.kind = .roomEnd then ((roomOf c).map room).getD [] else []) ++ (if c = 14 then guard else []))))) ∧
    (∀ b : Byte, 16 ≤ b.toNat → exec (.channel tag b) s = .next (s.answered 0x02 tag [6])) ∧
    (∀ n : Fin 8,
      let x := s.node n
      exec (.nodes tag (BitVec.ofNat 8 n.val)) s = .next (s.answered 0x03 tag
        (0 :: (u8 x.state.code ++ u8 x.misses ++ u8 x.good ++ u8 x.retry ++ opt8 x.cursor ++ u16 x.missTotal ++ flag x.desc.isSome
          ++ x.desc.getD (List.replicate 10 0xFF#8) ++ opt8 (x.cause.map MismatchCause.code)
          ++ flag (decide (x.state ≠ .absent)))))) ∧
    (∀ b : Byte, 8 ≤ b.toNat → exec (.nodes tag b) s = .next (s.answered 0x03 tag [6])) ∧
    (let r := s.lvs.result
      let q := s.lvs.seq
      exec (.levelResult tag 0) s = .next (s.answered 0x09 tag
        (0 :: (u8 r.outcome.code ++ u8 r.cause.code ++ opt8 (r.endedIn.map LvState.code) ++ u8 r.passes ++ i16 r.pitch ++ i16 r.roll
          ++ flag r.clamped ++ ((jackChans.filter s.populated).flatMap fun c => signed32 (r.positions.lookup c)) ++ u8 q.state.code
          ++ u8 (if q.state = .idle then 0xFF else q.passes)))) ∧
      ∀ i : Fin 4,
        let entry := fun e : PlanEntry => i32 e.before ++ i32 e.height ++ i32 e.lift ++ i32 e.counts ++ signed32 e.target
          ++ flag e.target.isNone ++ flag e.clamped
        exec (.levelResult tag (BitVec.ofNat 8 (i.val + 1))) s = .next (s.answered 0x09 tag
          (0 :: (match q.plan.bind fun l => l[i.val]? with
            | none => [0]
            | some e => 1 :: entry e)))) ∧
    (∀ b : Byte, 4 < b.toNat → exec (.levelResult tag b) s = .next (s.answered 0x09 tag [5])) ∧
    (let r := s.ciu.result
      let q := s.ciu.stow
      exec (.stowResult tag) s = .next (s.answered 0x0C tag
        (0 :: (u8 r.outcome.code ++ opt8 (r.trigger.map Trigger.code) ++ opt8 (r.step.map StowState.stepCode) ++ u8 r.cause.code
          ++ opt8 (r.subject.map subjectCode) ++ u8 q.state.code ++ opt8 (q.trigger.map Trigger.code)
          ++ opt32 (q.stepStart.map fun f => s.par.stowStepTime / 5 - (s.frame - f).toNat))))) ∧
    (∀ b : Byte, b.toNat ≤ 31 →
      let shown := (s.flt.entries.zipIdx.drop b.toNat).take 4
      exec (.faults tag b) s = .next (s.answered 0x11 tag
        (0 :: (u8 s.flt.entries.length ++ flag s.flt.lost ++ u8 shown.length ++ shown.flatMap fun p =>
          u8 p.2 ++ u8 p.1.kind.code ++ u8 (subjectCode p.1.subject)
            ++ u8 (p.1.severity.code * 16 + if p.1.present then 1 else 0) ++ u32 p.1.first.toNat ++ u32 p.1.last.toNat
            ++ u8 p.1.count)))) ∧
    (∀ b : Byte, 31 < b.toNat → exec (.faults tag b) s = .next (s.answered 0x11 tag [5])) ∧
    (∀ kind payload, isUnknown kind tag payload = true →
      exec (.unknownRequest kind tag payload) s = .next (s.answered kind tag [5])) ∧
    (let a := s.atu.record
      let unit := fun u => u8 ((s.unit u).state.code * 16 + ((s.unit u).origin.map Origin.code).getD 15)
      exec (.status tag) s = .next (State.answered { s with pli := { s.pli with resetCause := .none, lost := false } } 0x01 tag
        (0 :: (u8 s.pli.resetCause.code ++ u8 s.sst.phase.code ++ u8 s.sgu.supply.code ++ u16 s.sgu.batAvg
          ++ u8 a.state.code ++ i16 a.pitch ++ i16 a.roll ++ flag a.clamped ++ u16 a.rawX ++ u16 a.rawY
          ++ flag s.atu.capture.isSome ++ unit .jacks ++ unit (.room 0) ++ unit (.room 1) ++ unit (.room 2) ++ unit (.room 3)
          ++ unit .awning ++ u8 s.lvs.seq.state.code ++ u8 s.ciu.stow.state.code ++ u8 s.wgd.state.code ++ u16 s.wgd.speed
          ++ flag s.ciu.travel ++ flag s.ciu.alarm ++ u8 s.flt.entries.length ++ flag s.flt.lost ++ flag s.pli.lost
          ++ u8 s.pli.notices.length ++ flag s.sst.commit.isSome ++ u16 s.pli.crcErrors ++ u16 s.pli.lengthErrors
          ++ u16 s.pli.brokenFrames ++ u16 s.pli.overruns)))) ∧
    exec (.inputs tag) s = .next (State.answered { s with ciu := { s.ciu with
      ign := { s.ciu.ign with changed := false }, park := { s.ciu.park with changed := false }
      eng := { s.ciu.eng with changed := false } } } 0x04 tag
        (0 :: ([s.ciu.ign, s.ciu.park, s.ciu.eng].flatMap (fun i => opt8 (i.accepted.map fun b => if b then 1 else 0)
            ++ flag i.last ++ flag i.changed)
          ++ flag s.motionAny ++ flag s.slideExtend ++ flag s.awningExtend ++ flag s.levelPermit ++ flag s.jackRetract
          ++ flag s.ciu.travel ++ flag s.ciu.alarm)))

/-- PARAM_GET of a parameter of TABLE 12-3 with a subject of its scope that is populated: the value in force, the default, the
range, and whether the value differs from the set last loaded or committed; with no such set the flag is free. A start takes for
that set the image's, when its CRC is good, whether or not its layout code is that of the straps (log entry 9). The range of an
enumerated parameter and of the notice mask is the model's (log entry 25).
An id outside the table is BAD_REQUEST, any other subject BAD_SUBJECT (R184). -/
def Obligations.ParamGetAnswers : Prop :=
  (∀ (tag id subject : Byte) (s : State), Quiet s → Hears s →
    (paramRow id.toNat = none → exec (.paramGet tag id subject) s = .next (s.answered 0x0E tag [5])) ∧
    ∀ row, paramRow id.toNat = some row →
      (s.paramSubject row.scope subject = none → exec (.paramGet tag id subject) s = .next (s.answered 0x0E tag [6])) ∧
      ∀ sj, s.paramSubject row.scope subject = some sj →
        let reply := fun b => 0 :: (i32 (s.sst.params.get id.toNat sj) ++ i32 (Params.defaults.get id.toNat sj) ++ i32 row.lo
          ++ i32 row.hi ++ flag b)
        (∀ p, s.sst.ref = some p → exec (.paramGet tag id subject) s =
          .next (s.answered 0x0E tag (reply (decide (p.get id.toNat sj ≠ s.sst.params.get id.toNat sj))))) ∧
        (s.sst.ref = none → ∃ b, exec (.paramGet tag id subject) s =
          .next (State.answered { s with freeCount := s.freeCount + 1 } 0x0E tag (reply b)))) ∧
  ∀ (straps : BitVec 4) (s t : State), exec (.powerOn straps) s = .next t →
    t.sst.ref = if s.keptImage.crcGood then some s.keptImage.params else none

/-! ## Requests that change settings (chapters 5, 12) -/

/-- PARAM_SET in RUN of a part at rest, with no commit in flight and, for a tilt offset, no reference capture (no other busy
condition of TABLE 12-4 can hold at rest): the value is clamped to the range, a value of a step of 5 lowered to a multiple of 5,
and stored for its subject; the reply is OK, or OK_CLAMPED when the stored value is another, and the value. Image, channels,
units and faults stay; B follows budget-battery and budget-engine (R65, R184, R185). A changed tilt offset or gain makes the
record UNSETTLED and empties the histories, unless it is INVALID, and recomputes pitch and roll from the raw averages held (R79,
R81); before the first sample they stay as they are (R82; the model's reading of the two rules, log entry 44). The value in
force changes nothing. A parameter read back gives the value stored, and every other parameter is as before. Of the notice mask,
id 27, the enable of RESTARTED is stored set whatever is written, and the reply is OK_CLAMPED when that changes the value (R176,
R185); the other twelve enables are bits 1 to 12 of the value, and bits above them are dropped, with OK_CLAMPED: the model's
choice (log entry 18). -/
def Obligations.ParamSetStores : Prop :=
  ∀ (tag id subject : Byte) (value : BitVec 32) (row : ParamRow) (sj : Subject) (s : State), Resting s → Hears s →
    s.sst.phase = .run → s.sst.commit = none → paramRow id.toNat = some row → s.paramSubject row.scope subject = some sj →
    (id = 11 ∨ id = 12 → s.atu.capture = none) → (row.values = [] ∨ value.toInt ∈ row.values) →
    let v := value.toInt
    let clamped := if v < row.lo then row.lo else if row.hi < v then row.hi else v
    let stored : Int := if id = 27 then (value.toNat % 8192 / 2 * 2 + 1 : Nat)
      else if row.step5 then clamped - clamped % 5 else clamped
    ∃ t, exec (.paramSet tag id subject value) s = .next t ∧
      t.sst.params.get id.toNat sj = stored ∧
      (∀ id' sj' row', paramRow id' = some row' → s.paramSubject row'.scope (BitVec.ofNat 8 (subjectCode sj')) = some sj' →
        (id', sj') ≠ (id.toNat, sj) → t.sst.params.get id' sj' = s.sst.params.get id' sj') ∧
      t.pli.slot = some (replyTo 0x0F tag ((if stored = v then 0 else 1) :: i32 stored)) ∧
      t.sst.image = s.sst.image ∧ t.sst.ref = s.sst.ref ∧ (∀ c, t.chan c = s.chan c) ∧ (∀ u, t.unit u = s.unit u) ∧
      t.flt = s.flt ∧ t.wgd = s.wgd ∧ t.lvs = s.lvs ∧
      t.frame = s.frame ∧ t.sgu.supply = s.sgu.supply ∧ NodesStand s t ∧ GrantsStand s t ∧ t.ciu.stow = s.ciu.stow ∧
      t.sgu.budget = (if id = 7 ∨ id = 8 then (if s.engRunning then t.par.budgetEngine else t.par.budgetBattery)
        else s.sgu.budget) ∧
      (∀ k : Nat, k < 13 → t.par.noticeMask.getLsbD k =
        if id = 27 then decide (k = 0) || value.getLsbD k else s.par.noticeMask.getLsbD k) ∧
      ((id ≠ 11 ∧ id ≠ 12 ∧ id ≠ 13 ∧ id ≠ 14) → t.atu = s.atu) ∧
      (s.sst.params.get id.toNat sj = stored ∨ s.atu.record.state = .invalid → t.atu = s.atu) ∧
      (s.sst.params.get id.toNat sj ≠ stored → s.atu.record.state ≠ .invalid → (id = 11 ∨ id = 12 ∨ id = 13 ∨ id = 14) →
        let axis := fun avg offset gain : Nat => roundDiv (((avg : Int) - offset) * gain) 4096
        let limited := fun v : Int => max (-1500) (min 1500 v)
        let pitch := axis s.atu.record.rawX t.par.tiltOffsetX t.par.tiltGainX
        let roll := axis s.atu.record.rawY t.par.tiltOffsetY t.par.tiltGainY
        (s.atu.record.rawX ≠ 0 ∨ s.atu.record.rawY ≠ 0 → t.atu = { s.atu with record := { s.atu.record with
          state := .unsettled, pitch := limited pitch, roll := limited roll
          clamped := decide (limited pitch ≠ pitch ∨ limited roll ≠ roll), histP := [], histR := [] } }) ∧
        (s.atu.record.rawX = 0 → s.atu.record.rawY = 0 → t.atu = { s.atu with record := { s.atu.record with
          state := .unsettled, histP := [], histR := [] } }))

/-- COMMIT in RUN with none in flight copies the running set and the layout code; RESET is answered and waits for its reply to
be sent; REFERENCE in RUN without a capture, with the sequence IDLE and a record not INVALID, starts a capture, which skips the
block in progress (R85, R187, R189; log entry 30). -/
def Obligations.CommitResetAndReferenceStart : Prop :=
  ∀ (tag : Byte) (s : State), Quiet s → Hears s →
    (s.sst.phase = .run → s.sst.commit = none → exec (.commit tag) s = .next (State.answered { s with sst := { s.sst with
      commit := some { copy := s.sst.params, layout := s.sst.layoutCode, start := s.frame } } } 0x10 tag [0])) ∧
    exec (.reset tag) s = .next (State.answered { s with pli := { s.pli with resetPending := true } } 0x13 tag [0]) ∧
    (s.sst.phase = .run → s.atu.capture = none → s.lvs.seq.state = .idle → s.atu.record.state ≠ .invalid →
      exec (.reference tag) s = .next (State.answered { s with atu := { s.atu with
        capture := some { samples := 0, sumX := 0, sumY := 0, rangeX := none, rangeY := none
                          skip := !(decide (s.atu.blockCount = 0) && s.atu.scanned) } } } 0x0A tag [0]))

/-- Requests refused without an effect: NOT_READY before RUN; BUSY under a stow sequence, a commit, a capture or a level
sequence; SUPPLY in CUTOFF; BAD_SUBJECT and BAD_REQUEST for bytes that name nothing; WIND for an awning extend while the guard
is not ARMED. A byte that names nothing is refused before the phase is judged, a direction before its subject (log entry 23;
TABLE 1-6, TABLE 5-5, TABLE 6-4, TABLE 9-6; R11, R17, R85, R91, R151, R187, R191). A MOVE, a MOVE_JACK, and a LEVEL, each check
with those before it passed: BUSY for work of another origin, FAULTED or NODE_LOST for a channel that cannot move, SUPPLY for a
supply state that is not NORMAL or a claim beyond B, GEOMETRY, and under a failing permit INTERLOCK with the first that fails
(TABLE 1-6 steps 4 to 10, TABLE 1-7, TABLE 6-4 steps 4 to 13, TABLE 9-3): SLIDE_EXTEND for a room, AWNING_EXTEND for the awning
under the alarm, ALARM, JACK_RETRACT and ENGINE for the jacks, ATTITUDE, HOMED, LEVEL and ENGINE for a level sequence. A jack
that would join JACKS working for the user is refused so for itself alone, with MOTION_ANY in CUTOFF (R13, R144, R146, R149).
PARAM_SET in RUN: BAD_REQUEST for an id that is none or an enumerated value that is none, BAD_SUBJECT for a subject that the id
does not take, BUSY with a commit in flight and under each busy condition of TABLE 12-4 (R185). -/
def Obligations.RefusalsChangeNothing : Prop :=
  ∀ (tag : Byte) (s : State), Quiet s → Hears s →
    let refused := fun (c : Instr) (kind code : Byte) => exec c s = .next (s.answered kind tag [code])
    (∀ b, dirOf b = none → ∀ sj, refused (.move tag sj b) 0x05 5 ∧ ∀ j, refused (.moveJack tag j b) 0x05 5) ∧
    (∀ sj, unitOf sj = none → isJackByte sj = false → ∀ d, (dirOf d).isSome = true → refused (.move tag sj d) 0x05 6) ∧
    (∀ sj, unitOf sj = none → sj ≠ 0xFF#8 → refused (.stop tag sj) 0x06 6) ∧
    (∀ o : Byte, o ≠ 0 → o ≠ 1 → refused (.level tag o) 0x07 5) ∧
    (s.sst.phase ≠ .run →
      (∀ u d, (dirOf d).isSome = true → refused (.move tag (BitVec.ofNat 8 (subjectCode (.unit u))) d) 0x05 4) ∧
      (∀ j d, (dirOf d).isSome = true → refused (.moveJack tag j d) 0x05 4) ∧
      refused (.level tag 0) 0x07 4 ∧ refused (.reference tag) 0x0A 4 ∧ refused (.stow tag) 0x0B 4 ∧
      (∀ i sj v, refused (.paramSet tag i sj v) 0x0F 4) ∧ refused (.commit tag) 0x10 4) ∧
    (s.sst.phase = .run →
      (s.ciu.stow.state ≠ .idle → refused (.stow tag) 0x0B 3 ∧ refused (.level tag 1) 0x07 3 ∧
        ∀ u d, (dirOf d).isSome = true → s.configured u = true →
          refused (.move tag (BitVec.ofNat 8 (subjectCode (.unit u))) d) 0x05 3) ∧
      (s.ciu.stow.state = .idle → s.sgu.supply = .cutoff → refused (.stow tag) 0x0B 8) ∧
      (s.sst.commit ≠ none → refused (.commit tag) 0x10 3) ∧
      (s.atu.capture ≠ none → refused (.reference tag) 0x0A 3) ∧
      (s.lvs.seq.state ≠ .idle → refused (.reference tag) 0x0A 3 ∧ refused (.level tag 0) 0x07 3) ∧
      (s.wgd.state ≠ .armed → s.configured .awning = true → s.ciu.stow.state = .idle → (s.unit .awning).state = .idle →
        (s.chan 14).state = .idle → (s.node 7).state = .ready → refused (.move tag 0x45 1) 0x05 9)) ∧
    (s.sst.phase = .run →
      let named := fun (c : Instr) (kind permit : Byte) => exec c s = .next (s.answered kind tag [7, permit])
      let sound := fun l : List (Fin 16) => ∀ c ∈ l, (s.chan c).state ≠ .faulted ∧ (s.chan c).state ≠ .disabled
      let ready := fun l : List (Fin 16) => ∀ c ∈ l, (s.node (nodeOf c)).state = .ready
      let roomsIn := ∀ r, s.roomUsed r = true → s.roomRest r = .stowed
      let parked := s.ciu.park.accepted = some true
      let engine := s.par.pumpNeedsEngine = true → s.ciu.eng.accepted = some true
      let slide := parked ∧ s.ciu.alarm = false ∧ (s.par.slidesNeedJacks = true → ∀ c ∈ cornerChans, (s.chan c).latch = true)
      let permits := fun (u : UnitId) (extend retract : Instr) => match u with
        | .room _ => ¬slide → named extend 0x05 2
        | .awning => s.wgd.state = .armed → s.ciu.alarm = true → named extend 0x05 3
        | .jacks => (s.ciu.alarm = true → named extend 0x05 6) ∧ (s.ciu.alarm = false → ¬engine → named extend 0x05 7) ∧
          (¬roomsIn → named retract 0x05 5) ∧ (roomsIn → ¬engine → named retract 0x05 7)
      let judged := fun (u : UnitId) (l : List (Fin 16)) (extend retract : Instr) =>
        s.ciu.stow.state = .idle →
        ((s.unit u).state ≠ .idle → (s.unit u).origin ≠ some .user → refused extend 0x05 3 ∧ refused retract 0x05 3) ∧
        ((s.unit u).state = .idle → (¬sound l → refused extend 0x05 11 ∧ refused retract 0x05 11) ∧
        (sound l → ¬ready l → refused extend 0x05 12 ∧ refused retract 0x05 12) ∧
        (sound l → ready l → s.sgu.supply ≠ .normal ∨ s.sgu.budget < s.claimOf u →
          refused retract 0x05 8 ∧ ((u = .awning → s.wgd.state = .armed) → refused extend 0x05 8)) ∧
        (sound l → ready l → s.sgu.supply = .normal → s.claimOf u ≤ s.sgu.budget → permits u extend retract))
      (∀ u, s.configured u = true → judged u (s.unitChans u) (.move tag (BitVec.ofNat 8 (subjectCode (.unit u))) 1)
        (.move tag (BitVec.ofNat 8 (subjectCode (.unit u))) 2)) ∧
      (∀ j : Fin 6, let c : Fin 16 := ⟨j.val, by omega⟩
        s.populated c = true → judged .jacks [c] (.moveJack tag j 1) (.moveJack tag j 2) ∧
          (s.ciu.stow.state = .idle → (s.unit .jacks).state ≠ .idle → (s.unit .jacks).origin = some .user →
            (s.chan c).motion = none → (∀ p ∈ (s.unit .jacks).pending, p.chan ≠ c) →
            (¬sound [c] → refused (.moveJack tag j 1) 0x05 11 ∧ refused (.moveJack tag j 2) 0x05 11) ∧
            (sound [c] → ¬ready [c] → refused (.moveJack tag j 1) 0x05 12 ∧ refused (.moveJack tag j 2) 0x05 12) ∧
            (sound [c] → ready [c] → s.sgu.supply = .cutoff → named (.moveJack tag j 1) 0x05 1 ∧ named (.moveJack tag j 2) 0x05 1) ∧
            (sound [c] → ready [c] → s.sgu.supply ≠ .cutoff → permits .jacks (.moveJack tag j 1) (.moveJack tag j 2)))) ∧
      (∀ o : Byte, o = 0 ∨ o = 1 → s.lvs.seq.state = .idle → s.ciu.stow.state = .idle →
        let l := cornerChans ++ if o = 1 ∧ s.sixJacks = true then supportChans else []
        let known := ∀ c ∈ cornerChans, (s.chan c).known = true
        let levels := parked ∧ ((∀ c ∈ cornerChans, s.rest c = .down) ∨ roomsIn)
        (s.atu.capture ≠ none ∨ (s.unit .jacks).state ≠ .idle → refused (.level tag o) 0x07 3) ∧
        (s.atu.capture = none → (s.unit .jacks).state = .idle →
          (s.sgu.supply ≠ .normal ∨ s.sgu.budget < s.claimOf .jacks → refused (.level tag o) 0x07 8) ∧
          (s.sgu.supply = .normal → s.claimOf .jacks ≤ s.sgu.budget →
            (s.atu.record.state = .invalid → named (.level tag o) 0x07 8) ∧
            (s.atu.record.state ≠ .invalid →
              (s.geometryOk = false → refused (.level tag o) 0x07 14) ∧
              (s.geometryOk = true →
                (¬sound l → refused (.level tag o) 0x07 11) ∧ (sound l → ¬ready l → refused (.level tag o) 0x07 12) ∧
                (sound l → ready l → (¬known → named (.level tag o) 0x07 9) ∧ (known → ¬levels → named (.level tag o) 0x07 4) ∧
                  (known → levels → ¬engine → named (.level tag o) 0x07 7))))))) ∧
      ∀ (id sj : Byte) (v : BitVec 32),
        (paramRow id.toNat = none → refused (.paramSet tag id sj v) 0x0F 5) ∧
        ∀ row, paramRow id.toNat = some row →
          (row.values ≠ [] → v.toInt ∉ row.values → refused (.paramSet tag id sj v) 0x0F 5) ∧
          (row.values = [] ∨ v.toInt ∈ row.values →
            (s.paramSubject row.scope sj = none → refused (.paramSet tag id sj v) 0x0F 6) ∧
            ∀ subject, s.paramSubject row.scope sj = some subject →
              (s.sst.commit ≠ none → refused (.paramSet tag id sj v) 0x0F 3) ∧
              ((∃ u, ∃ c ∈ unitSlots u, subject = .chan c ∧ (s.unit u).state ≠ .idle) ∨
                (∃ r, subject = .room r ∧ (s.unit (.room r)).state ≠ .idle) ∨
                ((id = 9 ∨ id = 10) ∧ (s.unit .jacks).state ≠ .idle) ∨
                ((id = 11 ∨ id = 12) ∧ s.atu.capture ≠ none) ∨
                ((id = 11 ∨ id = 12 ∨ id = 13 ∨ id = 14 ∨ id = 16 ∨ id = 17 ∨ id = 18) ∧ s.lvs.seq.state ≠ .idle) ∨
                (id = 21 ∧ s.ciu.stow.state ≠ .idle) ∨
                ((id = 23 ∨ id = 24 ∨ id = 25 ∨ id = 26) ∧ s.wgd.state ≠ .armed) →
                refused (.paramSet tag id sj v) 0x0F 3)))

/-! ## Requests that move (chapters 1, 6, 9) -/

/-- MOVE of a unit, and MOVE_JACK of a jack, of a part at rest in RUN whose channels can move and whose permits hold, with the
budget for the claim: OK, and the work begins at once, attended, with a deadline one attendance window from now. An extend begins
on a closed switch too; a retract that does so ends at once and is not said here (R8 to R15,
R66, R67, R144). -/
def Obligations.MoveStarts : Prop :=
  ∀ (tag b : Byte) (d : Dir) (s : State), Resting s → Hears s → s.sst.phase = .run → s.sgu.supply = .normal → dirOf b = some d →
    let deadline := s.frame + BitVec.ofNat 32 (s.par.attendanceWindow / 5)
    let rest := fun t : State => Aside s t ∧ NodesStand s t ∧ t.lvs = s.lvs ∧ t.wgd = s.wgd ∧ t.flt = s.flt ∧ t.ciu.stow = s.ciu.stow ∧ t.ciu.park = s.ciu.park
    let able := fun c => (s.chan c).state = .idle ∧ (d = .retract → (s.chan c).cond ≠ .limitRet) ∧ (s.node (nodeOf c)).state = .ready
    (∀ u, s.configured u = true → (∀ c ∈ s.unitChans u, able c) → s.failedPermit u d = none → s.claimOf u ≤ s.sgu.budget →
      ∃ t, exec (.move tag (BitVec.ofNat 8 (subjectCode (.unit u))) b) s = .next t ∧
        UnitBegun s t u .user d (some deadline) (s.unitChans u) ∧ t.pli.slot = some (replyTo 0x05 tag [0]) ∧
        (t.sgu.pump = decide (u = .jacks ∧ ∃ c ∈ jackChans, (s.chan c).kind = .jack)) ∧ rest t) ∧
    ∀ j : Fin 6, let c : Fin 16 := ⟨j.val, by omega⟩
      s.populated c = true → able c → s.failedPermit .jacks d = none → s.claimOf .jacks ≤ s.sgu.budget →
      ∃ t, exec (.moveJack tag j b) s = .next t ∧ UnitBegun s t .jacks .user d (some deadline) [c] ∧
        t.pli.slot = some (replyTo 0x05 tag [0]) ∧ rest t

/-- A MOVE of a room or the awning that works for the user: the same direction gives every attended record a new deadline and
is OK; the other ends the work with STOPPED and is OK_STOPPED. A MOVE_JACK of a moving jack does so for that jack (R12, R13). -/
def Obligations.MoveRefreshesOrStops : Prop :=
  ∀ (tag b : Byte) (d : Dir) (s : State), Steady s → Hears s → s.sst.phase = .run → s.ciu.stow.state = .idle → dirOf b = some d →
    let deadline := s.frame + BitVec.ofNat 32 (s.par.attendanceWindow / 5)
    let refreshed := fun (c : Fin 16) (m : Motion) => { s.chan c with motion := some { m with deadline := some deadline } }
    (∀ u, u ≠ .jacks → s.configured u = true → (s.unit u).state = .active → (s.unit u).origin = some .user →
      (s.unit u).pending = [] →
      ((∀ c ∈ s.unitChans u, ∃ m, (s.chan c).motion = some m ∧ m.dir = d ∧ m.attended = true) →
        ∃ t, exec (.move tag (BitVec.ofNat 8 (subjectCode (.unit u))) b) s = .next t ∧
          (∀ c ∈ s.unitChans u, ∀ m, (s.chan c).motion = some m → t.chan c = refreshed c m) ∧
          (∀ c, c ∉ s.unitChans u → t.chan c = s.chan c) ∧ (∀ v, t.unit v = s.unit v) ∧
          t.pli.slot = some (replyTo 0x05 tag [0]) ∧ GrantsStand s t ∧ Aside s t ∧ NodesStand s t ∧ t.lvs = s.lvs ∧ t.wgd = s.wgd ∧ t.flt = s.flt ∧ t.ciu.stow = s.ciu.stow ∧ t.ciu.park = s.ciu.park) ∧
      (∀ c ∈ s.unitChans u, ∀ m, (s.chan c).motion = some m → m.dir ≠ d → s.queueOnly u →
        exec (.move tag (BitVec.ofNat 8 (subjectCode (.unit u))) b) s =
          .next (finish ((s.heard.replied (replyTo 0x05 tag [2])).endUnit u .stopped)))) ∧
    ∀ j : Fin 6, let c : Fin 16 := ⟨j.val, by omega⟩
      ∀ m, (s.unit .jacks).state = .active → (s.unit .jacks).origin = some .user → (s.unit .jacks).pending = [] →
      s.populated c = true → (s.chan c).kind = .jack → (s.chan c).motion = some m → m.origin = .user → m.attended = true →
      (m.dir = d → exec (.moveJack tag j b) s = .next (finish ((s.heard.replied (replyTo 0x05 tag [0])).setChan c
        (refreshed c m)))) ∧
      (m.dir ≠ d → (∃ e ∈ s.unitChans .jacks, e ≠ c ∧ (s.chan e).motion ≠ none) →
        exec (.moveJack tag j b) s = .next (finish ((s.heard.replied (replyTo 0x05 tag [2])).setChan c
          ((s.chan c).endMotion s.frame))))

/-- STOP of a configured unit, idle or working for the user, ends its work with STOPPED; STOP_ALL with no sequence running ends
the one USER unit's work. Both are OK (R17, R18). Of JACKS under a level sequence, either ends the sequence ABORTED (R107). STOP
of a unit that the stow step awaits ends the sequence ABORTED with cause STOPPED and the unit as subject; its other STOW work
ends with STOPPED too, before STOW_DONE (R17, R156, R157; in unit order and, for a unit still WAITING, with that reason by the
model's choice, log entries 51 and 63). STOP of a wind retract leaves the guard TRIPPED, with the retract state STOPPED and
bypassed set, and raises nothing (R17, R137). -/
def Obligations.StopsEndTheWork : Prop :=
  (∀ (tag : Byte) (u : UnitId) (s : State), Steady s → Hears s → s.configured u = true →
    ((s.unit u).state ≠ .idle → (s.unit u).origin = some .user ∧ s.queueOnly u) →
    exec (.stop tag (BitVec.ofNat 8 (subjectCode (.unit u)))) s =
      .next (finish ((s.heard.replied (replyTo 0x06 tag [0])).endUnit u .stopped)) ∧
    (s.lvs.seq.state = .idle → s.ciu.stow.state = .idle → (∀ v, v ≠ u → (s.unit v).state = .idle) →
      exec (.stopAll tag) s = .next (finish ((s.heard.replied (replyTo 0x06 tag [0])).endUnit u .stopped)))) ∧
  (∀ (tag : Byte) (st : LvState) (f : FrameNo) (c : Instr) (s : State), s.Levelling st f → st ≠ .idle → Hears s →
    s.configured .jacks = true →
    (c = .stop tag (BitVec.ofNat 8 (subjectCode (.unit .jacks))) ∨ (c = .stopAll tag ∧ s.ciu.stow.state = .idle)) →
    ∃ t, exec c s = .next t ∧ LevelEnded s t st .aborted .none ∧ t.flt = s.flt ∧ t.pli.slot = some (replyTo 0x06 tag [0]) ∧
      Aside s t ∧ NodesStand s t ∧ t.wgd = s.wgd ∧ t.ciu.stow = s.ciu.stow ∧ t.ciu.park = s.ciu.park) ∧
  ∀ (tag : Byte) (u : UnitId) (s : State), Steady s → Hears s → s.configured u = true → (s.unit u).state ≠ .idle →
    let stopped := (s.heard.replied (replyTo 0x06 tag [0])).endUnit u .stopped
    let becomes := fun w : State => exec (.stop tag (BitVec.ofNat 8 (subjectCode (.unit u)))) s = .next (finish w)
    let q := s.ciu.stow
    ((s.unit u).origin = some .stow → q.state ≠ .idle → u ∈ q.awaited → s.wgd.retract ≠ .covered →
      (∀ e ∈ s.sgu.queue, (s.unit e.unit).origin = some .stow ∧ (s.unit e.unit).state ≠ .idle) →
      let t := (allUnits.filter fun v => decide (v ≠ u ∧ (s.unit v).origin = some .stow)).foldl (fun w v => w.endUnit v .stopped)
        stopped
      becomes { t.offer (.stowDone .aborted q.trigger (some q.state) .stopped (some (.unit u))) with
        ciu := { s.ciu with
          stow := .reset
          result := { outcome := .aborted, trigger := q.trigger, step := some q.state, cause := .stopped
                      subject := some (.unit u) } } }) ∧
    (u = .awning → (s.unit u).origin = some .wind → s.wgd.state = .tripped → q.state = .idle → s.queueOnly u →
      becomes { stopped with wgd := { s.wgd with retract := .stopped, bypassed := true } })

/-- LEVEL of a part at rest that meets TABLE 6-4, with a corner jack off the ground: OK, CONTACT begins with JACKS granted, and
the corner jacks without ground extend to END. LEVEL_ABORT ends a sequence ABORTED, and with none running is only answered
(R90 to R95, R107). -/
def Obligations.LevelStartsAndAborts : Prop :=
  let rest := fun s t : State =>
    Aside s t ∧ NodesStand s t ∧ t.wgd = s.wgd ∧ t.ciu.stow = s.ciu.stow ∧ t.ciu.park = s.ciu.park
  (∀ (tag : Byte) (option : Bool) (s : State), Resting s → Hears s → s.sst.phase = .run → s.atu.capture = none →
    s.sgu.supply = .normal → s.claimOf .jacks ≤ s.sgu.budget → s.atu.record.state ≠ .invalid → s.geometryOk = true →
    (∀ c ∈ s.levelJacks option, (s.chan c).state = .idle ∧ (s.node (nodeOf c)).state = .ready) →
    (∀ c ∈ cornerChans, (s.chan c).known = true ∧ (s.chan c).kind = .jack) → s.levelPermit = true → s.engineOk = true →
    (∃ c ∈ cornerChans, (s.chan c).latch = false) →
    ∃ t, exec (.level tag (if option then 1 else 0)) s = .next t ∧
      t.lvs = { seq := { LvSeq.reset with state := .contact, option := option, phaseStart := some s.frame }
                result := s.lvs.result } ∧
      UnitBegun s t .jacks .level .extend none (cornerChans.filter fun c => !(s.chan c).latch) ∧
      t.pli.slot = some (replyTo 0x07 tag [0]) ∧ t.flt = s.flt ∧ rest s t) ∧
  (∀ (tag : Byte) (s : State), Quiet s → Hears s → s.lvs.seq.state = .idle →
    exec (.levelAbort tag) s = .next (s.answered 0x08 tag [0])) ∧
  ∀ (tag : Byte) (st : LvState) (f : FrameNo) (s : State), s.Levelling st f → st ≠ .idle → Hears s →
    ∃ t, exec (.levelAbort tag) s = .next t ∧ LevelEnded s t st .aborted .none ∧ t.flt = s.flt ∧
      t.pli.slot = some (replyTo 0x08 tag [0]) ∧ rest s t

/-- STOW of a part at rest. With every populated channel STOWED the sequence passes its steps at once and is COMPLETE. With the
awning out and able to move, the AWNING step retracts it as STOW work and awaits it. With the awning in and one room out the ROOMS
step retracts that room; with every room in, the JACKS step retracts the jacks that are not STOWED; each as STOW work that the step
awaits (R150, R151, R153, R154, R155, R157). -/
def Obligations.StowRuns : Prop :=
  ∀ (tag : Byte) (s : State), Resting s → Hears s → s.sst.phase = .run → s.sgu.supply ≠ .cutoff →
    let rest := fun t : State => Aside s t ∧ NodesStand s t ∧ t.lvs = s.lvs ∧ t.wgd = s.wgd ∧ t.flt = s.flt ∧ t.ciu.park = s.ciu.park
    ((∀ c, s.populated c = true → s.rest c = .stowed) → ∃ t, exec (.stow tag) s = .next t ∧ t.ciu.stow = .reset ∧
      t.ciu.result = { outcome := .complete, trigger := some .request, step := some .jacks, cause := .none, subject := none } ∧
      t.pli.slot = some (replyTo 0x0B tag [0]) ∧ (∀ c, t.chan c = s.chan c) ∧ (∀ u, t.unit u = s.unit u) ∧ GrantsStand s t ∧ rest t) ∧
    (s.populated 14 = true → s.rest 14 ≠ .stowed → (s.chan 14).state = .idle → (s.chan 14).cond ≠ .limitRet →
      (s.node 7).state = .ready → (s.motorPar 14).claim ≤ s.sgu.budget → ∃ t, exec (.stow tag) s = .next t ∧
      t.ciu.stow = { state := .awning, trigger := some .request, stepStart := some s.frame, awaited := [.awning] } ∧
      UnitBegun s t .awning .stow .retract none [14] ∧ t.pli.slot = some (replyTo 0x0B tag [0]) ∧
      rest t) ∧
    ((s.populated 14 = false ∨ s.rest 14 = .stowed) →
      let able := fun c => (s.chan c).state = .idle ∧ (s.chan c).cond ≠ .limitRet ∧ (s.node (nodeOf c)).state = .ready
      let begun := fun (t : State) (st : StowState) (u : UnitId) (l : List (Fin 16)) => exec (.stow tag) s = .next t ∧
        t.ciu.stow = { state := st, trigger := some .request, stepStart := some s.frame, awaited := [u] } ∧
        UnitBegun s t u .stow .retract none l ∧ t.pli.slot = some (replyTo 0x0B tag [0]) ∧ rest t
      let isIn := fun r => s.roomUsed r = true → s.roomRest r = .stowed
      (∀ r, s.roomUsed r = true → s.roomRest r ≠ .stowed → (∀ q, q ≠ r → isIn q) → (∀ c ∈ s.unitChans (.room r), able c) →
        s.claimOf (.room r) ≤ s.sgu.budget → ∃ t, begun t .rooms (.room r) (s.unitChans (.room r))) ∧
      ((∀ r, isIn r) → (∃ c ∈ s.unitChans .jacks, s.rest c ≠ .stowed) → (∀ c ∈ s.unitChans .jacks, s.rest c ≠ .stowed → able c) →
        s.engineOk = true → s.claimOf .jacks ≤ s.sgu.budget →
        ∃ t, begun t .jacks .jacks ((s.unitChans .jacks).filter fun c => decide (s.rest c ≠ .stowed))))

/-- FAULT_CLEAR of a fault whose condition stands is STILL_PRESENT and changes nothing. Otherwise its entry leaves the list, the
locks it holds on the subject's channels are removed, and the reply says whether an entry was removed and how many locks
(R163, R164). For DESC_MISMATCH of a node in MISMATCH the node reads its descriptor anew, its channels are enabled with their
positions unknown, and NODE_LOST is raised (R36, R40, R165). -/
def Obligations.FaultClearRemoves : Prop :=
  ∀ (tag : Byte) (k : FaultKind) (sj : Subject) (s : State), Hears s → s.validSubject k sj = true →
    let clear := Instr.faultClear tag (BitVec.ofNat 8 k.code) (BitVec.ofNat 8 (subjectCode sj))
    let held := (s.lockChans sj).filter fun c => decide ((s.chan c).lock = some k)
    let found := s.flt.entries.any fun e => decide (e.kind = k ∧ e.subject = sj)
    let left := s.flt.entries.eraseP fun e => decide (e.kind = k ∧ e.subject = sj)
    let rest := fun t : State =>
      Aside s t ∧ GrantsStand s t ∧ t.lvs = s.lvs ∧ t.wgd = s.wgd ∧ t.ciu.stow = s.ciu.stow ∧ t.ciu.park = s.ciu.park
    (Quiet s → k ≠ .descMismatch → s.stands k sj = true → exec clear s = .next (s.answered 0x12 tag [13])) ∧
    (Steady s → k ≠ .descMismatch → s.stands k sj = false → ∃ t, exec clear s = .next t ∧
      t.pli.slot = some (replyTo 0x12 tag [0, if found then 1 else 0, BitVec.ofNat 8 held.length]) ∧
      t.flt.entries = left ∧ t.flt.lost = (s.flt.lost && !(found && decide (left.length = 0))) ∧
      (∀ c ∈ held, t.chan c = { s.chan c with
        lock := none, state := if (s.chan c).state = .faulted then .idle else (s.chan c).state }) ∧
      (∀ c, c ∉ held → t.chan c = s.chan c) ∧ (∀ u, t.unit u = s.unit u) ∧ NodesStand s t ∧ rest t) ∧
    (∀ n, s.RestingBut .descMismatch (.node n) → k = .descMismatch → sj = .node n → (s.node n).state = .mismatch →
      ∃ t, exec clear s = .next t ∧
      t.pli.slot = some (replyTo 0x12 tag [0, if found then 1 else 0, BitVec.ofNat 8 held.length]) ∧
      t.flt = (Flt.raise { s.flt with entries := left, lost := s.flt.lost && !(found && decide (left.length = 0)) } .nodeLost
        (.node n) s.frame).1 ∧
      (t.node n).state = .discovering ∧ (t.node n).desc = none ∧ (t.node n).cause = none ∧ (t.node n).retry = 0 ∧
      (t.node n).xfer = .startNext ∧ rest t ∧ (∀ u, t.unit u = s.unit u) ∧
      (∀ m, m ≠ n → t.node m = { s.node m with image := (t.node m).image }) ∧ (∀ c, c ∉ s.nodeChans n → t.chan c = s.chan c) ∧
      ∀ c ∈ s.nodeChans n, (t.chan c).state = (if (s.chan c).lock = none then .idle else .faulted) ∧
        ((s.chan c).isMotor = true → (t.chan c).known = false))

/-! ## The whole machine -/

/-- Requests and frames agree: every well-formed request command is what its frame decodes to, and every frame is the frame of
the command it decodes to (R173, TABLE 13-4). -/
def Obligations.RequestsRoundTrip : Prop :=
  (∀ (i : Instr) (f : Frame), i.wellFormed = true → encodeRequest i = some f → decodeRequest f = i) ∧
  ∀ f : Frame, encodeRequest (decodeRequest f) = some f

/-- The bytes of a frame with at most 58 payload bytes, sent to a hunting receiver, leave it with a complete frame that it
judges to be that frame; with a wrong last byte it judges none (R170, R191, TABLE 13-1). -/
def Obligations.FramesAreReceived : Prop :=
  ∀ (f : Frame) (p : Pli), f.payload.length ≤ 58 → p.rx = .hunt →
    ∀ now : FrameNo,
    let received := fun l : List Byte => l.foldl (fun q b => Pli.byte now q ⟨b, false⟩) p
    (received f.bytes).complete = true ∧ (received f.bytes).judge = ({ p with rx := .hunt, rxLen := 0, rxBytes := [], gapStart := none }, some f) ∧
    ∀ b, b ≠ f.bytes.getLastD 0 → (received (f.bytes.dropLast ++ [b])).judge.2 = none

/-- Every step keeps the lines and images in step with the records: the skews, PUMP, TRAVEL and the command images (R22, R26,
R72, R117, R147). While they are, the duty sent for a channel is at most its run duty, and an output drives only for a channel that
is MOVING (R22). -/
def Obligations.StepsKeepTheLines : Prop :=
  (∀ s t : State, Lines s → step s = .next t → Lines t) ∧
  ∀ (s : State) (n : Fin 8), Lines s →
    let law := fun (o : OutCmd) (c : Fin 16) => o.duty ≤ (s.motorPar c).runDuty ∧
      (o.drive = .extend ∨ o.drive = .retract → (s.chan c).state = .moving)
    law (s.node n).image.outA (chanA n) ∧ law (s.node n).image.outB (chanB n)

/-- Every step keeps the fault list's law and the bounds of the queues and counts (R30, R34, R58, R158 to R161, R171, R172,
R176). Every step keeps the law of grants: a working unit stands in the queue, WAITING, or in the grant set, ACTIVE, and in one of
them once; the claims held are at most B; in CUTOFF both are empty (R63, R66, R67, R70). -/
def Obligations.StepsKeepTheBounds : Prop :=
  (∀ s t : State, Bounded s → step s = .next t → Bounded t) ∧ ∀ s t : State, GrantLaw s → step s = .next t → GrantLaw t

/-- The law of the PUMP line: whatever the command, it leaves the line on exactly while JACKS holds a grant and a jack channel
is MOVING. It is off in the part at reset and after POWER_ON, RESETN_ASSERT, RESETN_RELEASE with RESETn held and SOFT_RESET
once it acts (R72). -/
def Obligations.PumpFollowsTheGrant : Prop :=
  (∀ (c : Instr) (s t : State), (s.sgu.pump = true ↔ (∃ g ∈ s.sgu.grants, g.unit = .jacks) ∧
      ∃ j ∈ jackChans, (s.chan j).kind = .jack ∧ (s.chan j).state = .moving) → exec c s = .next t →
    (t.sgu.pump = true ↔ (∃ g ∈ t.sgu.grants, g.unit = .jacks) ∧
      ∃ j ∈ jackChans, (t.chan j).kind = .jack ∧ (t.chan j).state = .moving)) ∧
  State.reset.sgu.pump = false ∧
  ∀ s : State,
    (∀ straps, ∃ t, exec (.powerOn straps) s = .next t ∧ t.sgu.pump = false) ∧
    (s.mode ≠ .off → ∃ t, exec .resetnAssert s = .next t ∧ t.sgu.pump = false) ∧
    (s.mode = .lineReset → ∀ straps, ∃ t, exec (.resetnRelease straps) s = .next t ∧ t.sgu.pump = false) ∧
    (s.mode = .running → s.pli.resetPending = true → s.pli.slot = none → s.sst.commit = none →
      ∃ t, exec .softReset s = .next t ∧ t.sgu.pump = false)

/-- The part at reset meets the invariants: the lines, the bounds and the law of grants. -/
def Obligations.ResetMeetsTheInvariants : Prop := Lines State.reset ∧ Bounded State.reset ∧ GrantLaw State.reset

/-- While the part runs, no command but the end of a commit or a reset changes the image in the store (R186, R187). -/
def Obligations.OnlyCommitsWriteTheImage : Prop :=
  ∀ (c : Instr) (s t : State), s.mode = .running → exec c s = .next t → t.mode = .running →
    (∀ k, c ≠ .powerOn k) → (∀ a, c ≠ .commitComplete a) → c ≠ .commitTimeout → t.sst.image = s.sst.image
end

