-- ==== Sys2Proof/Laws/State.lean ====
section
/-! SUPPORT. One lemma per field per update of the state: what an update leaves as it was, by definition, and what it leaves in
its place. -/

namespace Sys2Proof.Machine

/-! ## setChan -/

@[simp] theorem State.setChan_mode (s : State) (c : Fin 16) (x : Channel) : (s.setChan c x).mode = s.mode := rfl
@[simp] theorem State.setChan_frame (s : State) (c : Fin 16) (x : Channel) : (s.setChan c x).frame = s.frame := rfl
@[simp] theorem State.setChan_frameFresh (s : State) (c : Fin 16) (x : Channel) : (s.setChan c x).frameFresh = s.frameFresh := rfl
@[simp] theorem State.setChan_frameOver (s : State) (c : Fin 16) (x : Channel) : (s.setChan c x).frameOver = s.frameOver := rfl
@[simp] theorem State.setChan_restartFrame (s : State) (c : Fin 16) (x : Channel) : (s.setChan c x).restartFrame = s.restartFrame := rfl
@[simp] theorem State.setChan_nlc (s : State) (c : Fin 16) (x : Channel) : (s.setChan c x).nlc = s.nlc := rfl
@[simp] theorem State.setChan_sgu (s : State) (c : Fin 16) (x : Channel) : (s.setChan c x).sgu = s.sgu := rfl
@[simp] theorem State.setChan_atu (s : State) (c : Fin 16) (x : Channel) : (s.setChan c x).atu = s.atu := rfl
@[simp] theorem State.setChan_lvs (s : State) (c : Fin 16) (x : Channel) : (s.setChan c x).lvs = s.lvs := rfl
@[simp] theorem State.setChan_wgd (s : State) (c : Fin 16) (x : Channel) : (s.setChan c x).wgd = s.wgd := rfl
@[simp] theorem State.setChan_ciu (s : State) (c : Fin 16) (x : Channel) : (s.setChan c x).ciu = s.ciu := rfl
@[simp] theorem State.setChan_flt (s : State) (c : Fin 16) (x : Channel) : (s.setChan c x).flt = s.flt := rfl
@[simp] theorem State.setChan_pli (s : State) (c : Fin 16) (x : Channel) : (s.setChan c x).pli = s.pli := rfl
@[simp] theorem State.setChan_sst (s : State) (c : Fin 16) (x : Channel) : (s.setChan c x).sst = s.sst := rfl
@[simp] theorem State.setChan_pending (s : State) (c : Fin 16) (x : Channel) : (s.setChan c x).pending = s.pending := rfl
@[simp] theorem State.setChan_freeCount (s : State) (c : Fin 16) (x : Channel) : (s.setChan c x).freeCount = s.freeCount := rfl
@[simp] theorem State.setChan_unit (s : State) (c : Fin 16) (x : Channel) (v : UnitId) : (s.setChan c x).unit v = s.unit v := rfl
@[simp] theorem State.setChan_room (s : State) (c : Fin 16) (x : Channel) (k : Fin 4) : (s.setChan c x).room k = s.room k := rfl
@[simp] theorem State.setChan_node (s : State) (c : Fin 16) (x : Channel) (m : Fin 8) : (s.setChan c x).node m = s.node m := rfl

/-! ## setUnit -/

@[simp] theorem State.setUnit_mode (s : State) (u : UnitId) (x : UnitRec) : (s.setUnit u x).mode = s.mode := rfl
@[simp] theorem State.setUnit_frame (s : State) (u : UnitId) (x : UnitRec) : (s.setUnit u x).frame = s.frame := rfl
@[simp] theorem State.setUnit_frameFresh (s : State) (u : UnitId) (x : UnitRec) : (s.setUnit u x).frameFresh = s.frameFresh := rfl
@[simp] theorem State.setUnit_frameOver (s : State) (u : UnitId) (x : UnitRec) : (s.setUnit u x).frameOver = s.frameOver := rfl
@[simp] theorem State.setUnit_restartFrame (s : State) (u : UnitId) (x : UnitRec) : (s.setUnit u x).restartFrame = s.restartFrame := rfl
@[simp] theorem State.setUnit_nlc (s : State) (u : UnitId) (x : UnitRec) : (s.setUnit u x).nlc = s.nlc := rfl
@[simp] theorem State.setUnit_sgu (s : State) (u : UnitId) (x : UnitRec) : (s.setUnit u x).sgu = s.sgu := rfl
@[simp] theorem State.setUnit_atu (s : State) (u : UnitId) (x : UnitRec) : (s.setUnit u x).atu = s.atu := rfl
@[simp] theorem State.setUnit_lvs (s : State) (u : UnitId) (x : UnitRec) : (s.setUnit u x).lvs = s.lvs := rfl
@[simp] theorem State.setUnit_wgd (s : State) (u : UnitId) (x : UnitRec) : (s.setUnit u x).wgd = s.wgd := rfl
@[simp] theorem State.setUnit_ciu (s : State) (u : UnitId) (x : UnitRec) : (s.setUnit u x).ciu = s.ciu := rfl
@[simp] theorem State.setUnit_flt (s : State) (u : UnitId) (x : UnitRec) : (s.setUnit u x).flt = s.flt := rfl
@[simp] theorem State.setUnit_pli (s : State) (u : UnitId) (x : UnitRec) : (s.setUnit u x).pli = s.pli := rfl
@[simp] theorem State.setUnit_sst (s : State) (u : UnitId) (x : UnitRec) : (s.setUnit u x).sst = s.sst := rfl
@[simp] theorem State.setUnit_pending (s : State) (u : UnitId) (x : UnitRec) : (s.setUnit u x).pending = s.pending := rfl
@[simp] theorem State.setUnit_freeCount (s : State) (u : UnitId) (x : UnitRec) : (s.setUnit u x).freeCount = s.freeCount := rfl
@[simp] theorem State.setUnit_chan (s : State) (u : UnitId) (x : UnitRec) (d : Fin 16) : (s.setUnit u x).chan d = s.chan d := rfl
@[simp] theorem State.setUnit_room (s : State) (u : UnitId) (x : UnitRec) (k : Fin 4) : (s.setUnit u x).room k = s.room k := rfl
@[simp] theorem State.setUnit_node (s : State) (u : UnitId) (x : UnitRec) (m : Fin 8) : (s.setUnit u x).node m = s.node m := rfl

/-! ## setRoom -/

@[simp] theorem State.setRoom_mode (s : State) (r : Fin 4) (x : Room) : (s.setRoom r x).mode = s.mode := rfl
@[simp] theorem State.setRoom_frame (s : State) (r : Fin 4) (x : Room) : (s.setRoom r x).frame = s.frame := rfl
@[simp] theorem State.setRoom_frameFresh (s : State) (r : Fin 4) (x : Room) : (s.setRoom r x).frameFresh = s.frameFresh := rfl
@[simp] theorem State.setRoom_frameOver (s : State) (r : Fin 4) (x : Room) : (s.setRoom r x).frameOver = s.frameOver := rfl
@[simp] theorem State.setRoom_restartFrame (s : State) (r : Fin 4) (x : Room) : (s.setRoom r x).restartFrame = s.restartFrame := rfl
@[simp] theorem State.setRoom_nlc (s : State) (r : Fin 4) (x : Room) : (s.setRoom r x).nlc = s.nlc := rfl
@[simp] theorem State.setRoom_sgu (s : State) (r : Fin 4) (x : Room) : (s.setRoom r x).sgu = s.sgu := rfl
@[simp] theorem State.setRoom_atu (s : State) (r : Fin 4) (x : Room) : (s.setRoom r x).atu = s.atu := rfl
@[simp] theorem State.setRoom_lvs (s : State) (r : Fin 4) (x : Room) : (s.setRoom r x).lvs = s.lvs := rfl
@[simp] theorem State.setRoom_wgd (s : State) (r : Fin 4) (x : Room) : (s.setRoom r x).wgd = s.wgd := rfl
@[simp] theorem State.setRoom_ciu (s : State) (r : Fin 4) (x : Room) : (s.setRoom r x).ciu = s.ciu := rfl
@[simp] theorem State.setRoom_flt (s : State) (r : Fin 4) (x : Room) : (s.setRoom r x).flt = s.flt := rfl
@[simp] theorem State.setRoom_pli (s : State) (r : Fin 4) (x : Room) : (s.setRoom r x).pli = s.pli := rfl
@[simp] theorem State.setRoom_sst (s : State) (r : Fin 4) (x : Room) : (s.setRoom r x).sst = s.sst := rfl
@[simp] theorem State.setRoom_pending (s : State) (r : Fin 4) (x : Room) : (s.setRoom r x).pending = s.pending := rfl
@[simp] theorem State.setRoom_freeCount (s : State) (r : Fin 4) (x : Room) : (s.setRoom r x).freeCount = s.freeCount := rfl
@[simp] theorem State.setRoom_chan (s : State) (r : Fin 4) (x : Room) (d : Fin 16) : (s.setRoom r x).chan d = s.chan d := rfl
@[simp] theorem State.setRoom_unit (s : State) (r : Fin 4) (x : Room) (v : UnitId) : (s.setRoom r x).unit v = s.unit v := rfl
@[simp] theorem State.setRoom_node (s : State) (r : Fin 4) (x : Room) (m : Fin 8) : (s.setRoom r x).node m = s.node m := rfl

/-! ## setNode -/

@[simp] theorem State.setNode_mode (s : State) (n : Fin 8) (x : Node) : (s.setNode n x).mode = s.mode := rfl
@[simp] theorem State.setNode_frame (s : State) (n : Fin 8) (x : Node) : (s.setNode n x).frame = s.frame := rfl
@[simp] theorem State.setNode_frameFresh (s : State) (n : Fin 8) (x : Node) : (s.setNode n x).frameFresh = s.frameFresh := rfl
@[simp] theorem State.setNode_frameOver (s : State) (n : Fin 8) (x : Node) : (s.setNode n x).frameOver = s.frameOver := rfl
@[simp] theorem State.setNode_restartFrame (s : State) (n : Fin 8) (x : Node) : (s.setNode n x).restartFrame = s.restartFrame := rfl
@[simp] theorem State.setNode_chc (s : State) (n : Fin 8) (x : Node) : (s.setNode n x).chc = s.chc := rfl
@[simp] theorem State.setNode_sgu (s : State) (n : Fin 8) (x : Node) : (s.setNode n x).sgu = s.sgu := rfl
@[simp] theorem State.setNode_atu (s : State) (n : Fin 8) (x : Node) : (s.setNode n x).atu = s.atu := rfl
@[simp] theorem State.setNode_lvs (s : State) (n : Fin 8) (x : Node) : (s.setNode n x).lvs = s.lvs := rfl
@[simp] theorem State.setNode_wgd (s : State) (n : Fin 8) (x : Node) : (s.setNode n x).wgd = s.wgd := rfl
@[simp] theorem State.setNode_ciu (s : State) (n : Fin 8) (x : Node) : (s.setNode n x).ciu = s.ciu := rfl
@[simp] theorem State.setNode_flt (s : State) (n : Fin 8) (x : Node) : (s.setNode n x).flt = s.flt := rfl
@[simp] theorem State.setNode_pli (s : State) (n : Fin 8) (x : Node) : (s.setNode n x).pli = s.pli := rfl
@[simp] theorem State.setNode_sst (s : State) (n : Fin 8) (x : Node) : (s.setNode n x).sst = s.sst := rfl
@[simp] theorem State.setNode_pending (s : State) (n : Fin 8) (x : Node) : (s.setNode n x).pending = s.pending := rfl
@[simp] theorem State.setNode_freeCount (s : State) (n : Fin 8) (x : Node) : (s.setNode n x).freeCount = s.freeCount := rfl
@[simp] theorem State.setNode_chan (s : State) (n : Fin 8) (x : Node) (d : Fin 16) : (s.setNode n x).chan d = s.chan d := rfl
@[simp] theorem State.setNode_unit (s : State) (n : Fin 8) (x : Node) (v : UnitId) : (s.setNode n x).unit v = s.unit v := rfl
@[simp] theorem State.setNode_room (s : State) (n : Fin 8) (x : Node) (k : Fin 4) : (s.setNode n x).room k = s.room k := rfl

/-! ## modChan -/

@[simp] theorem State.modChan_mode (s : State) (c : Fin 16) (f : Channel → Channel) : (s.modChan c f).mode = s.mode := rfl
@[simp] theorem State.modChan_frame (s : State) (c : Fin 16) (f : Channel → Channel) : (s.modChan c f).frame = s.frame := rfl
@[simp] theorem State.modChan_frameFresh (s : State) (c : Fin 16) (f : Channel → Channel) : (s.modChan c f).frameFresh = s.frameFresh := rfl
@[simp] theorem State.modChan_frameOver (s : State) (c : Fin 16) (f : Channel → Channel) : (s.modChan c f).frameOver = s.frameOver := rfl
@[simp] theorem State.modChan_restartFrame (s : State) (c : Fin 16) (f : Channel → Channel) : (s.modChan c f).restartFrame = s.restartFrame := rfl
@[simp] theorem State.modChan_nlc (s : State) (c : Fin 16) (f : Channel → Channel) : (s.modChan c f).nlc = s.nlc := rfl
@[simp] theorem State.modChan_sgu (s : State) (c : Fin 16) (f : Channel → Channel) : (s.modChan c f).sgu = s.sgu := rfl
@[simp] theorem State.modChan_atu (s : State) (c : Fin 16) (f : Channel → Channel) : (s.modChan c f).atu = s.atu := rfl
@[simp] theorem State.modChan_lvs (s : State) (c : Fin 16) (f : Channel → Channel) : (s.modChan c f).lvs = s.lvs := rfl
@[simp] theorem State.modChan_wgd (s : State) (c : Fin 16) (f : Channel → Channel) : (s.modChan c f).wgd = s.wgd := rfl
@[simp] theorem State.modChan_ciu (s : State) (c : Fin 16) (f : Channel → Channel) : (s.modChan c f).ciu = s.ciu := rfl
@[simp] theorem State.modChan_flt (s : State) (c : Fin 16) (f : Channel → Channel) : (s.modChan c f).flt = s.flt := rfl
@[simp] theorem State.modChan_pli (s : State) (c : Fin 16) (f : Channel → Channel) : (s.modChan c f).pli = s.pli := rfl
@[simp] theorem State.modChan_sst (s : State) (c : Fin 16) (f : Channel → Channel) : (s.modChan c f).sst = s.sst := rfl
@[simp] theorem State.modChan_pending (s : State) (c : Fin 16) (f : Channel → Channel) : (s.modChan c f).pending = s.pending := rfl
@[simp] theorem State.modChan_freeCount (s : State) (c : Fin 16) (f : Channel → Channel) : (s.modChan c f).freeCount = s.freeCount := rfl
@[simp] theorem State.modChan_unit (s : State) (c : Fin 16) (f : Channel → Channel) (v : UnitId) : (s.modChan c f).unit v = s.unit v := rfl
@[simp] theorem State.modChan_room (s : State) (c : Fin 16) (f : Channel → Channel) (k : Fin 4) : (s.modChan c f).room k = s.room k := rfl
@[simp] theorem State.modChan_node (s : State) (c : Fin 16) (f : Channel → Channel) (m : Fin 8) : (s.modChan c f).node m = s.node m := rfl

/-! ## modNode -/

@[simp] theorem State.modNode_mode (s : State) (n : Fin 8) (f : Node → Node) : (s.modNode n f).mode = s.mode := rfl
@[simp] theorem State.modNode_frame (s : State) (n : Fin 8) (f : Node → Node) : (s.modNode n f).frame = s.frame := rfl
@[simp] theorem State.modNode_frameFresh (s : State) (n : Fin 8) (f : Node → Node) : (s.modNode n f).frameFresh = s.frameFresh := rfl
@[simp] theorem State.modNode_frameOver (s : State) (n : Fin 8) (f : Node → Node) : (s.modNode n f).frameOver = s.frameOver := rfl
@[simp] theorem State.modNode_restartFrame (s : State) (n : Fin 8) (f : Node → Node) : (s.modNode n f).restartFrame = s.restartFrame := rfl
@[simp] theorem State.modNode_chc (s : State) (n : Fin 8) (f : Node → Node) : (s.modNode n f).chc = s.chc := rfl
@[simp] theorem State.modNode_sgu (s : State) (n : Fin 8) (f : Node → Node) : (s.modNode n f).sgu = s.sgu := rfl
@[simp] theorem State.modNode_atu (s : State) (n : Fin 8) (f : Node → Node) : (s.modNode n f).atu = s.atu := rfl
@[simp] theorem State.modNode_lvs (s : State) (n : Fin 8) (f : Node → Node) : (s.modNode n f).lvs = s.lvs := rfl
@[simp] theorem State.modNode_wgd (s : State) (n : Fin 8) (f : Node → Node) : (s.modNode n f).wgd = s.wgd := rfl
@[simp] theorem State.modNode_ciu (s : State) (n : Fin 8) (f : Node → Node) : (s.modNode n f).ciu = s.ciu := rfl
@[simp] theorem State.modNode_flt (s : State) (n : Fin 8) (f : Node → Node) : (s.modNode n f).flt = s.flt := rfl
@[simp] theorem State.modNode_pli (s : State) (n : Fin 8) (f : Node → Node) : (s.modNode n f).pli = s.pli := rfl
@[simp] theorem State.modNode_sst (s : State) (n : Fin 8) (f : Node → Node) : (s.modNode n f).sst = s.sst := rfl
@[simp] theorem State.modNode_pending (s : State) (n : Fin 8) (f : Node → Node) : (s.modNode n f).pending = s.pending := rfl
@[simp] theorem State.modNode_freeCount (s : State) (n : Fin 8) (f : Node → Node) : (s.modNode n f).freeCount = s.freeCount := rfl
@[simp] theorem State.modNode_chan (s : State) (n : Fin 8) (f : Node → Node) (d : Fin 16) : (s.modNode n f).chan d = s.chan d := rfl
@[simp] theorem State.modNode_unit (s : State) (n : Fin 8) (f : Node → Node) (v : UnitId) : (s.modNode n f).unit v = s.unit v := rfl
@[simp] theorem State.modNode_room (s : State) (n : Fin 8) (f : Node → Node) (k : Fin 4) : (s.modNode n f).room k = s.room k := rfl

/-! ## mapChans -/

@[simp] theorem State.mapChans_mode (s : State) (f : Channel → Channel) : (s.mapChans f).mode = s.mode := rfl
@[simp] theorem State.mapChans_frame (s : State) (f : Channel → Channel) : (s.mapChans f).frame = s.frame := rfl
@[simp] theorem State.mapChans_frameFresh (s : State) (f : Channel → Channel) : (s.mapChans f).frameFresh = s.frameFresh := rfl
@[simp] theorem State.mapChans_frameOver (s : State) (f : Channel → Channel) : (s.mapChans f).frameOver = s.frameOver := rfl
@[simp] theorem State.mapChans_restartFrame (s : State) (f : Channel → Channel) : (s.mapChans f).restartFrame = s.restartFrame := rfl
@[simp] theorem State.mapChans_nlc (s : State) (f : Channel → Channel) : (s.mapChans f).nlc = s.nlc := rfl
@[simp] theorem State.mapChans_sgu (s : State) (f : Channel → Channel) : (s.mapChans f).sgu = s.sgu := rfl
@[simp] theorem State.mapChans_atu (s : State) (f : Channel → Channel) : (s.mapChans f).atu = s.atu := rfl
@[simp] theorem State.mapChans_lvs (s : State) (f : Channel → Channel) : (s.mapChans f).lvs = s.lvs := rfl
@[simp] theorem State.mapChans_wgd (s : State) (f : Channel → Channel) : (s.mapChans f).wgd = s.wgd := rfl
@[simp] theorem State.mapChans_ciu (s : State) (f : Channel → Channel) : (s.mapChans f).ciu = s.ciu := rfl
@[simp] theorem State.mapChans_flt (s : State) (f : Channel → Channel) : (s.mapChans f).flt = s.flt := rfl
@[simp] theorem State.mapChans_pli (s : State) (f : Channel → Channel) : (s.mapChans f).pli = s.pli := rfl
@[simp] theorem State.mapChans_sst (s : State) (f : Channel → Channel) : (s.mapChans f).sst = s.sst := rfl
@[simp] theorem State.mapChans_pending (s : State) (f : Channel → Channel) : (s.mapChans f).pending = s.pending := rfl
@[simp] theorem State.mapChans_freeCount (s : State) (f : Channel → Channel) : (s.mapChans f).freeCount = s.freeCount := rfl
@[simp] theorem State.mapChans_unit (s : State) (f : Channel → Channel) (v : UnitId) : (s.mapChans f).unit v = s.unit v := rfl
@[simp] theorem State.mapChans_room (s : State) (f : Channel → Channel) (k : Fin 4) : (s.mapChans f).room k = s.room k := rfl
@[simp] theorem State.mapChans_node (s : State) (f : Channel → Channel) (m : Fin 8) : (s.mapChans f).node m = s.node m := rfl

/-! ## mapRooms -/

@[simp] theorem State.mapRooms_mode (s : State) (f : Room → Room) : (s.mapRooms f).mode = s.mode := rfl
@[simp] theorem State.mapRooms_frame (s : State) (f : Room → Room) : (s.mapRooms f).frame = s.frame := rfl
@[simp] theorem State.mapRooms_frameFresh (s : State) (f : Room → Room) : (s.mapRooms f).frameFresh = s.frameFresh := rfl
@[simp] theorem State.mapRooms_frameOver (s : State) (f : Room → Room) : (s.mapRooms f).frameOver = s.frameOver := rfl
@[simp] theorem State.mapRooms_restartFrame (s : State) (f : Room → Room) : (s.mapRooms f).restartFrame = s.restartFrame := rfl
@[simp] theorem State.mapRooms_nlc (s : State) (f : Room → Room) : (s.mapRooms f).nlc = s.nlc := rfl
@[simp] theorem State.mapRooms_sgu (s : State) (f : Room → Room) : (s.mapRooms f).sgu = s.sgu := rfl
@[simp] theorem State.mapRooms_atu (s : State) (f : Room → Room) : (s.mapRooms f).atu = s.atu := rfl
@[simp] theorem State.mapRooms_lvs (s : State) (f : Room → Room) : (s.mapRooms f).lvs = s.lvs := rfl
@[simp] theorem State.mapRooms_wgd (s : State) (f : Room → Room) : (s.mapRooms f).wgd = s.wgd := rfl
@[simp] theorem State.mapRooms_ciu (s : State) (f : Room → Room) : (s.mapRooms f).ciu = s.ciu := rfl
@[simp] theorem State.mapRooms_flt (s : State) (f : Room → Room) : (s.mapRooms f).flt = s.flt := rfl
@[simp] theorem State.mapRooms_pli (s : State) (f : Room → Room) : (s.mapRooms f).pli = s.pli := rfl
@[simp] theorem State.mapRooms_sst (s : State) (f : Room → Room) : (s.mapRooms f).sst = s.sst := rfl
@[simp] theorem State.mapRooms_pending (s : State) (f : Room → Room) : (s.mapRooms f).pending = s.pending := rfl
@[simp] theorem State.mapRooms_freeCount (s : State) (f : Room → Room) : (s.mapRooms f).freeCount = s.freeCount := rfl
@[simp] theorem State.mapRooms_chan (s : State) (f : Room → Room) (d : Fin 16) : (s.mapRooms f).chan d = s.chan d := rfl
@[simp] theorem State.mapRooms_unit (s : State) (f : Room → Room) (v : UnitId) : (s.mapRooms f).unit v = s.unit v := rfl
@[simp] theorem State.mapRooms_node (s : State) (f : Room → Room) (m : Fin 8) : (s.mapRooms f).node m = s.node m := rfl

/-! ## mapNodes -/

@[simp] theorem State.mapNodes_mode (s : State) (f : Node → Node) : (s.mapNodes f).mode = s.mode := rfl
@[simp] theorem State.mapNodes_frame (s : State) (f : Node → Node) : (s.mapNodes f).frame = s.frame := rfl
@[simp] theorem State.mapNodes_frameFresh (s : State) (f : Node → Node) : (s.mapNodes f).frameFresh = s.frameFresh := rfl
@[simp] theorem State.mapNodes_frameOver (s : State) (f : Node → Node) : (s.mapNodes f).frameOver = s.frameOver := rfl
@[simp] theorem State.mapNodes_restartFrame (s : State) (f : Node → Node) : (s.mapNodes f).restartFrame = s.restartFrame := rfl
@[simp] theorem State.mapNodes_chc (s : State) (f : Node → Node) : (s.mapNodes f).chc = s.chc := rfl
@[simp] theorem State.mapNodes_sgu (s : State) (f : Node → Node) : (s.mapNodes f).sgu = s.sgu := rfl
@[simp] theorem State.mapNodes_atu (s : State) (f : Node → Node) : (s.mapNodes f).atu = s.atu := rfl
@[simp] theorem State.mapNodes_lvs (s : State) (f : Node → Node) : (s.mapNodes f).lvs = s.lvs := rfl
@[simp] theorem State.mapNodes_wgd (s : State) (f : Node → Node) : (s.mapNodes f).wgd = s.wgd := rfl
@[simp] theorem State.mapNodes_ciu (s : State) (f : Node → Node) : (s.mapNodes f).ciu = s.ciu := rfl
@[simp] theorem State.mapNodes_flt (s : State) (f : Node → Node) : (s.mapNodes f).flt = s.flt := rfl
@[simp] theorem State.mapNodes_pli (s : State) (f : Node → Node) : (s.mapNodes f).pli = s.pli := rfl
@[simp] theorem State.mapNodes_sst (s : State) (f : Node → Node) : (s.mapNodes f).sst = s.sst := rfl
@[simp] theorem State.mapNodes_pending (s : State) (f : Node → Node) : (s.mapNodes f).pending = s.pending := rfl
@[simp] theorem State.mapNodes_freeCount (s : State) (f : Node → Node) : (s.mapNodes f).freeCount = s.freeCount := rfl
@[simp] theorem State.mapNodes_chan (s : State) (f : Node → Node) (d : Fin 16) : (s.mapNodes f).chan d = s.chan d := rfl
@[simp] theorem State.mapNodes_unit (s : State) (f : Node → Node) (v : UnitId) : (s.mapNodes f).unit v = s.unit v := rfl
@[simp] theorem State.mapNodes_room (s : State) (f : Node → Node) (k : Fin 4) : (s.mapNodes f).room k = s.room k := rfl

/-! ## offer -/

@[simp] theorem State.offer_mode (s : State) (n : Notice) : (s.offer n).mode = s.mode := rfl
@[simp] theorem State.offer_frame (s : State) (n : Notice) : (s.offer n).frame = s.frame := rfl
@[simp] theorem State.offer_frameFresh (s : State) (n : Notice) : (s.offer n).frameFresh = s.frameFresh := rfl
@[simp] theorem State.offer_frameOver (s : State) (n : Notice) : (s.offer n).frameOver = s.frameOver := rfl
@[simp] theorem State.offer_restartFrame (s : State) (n : Notice) : (s.offer n).restartFrame = s.restartFrame := rfl
@[simp] theorem State.offer_chc (s : State) (n : Notice) : (s.offer n).chc = s.chc := rfl
@[simp] theorem State.offer_nlc (s : State) (n : Notice) : (s.offer n).nlc = s.nlc := rfl
@[simp] theorem State.offer_sgu (s : State) (n : Notice) : (s.offer n).sgu = s.sgu := rfl
@[simp] theorem State.offer_atu (s : State) (n : Notice) : (s.offer n).atu = s.atu := rfl
@[simp] theorem State.offer_lvs (s : State) (n : Notice) : (s.offer n).lvs = s.lvs := rfl
@[simp] theorem State.offer_wgd (s : State) (n : Notice) : (s.offer n).wgd = s.wgd := rfl
@[simp] theorem State.offer_ciu (s : State) (n : Notice) : (s.offer n).ciu = s.ciu := rfl
@[simp] theorem State.offer_flt (s : State) (n : Notice) : (s.offer n).flt = s.flt := rfl
@[simp] theorem State.offer_sst (s : State) (n : Notice) : (s.offer n).sst = s.sst := rfl
@[simp] theorem State.offer_pending (s : State) (n : Notice) : (s.offer n).pending = s.pending := rfl
@[simp] theorem State.offer_freeCount (s : State) (n : Notice) : (s.offer n).freeCount = s.freeCount := rfl
@[simp] theorem State.offer_chan (s : State) (n : Notice) (d : Fin 16) : (s.offer n).chan d = s.chan d := rfl
@[simp] theorem State.offer_unit (s : State) (n : Notice) (v : UnitId) : (s.offer n).unit v = s.unit v := rfl
@[simp] theorem State.offer_room (s : State) (n : Notice) (k : Fin 4) : (s.offer n).room k = s.room k := rfl
@[simp] theorem State.offer_node (s : State) (n : Notice) (m : Fin 8) : (s.offer n).node m = s.node m := rfl

/-! ## setSeq -/

@[simp] theorem State.setSeq_mode (s : State) (q : LvSeq) : (s.setSeq q).mode = s.mode := rfl
@[simp] theorem State.setSeq_frame (s : State) (q : LvSeq) : (s.setSeq q).frame = s.frame := rfl
@[simp] theorem State.setSeq_frameFresh (s : State) (q : LvSeq) : (s.setSeq q).frameFresh = s.frameFresh := rfl
@[simp] theorem State.setSeq_frameOver (s : State) (q : LvSeq) : (s.setSeq q).frameOver = s.frameOver := rfl
@[simp] theorem State.setSeq_restartFrame (s : State) (q : LvSeq) : (s.setSeq q).restartFrame = s.restartFrame := rfl
@[simp] theorem State.setSeq_chc (s : State) (q : LvSeq) : (s.setSeq q).chc = s.chc := rfl
@[simp] theorem State.setSeq_nlc (s : State) (q : LvSeq) : (s.setSeq q).nlc = s.nlc := rfl
@[simp] theorem State.setSeq_sgu (s : State) (q : LvSeq) : (s.setSeq q).sgu = s.sgu := rfl
@[simp] theorem State.setSeq_atu (s : State) (q : LvSeq) : (s.setSeq q).atu = s.atu := rfl
@[simp] theorem State.setSeq_wgd (s : State) (q : LvSeq) : (s.setSeq q).wgd = s.wgd := rfl
@[simp] theorem State.setSeq_ciu (s : State) (q : LvSeq) : (s.setSeq q).ciu = s.ciu := rfl
@[simp] theorem State.setSeq_flt (s : State) (q : LvSeq) : (s.setSeq q).flt = s.flt := rfl
@[simp] theorem State.setSeq_pli (s : State) (q : LvSeq) : (s.setSeq q).pli = s.pli := rfl
@[simp] theorem State.setSeq_sst (s : State) (q : LvSeq) : (s.setSeq q).sst = s.sst := rfl
@[simp] theorem State.setSeq_pending (s : State) (q : LvSeq) : (s.setSeq q).pending = s.pending := rfl
@[simp] theorem State.setSeq_freeCount (s : State) (q : LvSeq) : (s.setSeq q).freeCount = s.freeCount := rfl
@[simp] theorem State.setSeq_chan (s : State) (q : LvSeq) (d : Fin 16) : (s.setSeq q).chan d = s.chan d := rfl
@[simp] theorem State.setSeq_unit (s : State) (q : LvSeq) (v : UnitId) : (s.setSeq q).unit v = s.unit v := rfl
@[simp] theorem State.setSeq_room (s : State) (q : LvSeq) (k : Fin 4) : (s.setSeq q).room k = s.room k := rfl
@[simp] theorem State.setSeq_node (s : State) (q : LvSeq) (m : Fin 8) : (s.setSeq q).node m = s.node m := rfl

/-! ## setStow -/

@[simp] theorem State.setStow_mode (s : State) (q : StowSeq) : (s.setStow q).mode = s.mode := rfl
@[simp] theorem State.setStow_frame (s : State) (q : StowSeq) : (s.setStow q).frame = s.frame := rfl
@[simp] theorem State.setStow_frameFresh (s : State) (q : StowSeq) : (s.setStow q).frameFresh = s.frameFresh := rfl
@[simp] theorem State.setStow_frameOver (s : State) (q : StowSeq) : (s.setStow q).frameOver = s.frameOver := rfl
@[simp] theorem State.setStow_restartFrame (s : State) (q : StowSeq) : (s.setStow q).restartFrame = s.restartFrame := rfl
@[simp] theorem State.setStow_chc (s : State) (q : StowSeq) : (s.setStow q).chc = s.chc := rfl
@[simp] theorem State.setStow_nlc (s : State) (q : StowSeq) : (s.setStow q).nlc = s.nlc := rfl
@[simp] theorem State.setStow_sgu (s : State) (q : StowSeq) : (s.setStow q).sgu = s.sgu := rfl
@[simp] theorem State.setStow_atu (s : State) (q : StowSeq) : (s.setStow q).atu = s.atu := rfl
@[simp] theorem State.setStow_lvs (s : State) (q : StowSeq) : (s.setStow q).lvs = s.lvs := rfl
@[simp] theorem State.setStow_wgd (s : State) (q : StowSeq) : (s.setStow q).wgd = s.wgd := rfl
@[simp] theorem State.setStow_flt (s : State) (q : StowSeq) : (s.setStow q).flt = s.flt := rfl
@[simp] theorem State.setStow_pli (s : State) (q : StowSeq) : (s.setStow q).pli = s.pli := rfl
@[simp] theorem State.setStow_sst (s : State) (q : StowSeq) : (s.setStow q).sst = s.sst := rfl
@[simp] theorem State.setStow_pending (s : State) (q : StowSeq) : (s.setStow q).pending = s.pending := rfl
@[simp] theorem State.setStow_freeCount (s : State) (q : StowSeq) : (s.setStow q).freeCount = s.freeCount := rfl
@[simp] theorem State.setStow_chan (s : State) (q : StowSeq) (d : Fin 16) : (s.setStow q).chan d = s.chan d := rfl
@[simp] theorem State.setStow_unit (s : State) (q : StowSeq) (v : UnitId) : (s.setStow q).unit v = s.unit v := rfl
@[simp] theorem State.setStow_room (s : State) (q : StowSeq) (k : Fin 4) : (s.setStow q).room k = s.room k := rfl
@[simp] theorem State.setStow_node (s : State) (q : StowSeq) (m : Fin 8) : (s.setStow q).node m = s.node m := rfl

/-! ## setRetract -/

@[simp] theorem State.setRetract_mode (s : State) (r : RetractState) : (s.setRetract r).mode = s.mode := rfl
@[simp] theorem State.setRetract_frame (s : State) (r : RetractState) : (s.setRetract r).frame = s.frame := rfl
@[simp] theorem State.setRetract_frameFresh (s : State) (r : RetractState) : (s.setRetract r).frameFresh = s.frameFresh := rfl
@[simp] theorem State.setRetract_frameOver (s : State) (r : RetractState) : (s.setRetract r).frameOver = s.frameOver := rfl
@[simp] theorem State.setRetract_restartFrame (s : State) (r : RetractState) : (s.setRetract r).restartFrame = s.restartFrame := rfl
@[simp] theorem State.setRetract_chc (s : State) (r : RetractState) : (s.setRetract r).chc = s.chc := rfl
@[simp] theorem State.setRetract_nlc (s : State) (r : RetractState) : (s.setRetract r).nlc = s.nlc := rfl
@[simp] theorem State.setRetract_sgu (s : State) (r : RetractState) : (s.setRetract r).sgu = s.sgu := rfl
@[simp] theorem State.setRetract_atu (s : State) (r : RetractState) : (s.setRetract r).atu = s.atu := rfl
@[simp] theorem State.setRetract_lvs (s : State) (r : RetractState) : (s.setRetract r).lvs = s.lvs := rfl
@[simp] theorem State.setRetract_ciu (s : State) (r : RetractState) : (s.setRetract r).ciu = s.ciu := rfl
@[simp] theorem State.setRetract_flt (s : State) (r : RetractState) : (s.setRetract r).flt = s.flt := rfl
@[simp] theorem State.setRetract_pli (s : State) (r : RetractState) : (s.setRetract r).pli = s.pli := rfl
@[simp] theorem State.setRetract_sst (s : State) (r : RetractState) : (s.setRetract r).sst = s.sst := rfl
@[simp] theorem State.setRetract_pending (s : State) (r : RetractState) : (s.setRetract r).pending = s.pending := rfl
@[simp] theorem State.setRetract_freeCount (s : State) (r : RetractState) : (s.setRetract r).freeCount = s.freeCount := rfl
@[simp] theorem State.setRetract_chan (s : State) (r : RetractState) (d : Fin 16) : (s.setRetract r).chan d = s.chan d := rfl
@[simp] theorem State.setRetract_unit (s : State) (r : RetractState) (v : UnitId) : (s.setRetract r).unit v = s.unit v := rfl
@[simp] theorem State.setRetract_room (s : State) (r : RetractState) (k : Fin 4) : (s.setRetract r).room k = s.room k := rfl
@[simp] theorem State.setRetract_node (s : State) (r : RetractState) (m : Fin 8) : (s.setRetract r).node m = s.node m := rfl

/-! ## What each update leaves in its place -/

@[simp] theorem State.setChan_chan (s : State) (c d : Fin 16) (x : Channel) :
    (s.setChan c x).chan d = if d = c then x else s.chan d := by
  simp [State.chan, State.setChan, Vector.get_eq_getElem, Vector.getElem_set, Fin.ext_iff, eq_comm]

@[simp] theorem State.modChan_chan (s : State) (c d : Fin 16) (f : Channel → Channel) :
    (s.modChan c f).chan d = if d = c then f (s.chan c) else s.chan d := by simp [State.modChan]

@[simp] theorem State.mapChans_chan (s : State) (f : Channel → Channel) (d : Fin 16) :
    (s.mapChans f).chan d = f (s.chan d) := by
  simp [State.chan, State.mapChans, Vector.get_eq_getElem]

theorem unitIdx_inj {u v : UnitId} (h : unitIdx u = unitIdx v) : u = v := by
  have h : (unitIdx u).val = (unitIdx v).val := congrArg Fin.val h
  rcases u with _ | r | _ <;> rcases v with _ | q | _ <;> simp only [unitIdx] at h <;>
    first | rfl | (exfalso; first | simp at h; done | (have := r.isLt; simp at h; omega) | (have := q.isLt; simp at h; omega)) | (congr 1; ext; omega)

@[simp] theorem State.setUnit_unit (s : State) (u v : UnitId) (x : UnitRec) :
    (s.setUnit u x).unit v = if v = u then x else s.unit v := by
  have h : unitIdx u = unitIdx v ↔ v = u := ⟨fun h => (unitIdx_inj h).symm, fun h => by rw [h]⟩
  simp [State.unit, State.setUnit, Vector.get_eq_getElem, Vector.getElem_set, ← Fin.ext_iff, h]

@[simp] theorem State.setRoom_room (s : State) (r q : Fin 4) (x : Room) :
    (s.setRoom r x).room q = if q = r then x else s.room q := by
  simp [State.room, State.setRoom, Vector.get_eq_getElem, Vector.getElem_set, Fin.ext_iff, eq_comm]

@[simp] theorem State.mapRooms_room (s : State) (f : Room → Room) (q : Fin 4) :
    (s.mapRooms f).room q = f (s.room q) := by
  simp [State.room, State.mapRooms, Vector.get_eq_getElem]

@[simp] theorem State.setNode_node (s : State) (n m : Fin 8) (x : Node) :
    (s.setNode n x).node m = if m = n then x else s.node m := by
  simp [State.node, State.setNode, Vector.get_eq_getElem, Vector.getElem_set, Fin.ext_iff, eq_comm]

@[simp] theorem State.modNode_node (s : State) (n m : Fin 8) (f : Node → Node) :
    (s.modNode n f).node m = if m = n then f (s.node n) else s.node m := by simp [State.modNode]

@[simp] theorem State.mapNodes_node (s : State) (f : Node → Node) (m : Fin 8) :
    (s.mapNodes f).node m = f (s.node m) := by
  simp [State.node, State.mapNodes, Vector.get_eq_getElem]

@[simp] theorem State.setSeq_seq (s : State) (q : LvSeq) : (s.setSeq q).lvs.seq = q := rfl
@[simp] theorem State.setSeq_result (s : State) (q : LvSeq) : (s.setSeq q).lvs.result = s.lvs.result := rfl
@[simp] theorem State.setStow_stow (s : State) (q : StowSeq) : (s.setStow q).ciu.stow = q := rfl
@[simp] theorem State.setStow_travel (s : State) (q : StowSeq) : (s.setStow q).ciu.travel = s.ciu.travel := rfl
@[simp] theorem State.setStow_alarm (s : State) (q : StowSeq) : (s.setStow q).ciu.alarm = s.ciu.alarm := rfl
@[simp] theorem State.setStow_park (s : State) (q : StowSeq) : (s.setStow q).ciu.park = s.ciu.park := rfl
@[simp] theorem State.setStow_eng (s : State) (q : StowSeq) : (s.setStow q).ciu.eng = s.ciu.eng := rfl
@[simp] theorem State.setStow_ign (s : State) (q : StowSeq) : (s.setStow q).ciu.ign = s.ciu.ign := rfl
@[simp] theorem State.setStow_result (s : State) (q : StowSeq) : (s.setStow q).ciu.result = s.ciu.result := rfl
@[simp] theorem State.setRetract_retract (s : State) (r : RetractState) : (s.setRetract r).wgd.retract = r := rfl
@[simp] theorem State.setRetract_state (s : State) (r : RetractState) : (s.setRetract r).wgd.state = s.wgd.state := rfl

/-! ## Two states that agree on the channels, rooms and units agree on what is derived from them -/

/-- Equality of two channel tables, channel by channel. -/
theorem chans_ext {v w : Vector Channel 16} (h : ∀ c, v.get c = w.get c) : v = w := by
  ext i hi
  have := h ⟨i, hi⟩
  simpa [Vector.get_eq_getElem] using this

end Sys2Proof.Machine
end

