-- ==== Sys2Proof/Laws/Run.lean ====
section
/-! SUPPORT. What running an agenda, evaluating TRAVEL and closing an event can do: the lemmas that claims about commands cite
in place of unfolding `run`, `actRestCheck`, `finish` and `commit`. -/

namespace Sys2Proof.Machine

/-! ## Running an agenda -/

theorem run_nil (n : Nat) (s : State) : run n false [] s = s := by cases n <;> rfl

/-- An act that asks for no examination and for no grant. -/
theorem run_act (n : Nat) (exam : Bool) (a : Act) (l : List Act) (s : State) (h : a ≠ .exam ∧ a.requests = false) :
    run (n + 1) exam (a :: l) s = run n exam ((act a s).acts ++ l) (act a s).st := by
  cases a <;> first | exact absurd rfl h.1 | exact absurd (show true = false from h.2) (by decide) | (cases exam <;> rfl)

/-- An act that may ask for a grant, when no examination is open. -/
theorem run_act_closed (n : Nat) (a : Act) (l : List Act) (s : State) (h : a ≠ .exam) :
    run (n + 1) false (a :: l) s = run n false ((act a s).acts ++ l) (act a s).st := by
  cases a <;> first | exact absurd rfl h | rfl

/-- An act that may ask for a grant finds an open examination made first (R67). -/
theorem run_flush (n : Nat) (a : Act) (l : List Act) (s : State) (h : a.requests = true) :
    run (n + 1) true (a :: l) s = run n false ((examine s).acts ++ a :: l) (examine s).st := by
  cases a <;> first | rfl | cases h

theorem run_exam (n : Nat) (exam : Bool) (l : List Act) (s : State) :
    run (n + 1) exam (.exam :: l) s = run n true l s := rfl

theorem run_examine (n : Nat) (s : State) : run (n + 1) true [] s = run n false (examine s).acts (examine s).st := rfl

/-- What every act and every examination keeps, a run keeps. -/
theorem run_keeps {P : State → Prop} (ha : ∀ a s, P s → P (act a s).st) (he : ∀ s, P s → P (examine s).st) :
    ∀ (n : Nat) (exam : Bool) (l : List Act) (s : State), P s → P (run n exam l s) := by
  intro n
  induction n with
  | zero => intro exam l s h; cases exam <;> cases l <;> exact h
  | succ n ih =>
    intro exam l s h
    cases l with
    | nil =>
      cases exam with
      | false => exact h
      | true => exact ih _ _ _ (he s h)
    | cons a l =>
      by_cases hx : a = .exam
      · subst hx; exact ih _ _ _ h
      · cases hr : a.requests with
        | false => rw [run_act n exam a l s ⟨hx, hr⟩]; exact ih _ _ _ (ha a s h)
        | true =>
          cases exam with
          | false => rw [run_act_closed n a l s hx]; exact ih _ _ _ (ha a s h)
          | true => rw [run_flush n a l s hr]; exact ih _ _ _ (he s h)

/-! ## Timers (R1) -/

theorem expiry_over {s : State} (h : s.frameOver = true) (o : Out) : expiry s o = event s o := by simp [expiry, h]

/-- Before the frame's end no timer expires. -/
theorem expiry_early {s : State} (h : s.frameOver = false) (o : Out) : expiry s o = event s (.done s) := by simp [expiry, h]

/-! ## The lines (R22, R26, R72, R117, R147, R175) -/

@[simp] theorem finish_mode (s : State) : (finish s).mode = s.mode := rfl
@[simp] theorem finish_frame (s : State) : (finish s).frame = s.frame := rfl
@[simp] theorem finish_frameFresh (s : State) : (finish s).frameFresh = s.frameFresh := rfl
@[simp] theorem finish_frameOver (s : State) : (finish s).frameOver = s.frameOver := rfl
@[simp] theorem finish_restartFrame (s : State) : (finish s).restartFrame = s.restartFrame := rfl
@[simp] theorem finish_atu (s : State) : (finish s).atu = s.atu := rfl
@[simp] theorem finish_lvs (s : State) : (finish s).lvs = s.lvs := rfl
@[simp] theorem finish_wgd (s : State) : (finish s).wgd = s.wgd := rfl
@[simp] theorem finish_flt (s : State) : (finish s).flt = s.flt := rfl
@[simp] theorem finish_sst (s : State) : (finish s).sst = s.sst := rfl
@[simp] theorem finish_pending (s : State) : (finish s).pending = s.pending := rfl
@[simp] theorem finish_freeCount (s : State) : (finish s).freeCount = s.freeCount := rfl
@[simp] theorem finish_pli (s : State) : (finish s).pli = s.transmitted := rfl
@[simp] theorem finish_chan (s : State) (c : Fin 16) : (finish s).chan c = s.chan c := rfl
@[simp] theorem finish_unit (s : State) (u : UnitId) : (finish s).unit u = s.unit u := rfl
@[simp] theorem finish_room (s : State) (r : Fin 4) : (finish s).room r = s.withSkew r := by
  simp [finish, State.room, Vector.get_eq_getElem]
theorem motorDuty_rooms {s t : State} (hc : t.chc.chans = s.chc.chans) (hp : t.sst = s.sst)
    (hr : ∀ r, (t.room r).type = (s.room r).type) (c : Fin 16) (m : Motion) : t.motorDuty c m = s.motorDuty c m := by
  unfold State.motorDuty State.skewOf State.skewValidOf State.motorPar State.roomPar State.chan
  simp only [hc, hp, hr]

theorem imageRule_rooms {s t : State} (hc : t.chc.chans = s.chc.chans) (hp : t.sst = s.sst) (hn : t.nlc = s.nlc)
    (hr : ∀ r, (t.room r).type = (s.room r).type) (n : Fin 8) : t.imageRule n = s.imageRule n := by
  have hd : ∀ c, t.driveOf c = s.driveOf c := fun c => by
    unfold State.driveOf
    have h1 : t.chan c = s.chan c := by simp [State.chan, hc]
    have h2 : t.motorPar c = s.motorPar c := by simp [State.motorPar, hp]
    simp only [h1, h2, motorDuty_rooms hc hp hr]
  have h3 : t.node n = s.node n := by simp [State.node, hn]
  unfold State.imageRule
  simp only [h3, hd]

theorem withSkew_type (s : State) (r : Fin 4) : (s.withSkew r).type = (s.room r).type := by
  unfold State.withSkew; simp only []; split <;> rfl

@[simp] theorem finish_node (s : State) (n : Fin 8) :
    (finish s).node n = { s.node n with image := s.imageRule n } := by
  have h := imageRule_rooms (s := s) (t := { s with chc := { s.chc with rooms := Vector.ofFn s.withSkew } }) rfl rfl rfl
    (fun r => by
      have : ({ s with chc := { s.chc with rooms := Vector.ofFn s.withSkew } } : State).room r = s.withSkew r := by
        simp [State.room, Vector.get_eq_getElem]
      rw [this, withSkew_type]) n
  rw [← h]
  simp [finish, State.node, Vector.get_eq_getElem]
  rfl
@[simp] theorem finish_sgu (s : State) : (finish s).sgu = { s.sgu with pump := s.pumpRule } := rfl
theorem finish_travelRule (s : State) : (finish s).travelRule = s.travelRule := rfl
@[simp] theorem finish_ciu (s : State) : (finish s).ciu = { s.ciu with travel := s.travelRule } := rfl

/-- An event that leaves lines in step with the records sends and nothing else. -/
theorem finish_lines {s : State} (h : Lines s) : finish s = s.sending := by
  have h1 : Vector.ofFn s.withSkew = s.chc.rooms := by
    ext i hi
    have := h.skew ⟨i, hi⟩
    simp [State.room, Vector.get] at this
    simpa using this
  have h2 : (Vector.ofFn fun n => { s.node n with image := s.imageRule n }) = s.nlc.nodes := by
    ext i hi
    have := h.images ⟨i, hi⟩
    simp [← this, State.node, Vector.get]
  have hp : State.pumpRule s = s.sgu.pump := h.pump.symm
  have htr : State.travelRule s = s.ciu.travel := h.travel.symm
  unfold finish State.sending
  simp only [h1]
  show ({ s with
    sgu := { s.sgu with pump := State.pumpRule s }, ciu := { s.ciu with travel := State.travelRule s }
    pli := s.transmitted
    nlc := { s.nlc with nodes := Vector.ofFn fun n => { s.node n with image := s.imageRule n } } } : State) = _
  rw [hp, htr, h2]

/-- What TRAVEL held before does not reach past the end of an event. -/
theorem finish_travel (s : State) (b : Bool) : finish { s with ciu := { s.ciu with travel := b } } = finish s := rfl

/-! ## Ends of conditions -/

theorem findFault_some {l : List FaultEntry} {k : FaultKind} {sj : Subject} {i : Nat} {e : FaultEntry}
    (h : findFault l k sj = some i) (he : l[i]? = some e) : e ∈ l ∧ e.kind = k ∧ e.subject = sj := by
  unfold findFault at h
  rw [List.findIdx?_eq_some_iff_getElem] at h
  obtain ⟨hi, hp, -⟩ := h
  rw [List.getElem?_eq_getElem hi] at he
  cases he
  simp at hp
  exact ⟨List.getElem_mem hi, hp.1, hp.2⟩

/-- The end of a condition that no entry shows present changes nothing (R167). -/
theorem actGone_absent {k : FaultKind} {sj : Subject} {s : State}
    (h : ∀ e ∈ s.flt.entries, e.kind = k → e.present = false) : actGone k sj s = .done s := by
  unfold actGone
  split
  · rfl
  · rename_i i hi
    split
    · rfl
    · rename_i e he
      obtain ⟨hm, hk, -⟩ := findFault_some hi he
      simp [h e hm hk]

/-! ## The evaluation of TRAVEL -/

/-- The acts left by an evaluation of a still state: at most an end of AWNING_EXPOSED that finds nothing. -/
def stillActs (s : State) : List Act := if s.awningStowed then [.gone .awningExposed (.unit .awning)] else []

theorem still_noRetract {s : State} (h : Still s) :
    (!s.roomsStowed && (jackChans.any fun c => (s.chan c).moves .retract)) = false := by
  rcases h.jacks with h1 | h1
  · simp [h1]
  · simp only [Bool.and_eq_false_iff]
    right
    simpa [List.any_eq_false] using h1

/-- TRAVEL stands as its rule gives: an evaluation changes nothing. -/
theorem restCheck_same {s : State} (h : Still s) (ht : s.ciu.travel = s.travelRule) :
    actRestCheck false s = { st := s, acts := stillActs s } := by
  unfold actRestCheck
  simp [← ht, still_noRetract h, stillActs]

/-- PARK is not released and no alarm is raised: an evaluation sets TRAVEL and changes nothing else. -/
theorem restCheck_parked {s : State} (h : Still s) (hp : Parked s) (force : Bool) :
    actRestCheck force s =
      { st := { s with ciu := { s.ciu with travel := s.travelRule } }, acts := stillActs s } := by
  have ha : s.ciu.alarm = false := hp.alarm
  have hc : ({ s with ciu := { s.ciu with travel := s.travelRule, alarm := false } } : State)
      = { s with ciu := { s.ciu with travel := s.travelRule } } := by
    rcases s with ⟨⟩; rename_i ciu _ _ _ _ _; rcases ciu with ⟨⟩; simp_all
  have hr : (decide (s.sst.phase = .run) && s.parkReleased) = false := by
    by_cases hph : s.sst.phase = .run
    · simp [hp.park hph]
    · simp [hph]
  unfold actRestCheck
  simp only [hr, ha, still_noRetract h, stillActs]
  cases force || s.travelRule != s.ciu.travel <;> simp [hc]

/-- The acts a still evaluation leaves are done in at most one step and change nothing. -/
theorem run_stillActs {s : State} (h : Still s) (n : Nat) (l : List Act) (exam : Bool) (t : State)
    (ht : t.flt = s.flt) :
    run (n + 1) exam (stillActs s ++ l) t = run (n + 1) exam l t ∨
      run (n + 1) exam (stillActs s ++ l) t = run n exam l t := by
  unfold stillActs
  split
  · rename_i ha
    right
    have hg : actGone .awningExposed (.unit .awning) t = .done t := actGone_absent fun e he hk => by
      rw [ht] at he
      cases hp : e.present with
      | false => rfl
      | true => have := h.exposed e he hk hp; simp_all
    simp [run, act, hg, Out.done]
  · left; rfl

/-! ## Closing an event -/

/-- The end of an event in a state whose TRAVEL already follows its rule. -/
theorem run_rest_same {s : State} (h : Still s) (ht : s.ciu.travel = s.travelRule) (n : Nat) :
    run (n + 2) false [.restCheck false] s = s := by
  rw [run_act _ _ _ _ _ (by simp)]
  simp only [act, restCheck_same h ht]
  rcases run_stillActs h n [] false s rfl with e | e <;> rw [e, run_nil]

/-- The end of an event with PARK not released: TRAVEL is set, and `finish` sets it again. -/
theorem finish_run_rest {s : State} (h : Still s) (hp : Parked s) (n : Nat) :
    finish (run (n + 2) false [.restCheck false] s) = finish s := by
  have e0 : run (n + 2) false [.restCheck false] s = run (n + 1) false (stillActs s ++ [])
      { s with ciu := { s.ciu with travel := s.travelRule } } := by
    rw [run_act _ _ _ _ _ (by simp)]
    simp only [act, restCheck_parked h hp]
  rw [e0]
  rcases run_stillActs h n [] false { s with ciu := { s.ciu with travel := s.travelRule } } rfl with e | e <;>
    rw [e, run_nil] <;> exact finish_travel s _

/-- A command that hands nothing on leaves a quiet state as it is, but for the transmitter. -/
theorem commit_quiet {s : State} (h : Quiet s) : commit s [] = s.sending := by
  have := run_rest_same h.still h.lines.travel 4094
  unfold commit fuel
  rw [List.nil_append, this, finish_lines h.lines]

/-- A command that hands nothing on, with PARK not released: the lines follow the records. -/
theorem commit_parked {s : State} (h : Still s) (hp : Parked s) : commit s [] = finish s := finish_run_rest h hp 4094

theorem still_pli {s : State} (h : Still s) (p : Pli) : Still { s with pli := p } := ⟨h.exposed, h.jacks⟩

theorem quiet_pli {s : State} (h : Quiet s) (p : Pli) : Quiet { s with pli := p } :=
  ⟨h.running, ⟨h.lines.skew, h.lines.pump, h.lines.travel, h.lines.images⟩, still_pli h.still p⟩

theorem running_of {s : State} (h : s.mode = .running) : s.running = true := by simp [State.running, h]

theorem event_running {s : State} (h : s.mode = .running) (o : Out) : event s o = .next (commit o.st o.acts) := by
  simp [event, running_of h]

theorem event_stopped {s : State} (h : s.mode ≠ .running) (o : Out) : event s o = .next s := by
  simp [event, State.running, h]

/-! ## Requests (R171, R173) -/

theorem heard_holding {s : State} (h : s.pli.holding = []) :
    ({ s.heard with pli := { s.heard.pli with holding := [] } } : State) = s.heard := by
  have h1 : (s.pli.heard s.sst.phase s.frame).holding = [] := by unfold Pli.heard; split <;> exact h
  show ({ s with pli := { s.pli.heard s.sst.phase s.frame with holding := [] } } : State)
    = { s with pli := s.pli.heard s.sst.phase s.frame }
  rw [← h1]

/-- A request that is served at once: the two acts that lead to its owner's decision. -/
theorem run_request {s : State} (h : Hears s) (f : Frame) (l : List Act) (n : Nat) (exam : Bool) :
    run (n + 2) exam (.arrive f :: l) s =
      run n exam ((serve (decodeRequest f) s.heard).acts ++ l)
        { (serve (decodeRequest f) s.heard).st with
          pli := { (serve (decodeRequest f) s.heard).st.pli with
            slot := some (replyFrame f (serve (decodeRequest f) s.heard).reply) } } := by
  have hold : (s.pli.heard s.sst.phase s.frame).hold f = { s.pli.heard s.sst.phase s.frame with holding := [f] } := by
    unfold Pli.hold Pli.heard
    split <;> simp [h.holding]
  have hm : (State.mayTake { s with pli := { s.pli.heard s.sst.phase s.frame with holding := [f] } }) = true := by
    have h1 := h.phase; have h2 := h.slot; have h3 := h.reset
    unfold State.mayTake Pli.heard
    split <;> simp [h1, h2, h3]
  have he : ({ s with pli := { s.pli.heard s.sst.phase s.frame with holding := [] } } : State) = s.heard :=
    heard_holding h.holding
  have key : actTake { s with pli := { s.pli.heard s.sst.phase s.frame with holding := [f] } }
      = { st := { (serve (decodeRequest f) s.heard).st with
          pli := { (serve (decodeRequest f) s.heard).st.pli with
            slot := some (replyFrame f (serve (decodeRequest f) s.heard).reply) } }
          acts := (serve (decodeRequest f) s.heard).acts } := by
    unfold actTake
    simp only [hm, if_true, he]
  have hs := h.silent
  rw [run_act _ _ _ _ _ (by simp)]
  simp only [act, actArrive, hs, Bool.false_eq_true, if_false, List.nil_append, List.cons_append, hold]
  rw [run_act _ _ _ _ _ (by simp)]
  simp only [act, key]

/-- A request whose decision hands nothing on and leaves the part quiet: its whole effect. -/
theorem request_served {s : State} (hr : s.mode = .running) (h : Hears s) {i : Instr} {f : Frame} (hf : encodeRequest i = some f)
    (ha : (serve (decodeRequest f) s.heard).acts = []) (hq : Quiet (serve (decodeRequest f) s.heard).st) :
    request i s = .next (((serve (decodeRequest f) s.heard).st.replied
      (replyFrame f (serve (decodeRequest f) s.heard).reply)).sending) := by
  unfold request
  simp only [hf, event_running hr, commit, fuel, List.cons_append, List.nil_append]
  rw [run_request h f _ 4094 false, ha, List.nil_append]
  have hq' := quiet_pli hq { (serve (decodeRequest f) s.heard).st.pli with
    slot := some (replyFrame f (serve (decodeRequest f) s.heard).reply) }
  rw [run_rest_same hq'.still hq'.lines.travel 4092, finish_lines hq'.lines]
  rfl

theorem quiet_heard {s : State} (h : Quiet s) : Quiet s.heard := quiet_pli h _

/-- A request that is only answered: the state its owner leaves, with the reply. -/
theorem request_answer {s : State} (hr : s.mode = .running) (h : Hears s) {i : Instr} {f : Frame} (hf : encodeRequest i = some f)
    {v : Served} (hv : serve (decodeRequest f) s.heard = v) (ha : v.acts = []) (hq : Quiet v.st) :
    request i s = .next ((v.st.replied (replyFrame f v.reply)).sending) := by
  subst hv; exact request_served hr h hf ha hq

end Sys2Proof.Machine
end

