-- ==== Sys2Proof/Laws/Does.lean ====
section
/-! SUPPORT. What a list of acts does, without counting the steps it takes: `Does` and its composition, and the event that a
list of acts makes. Claims about commands whose acts hand on others cite these. -/

namespace Sys2Proof.Machine

/-- From s the acts l, with all they hand on, lead to t in at most m steps; `x` says that an examination of the grant queue
has been asked for on the way. -/
def Does (m : Nat) (x : Bool) (l : List Act) (s t : State) : Prop :=
  ∃ j, j ≤ m ∧ ∀ n e k, run (n + j) e (l ++ k) s = run n (e || x) k t

theorem does_nil (s : State) : Does 0 false [] s s := ⟨0, le_refl _, fun n e k => by simp⟩

theorem does_mono {m m' : Nat} {x : Bool} {l : List Act} {s t : State} (h : Does m x l s t) (hm : m ≤ m') :
    Does m' x l s t := by
  obtain ⟨j, hj, hh⟩ := h; exact ⟨j, le_trans hj hm, hh⟩

theorem does_append {m m' : Nat} {x x' : Bool} {l l' : List Act} {s t u : State} (h : Does m x l s t)
    (h' : Does m' x' l' t u) : Does (m + m') (x || x') (l ++ l') s u := by
  obtain ⟨j, hj, hh⟩ := h; obtain ⟨i, hi, hh'⟩ := h'
  refine ⟨i + j, by omega, fun n e k => ?_⟩
  rw [← Nat.add_assoc, List.append_assoc, hh, hh', Bool.or_assoc]

/-- An act that asks for no grant, what it hands on, and what stood behind it. -/
theorem does_cons {m m' : Nat} {x x' : Bool} {a : Act} {l : List Act} {s t u : State} (ha : a ≠ .exam ∧ a.requests = false)
    (h : Does m x (act a s).acts (act a s).st t) (h' : Does m' x' l t u) :
    Does (m + m' + 1) (x || x') (a :: l) s u := by
  obtain ⟨j, hj, hh⟩ := does_append h h'
  refine ⟨j + 1, by omega, fun n e k => ?_⟩
  rw [List.cons_append, ← Nat.add_assoc, run_act _ _ _ _ _ ha, ← List.append_assoc, hh]

/-- An act that hands nothing on. -/
theorem does_done {m : Nat} {x : Bool} {a : Act} {l : List Act} {s t u : State} (ha : a ≠ .exam ∧ a.requests = false)
    (h : act a s = { st := t, acts := [] }) (h' : Does m x l t u) : Does (m + 1) x (a :: l) s u := by
  have := does_cons (m := 0) (x := false) ha (by rw [h]; exact does_nil t) h'
  simpa using this

theorem does_exam {m : Nat} {x : Bool} {l : List Act} {s t : State} (h : Does m x l s t) :
    Does (m + 1) true (.exam :: l) s t := by
  obtain ⟨j, hj, hh⟩ := h
  refine ⟨j + 1, by omega, fun n e k => ?_⟩
  rw [List.cons_append, ← Nat.add_assoc, run_exam, hh]; simp

/-- Only a step to the same TRAVEL-blind state is left by an evaluation of a steady state. -/
theorem does_restCheck {s : State} (h : Still s) (hp : Parked s) (force : Bool) :
    Does 2 false [.restCheck force] s { s with ciu := { s.ciu with travel := s.travelRule } } := by
  have e0 : act (.restCheck force) s =
      { st := { s with ciu := { s.ciu with travel := s.travelRule } }, acts := stillActs s } := restCheck_parked h hp force
  have hd : Does 1 false (stillActs s) { s with ciu := { s.ciu with travel := s.travelRule } }
      { s with ciu := { s.ciu with travel := s.travelRule } } := by
    unfold stillActs
    split
    · rename_i ha
      refine does_done (by simp) ?_ (does_nil _)
      exact actGone_absent fun e he hk => by
        cases hpr : e.present with
        | false => rfl
        | true => have := h.exposed e he hk hpr; simp_all
    · exact does_mono (does_nil _) (by omega)
  have := does_cons (a := .restCheck force) (l := []) (by simp) (by rw [e0]; exact hd) (does_nil _)
  simpa using this

/-- An event whose acts end in a steady state with nothing queued: the lines follow the records. -/
theorem commit_does {m : Nat} {x : Bool} {l : List Act} {s t : State} (h : Does m x l s t) (hm : m ≤ 4000) (hs : Still t)
    (hp : Parked t) (hq : x = true → t.sgu.queue = []) : commit s l = finish t := by
  obtain ⟨j, hj, hh⟩ := does_append h (does_restCheck hs hp false)
  obtain ⟨d, hd⟩ : ∃ d, fuel = d + 1 + j := ⟨4095 - j, by unfold fuel; omega⟩
  have := hh (d + 1) false []
  rw [List.append_nil] at this
  unfold commit
  rw [hd, this]
  cases x with
  | false => simp [run_nil, finish_travel]
  | true =>
    simp only [Bool.or_false, Bool.false_or]
    rw [run_examine]
    have hq' := hq rfl
    have : examine { t with ciu := { t.ciu with travel := t.travelRule } }
        = .done { t with ciu := { t.ciu with travel := t.travelRule } } := by
      unfold examine; simp [hq']
    rw [this]
    simp [Out.done, run_nil, finish_travel]

/-- An event whose acts end in a steady state and whose examination of the grant queue hands on acts. -/
theorem commit_exam {m m' : Nat} {x' : Bool} {l : List Act} {s t u : State} (h : Does m true l s t) (hm : m ≤ 2000)
    (hs : Still t) (hp : Parked t)
    (h' : Does m' x' (examine { t with ciu := { t.ciu with travel := t.travelRule } }).acts
      (examine { t with ciu := { t.ciu with travel := t.travelRule } }).st u) (hm' : m' ≤ 2000)
    (hq : x' = true → u.sgu.queue = []) : commit s l = finish u := by
  obtain ⟨j, hj, hh⟩ := does_append h (does_restCheck hs hp false)
  obtain ⟨i, hi, hh'⟩ := h'
  obtain ⟨d, hd⟩ : ∃ d, fuel = (d + 1 + i) + 1 + j := ⟨4094 - j - i, by unfold fuel; omega⟩
  have := hh (d + 1 + i + 1) false []
  rw [List.append_nil] at this
  unfold commit
  rw [hd, this]
  simp only [Bool.or_false, Bool.false_or]
  rw [run_examine]
  have := hh' (d + 1) false []
  rw [List.append_nil] at this
  rw [this]
  cases x' with
  | false => simp [run_nil]
  | true =>
    simp only [Bool.or_true]
    rw [run_examine]
    have hq' := hq rfl
    have : examine u = .done u := by unfold examine; simp [hq']
    rw [this]; simp [Out.done, run_nil]

/-- A command while the part runs, from what its acts do. -/
theorem event_does {m : Nat} {x : Bool} {s t : State} {o : Out} (hr : s.mode = .running) (h : Does m x o.acts o.st t)
    (hm : m ≤ 4000) (hs : Still t) (hp : Parked t) (hq : x = true → t.sgu.queue = []) : event s o = .next (finish t) := by
  rw [event_running hr, commit_does h hm hs hp hq]

/-- A command that hands nothing on: the lines follow the records. -/
theorem event_done {s t : State} (hr : s.mode = .running) (hs : Still t) (hp : Parked t) :
    event s (.done t) = .next (finish t) := by
  rw [event_running hr]; exact congrArg _ (commit_parked hs hp)

/-- A command that hands nothing on and leaves the lines in step. -/
theorem event_quiet {s t : State} (hr : s.mode = .running) (h : Quiet t) : event s (.done t) = .next t.sending := by
  rw [event_running hr]; exact congrArg _ (commit_quiet h)

/-- A command whose acts ask for no examination of the queue and end in a still state whose TRAVEL follows its rule. -/
theorem event_same {m : Nat} {s t : State} {o : Out} (hr : s.mode = .running) (h : Does m false o.acts o.st t)
    (hm : m ≤ 4000) (hs : Still t) (ht : t.ciu.travel = t.travelRule) : event s o = .next (finish t) := by
  obtain ⟨j, hj, hh⟩ := h
  obtain ⟨d, hd⟩ : ∃ d, fuel = d + 2 + j := ⟨4094 - j, by unfold fuel; omega⟩
  rw [event_running hr]
  unfold commit
  rw [hd, hh, Bool.or_false, run_rest_same hs ht d]

/-- A command whose acts ask for no examination of the queue and end in a quiet state. -/
theorem event_quiet_does {m : Nat} {s t : State} {o : Out} (hr : s.mode = .running) (h : Does m false o.acts o.st t)
    (hm : m ≤ 4000) (hq : Quiet t) : event s o = .next t.sending := by
  rw [event_same hr h hm hq.still hq.lines.travel, finish_lines hq.lines]

/-- A state that differs from a quiet one in what no line depends on. -/
theorem quiet_blocks {s t : State} (h : Quiet s) (h0 : t.mode = s.mode) (h1 : t.chc = s.chc) (h2 : t.nlc = s.nlc)
    (h3 : t.sst = s.sst) (h4 : t.ciu.travel = s.ciu.travel)
    (h5 : ∀ e ∈ t.flt.entries, e.kind = .awningExposed → e.present = true → s.awningStowed = false)
    (h6 : t.sgu.pump = s.sgu.pump) (h7 : t.sgu.grants = s.sgu.grants) : Quiet t := by
  have e1 : ∀ c, t.chan c = s.chan c := fun c => by simp [State.chan, h1]
  have e2 : ∀ c, t.unit c = s.unit c := fun c => by simp [State.unit, h1]
  rcases t with ⟨⟩
  simp only at h0 h1 h2 h3
  subst h0 h1 h2 h3
  refine ⟨h.running, ⟨h.lines.skew, ?_, h4.trans h.lines.travel, h.lines.images⟩, ⟨h5, h.still.jacks⟩⟩
  show _ = State.pumpRule _
  rw [h6, h.lines.pump]
  unfold State.pumpRule Sgu.holds
  rw [h7]; rfl

/-! ## Requests (R171, R173) -/

theorem request_event {i : Instr} {f : Frame} (hf : encodeRequest i = some f) (s : State) :
    request i s = event s { st := s, acts := [.arrive f] } := by unfold request; rw [hf]

/-- A request that is taken in the event of its arrival: its reply is placed, and its owner's acts follow. -/
theorem does_request {s t : State} (h : Hears s) (f : Frame) {m : Nat} {x : Bool} {v : Served}
    (hv : serve (decodeRequest f) s.heard = v) (hd : Does m x v.acts (v.st.replied (replyFrame f v.reply)) t) :
    Does (m + 2) x [.arrive f] s t := by
  subst hv
  obtain ⟨j, hj, hh⟩ := hd
  refine ⟨j + 2, by omega, fun n e k => ?_⟩
  rw [List.singleton_append, ← Nat.add_assoc, run_request h f k _ e]
  exact hh n e k

/-! ## Acts at rest -/

/-- The end of several units' work where none of them works. -/
theorem endUnits_idle {l : List Ending} {s : State} (h : ∀ e ∈ l, (s.unit e.unit).state = .idle) :
    actEndUnits l s = { st := s, acts := [] } := by
  have : (l.filter fun e => decide ((s.unit e.unit).state ≠ .idle)) = [] := by
    simp only [List.filter_eq_nil_iff]; intro e he; simp [h e he]
  unfold actEndUnits
  simp only [this]
  rfl

theorem does_endUnits_idle {l : List Ending} {s : State} (h : ∀ e ∈ l, (s.unit e.unit).state = .idle) :
    Does 1 false [.endUnits l] s s := by
  refine does_done (by simp) ?_ (does_nil _); exact endUnits_idle h

/-- The end of a condition that no entry shows present. -/
theorem does_gone {k : FaultKind} {sj : Subject} {s : State} (h : ∀ e ∈ s.flt.entries, e.kind = k → e.present = false) :
    Does 1 false [.gone k sj] s s := by
  refine does_done (by simp) ?_ (does_nil _); exact actGone_absent h

theorem reach_mem {s : State} {sj : Subject} {u : UnitId} (h : u ∈ s.reach sj) : (s.unit u).state ≠ .idle := by
  unfold State.reach at h; simp at h; exact h.2.1

/-- A WARN raise. -/
theorem does_raise_warn {k : FaultKind} {sj : Subject} {s : State} (hk : k.severity = .warn) :
    Does 1 false [.raise k sj] s (s.raised k sj) := by
  refine does_done (by simp) ?_ (does_nil _)
  simp [act, actRaise, hk, State.raised, Out.done]

@[simp] theorem raised_unit (s : State) (k : FaultKind) (sj : Subject) (u : UnitId) : (s.raised k sj).unit u = s.unit u := rfl
@[simp] theorem raised_chan (s : State) (k : FaultKind) (sj : Subject) (c : Fin 16) : (s.raised k sj).chan c = s.chan c := rfl
@[simp] theorem raised_chc (s : State) (k : FaultKind) (sj : Subject) : (s.raised k sj).chc = s.chc := rfl
@[simp] theorem raised_mode (s : State) (k : FaultKind) (sj : Subject) : (s.raised k sj).mode = s.mode := rfl
@[simp] theorem raised_frame (s : State) (k : FaultKind) (sj : Subject) : (s.raised k sj).frame = s.frame := rfl
@[simp] theorem raised_nlc (s : State) (k : FaultKind) (sj : Subject) : (s.raised k sj).nlc = s.nlc := rfl
@[simp] theorem raised_sgu (s : State) (k : FaultKind) (sj : Subject) : (s.raised k sj).sgu = s.sgu := rfl
@[simp] theorem raised_atu (s : State) (k : FaultKind) (sj : Subject) : (s.raised k sj).atu = s.atu := rfl
@[simp] theorem raised_lvs (s : State) (k : FaultKind) (sj : Subject) : (s.raised k sj).lvs = s.lvs := rfl
@[simp] theorem raised_wgd (s : State) (k : FaultKind) (sj : Subject) : (s.raised k sj).wgd = s.wgd := rfl
@[simp] theorem raised_ciu (s : State) (k : FaultKind) (sj : Subject) : (s.raised k sj).ciu = s.ciu := rfl
@[simp] theorem raised_sst (s : State) (k : FaultKind) (sj : Subject) : (s.raised k sj).sst = s.sst := rfl

/-- An entry of the list after a raise was there before, or is the raised kind's (R160, R161). -/
theorem mem_raise {f : Flt} {k : FaultKind} {sj : Subject} {now : FrameNo} {e : FaultEntry}
    (h : e ∈ (f.raise k sj now).1.entries) : e ∈ f.entries ∨ (e.kind = k ∧ e.subject = sj) := by
  unfold Flt.raise at h
  split at h
  · rename_i i hi
    split at h
    · rename_i x hx
      rcases List.mem_or_eq_of_mem_set h with h | rfl
      · exact .inl h
      · exact .inr (findFault_some hi hx).2
    · exact .inl h
  · split at h
    · rename_i l hl
      simp only [List.mem_append, List.mem_singleton] at h
      rcases h with h | rfl
      · left
        unfold makeRoom at hl
        split at hl
        · simp at hl; rwa [hl]
        · split at hl
          · simp at hl; rw [← hl] at h; exact List.mem_of_mem_eraseIdx h
          · split at hl
            · simp at hl; rw [← hl] at h; exact List.mem_of_mem_eraseIdx h
            · simp at hl
      · exact .inr ⟨rfl, rfl⟩
    · exact .inl h

/-- A raise of another kind than AWNING_EXPOSED leaves a still state still. -/
theorem still_raised {s : State} (h : Still s) {k : FaultKind} (hk : k ≠ .awningExposed) (sj : Subject) :
    Still (s.raised k sj) := by
  refine ⟨fun e he hk' hp => ?_, h.jacks⟩
  rcases mem_raise (f := s.flt) he with h1 | h1
  · exact h.exposed e h1 hk' hp
  · exact absurd (h1.1.symm.trans hk') hk

/-- A STOP raise that reaches no working unit. -/
theorem does_raise_stop_idle {k : FaultKind} {sj : Subject} {s : State} (hk : k.severity = .stop)
    (h : ∀ u, (s.unit u).state = .idle) : Does 2 false [.raise k sj] s (s.raised k sj) := by
  have e : act (.raise k sj) s = { st := s.raised k sj, acts := [.endUnits (((s.raised k sj).reach sj).map fun u =>
      ({ unit := u, why := .fault, cause := .fault k, subject := some sj } : Ending))] } := by
    simp [act, actRaise, hk, State.raised]
  have d := does_endUnits_idle (s := s.raised k sj) (l := ((s.raised k sj).reach sj).map fun u =>
      ({ unit := u, why := .fault, cause := .fault k, subject := some sj } : Ending)) (by
    intro e he; simp at he; obtain ⟨u, _, rfl⟩ := he; exact h u)
  have := does_cons (a := .raise k sj) (l := []) (by simp) (by rw [e]; exact d) (does_nil _)
  simpa using this

end Sys2Proof.Machine
end

