-- ==== Sys2Proof/Laws/Work.lean ====
section
/-! SUPPORT. What the shared operations on units and channels do: changes of several channels, the end of a unit's work, a
placed request. -/

namespace Sys2Proof.Machine

/-! ## Changes of several channels -/

/-- Several channel records changed alike: nothing else changes. -/
theorem foldl_modChan (f : Channel → Channel) : ∀ (l : List (Fin 16)) (s : State),
    ∃ v : Vector Channel 16,
      l.foldl (fun t c => t.modChan c f) s = { s with chc := { s.chc with chans := v } } ∧
      (∀ c, c ∉ l → v.get c = s.chan c) ∧ (l.Nodup → ∀ c, c ∈ l → v.get c = f (s.chan c)) := by
  intro l
  induction l with
  | nil => intro s; exact ⟨s.chc.chans, rfl, fun c _ => rfl, fun _ c h => by simp at h⟩
  | cons a l ih =>
    intro s
    obtain ⟨v, h1, h2, h3⟩ := ih (s.modChan a f)
    refine ⟨v, ?_, ?_, ?_⟩
    · rw [List.foldl_cons, h1]; rfl
    · intro c hc
      simp only [List.mem_cons, not_or] at hc
      rw [h2 c hc.2]; simp [hc.1]
    · intro hn c hc
      rw [List.nodup_cons] at hn
      rcases List.mem_cons.mp hc with rfl | hc
      · rw [h2 _ hn.1]; simp
      · rw [h3 hn.2 c hc]
        have : c ≠ a := fun e => hn.1 (e ▸ hc)
        simp [this]

theorem nodup_unitSlots (u : UnitId) : (unitSlots u).Nodup := by
  cases u with
  | jacks => decide
  | room r => simp [unitSlots, roomFront, roomRear, Fin.ext_iff]
  | awning => decide

/-! ## What rest positions depend on (R6, R7, R112) -/

/-- Two channel records agree on all that rest positions and population depend on. -/
structure CoreEq (x y : Channel) : Prop where
  kind : x.kind = y.kind
  position : x.position = y.position
  known : x.known = y.known
  cond : x.cond = y.cond
  latch : x.latch = y.latch
  extendEnd : x.extendEnd = y.extendEnd

theorem CoreEq.refl (x : Channel) : CoreEq x x := ⟨rfl, rfl, rfl, rfl, rfl, rfl⟩

theorem CoreEq.rest {x y : Channel} (h : CoreEq x y) (b : Nat) : x.rest b = y.rest b := by
  unfold Channel.rest Channel.isJack
  simp only [h.kind, h.position, h.known, h.cond, h.latch, h.extendEnd]

section
variable {s t : State} (hc : ∀ c, CoreEq (t.chan c) (s.chan c)) (hp : t.sst.params = s.sst.params)
include hc

theorem populated_congr (c : Fin 16) : t.populated c = s.populated c := by unfold State.populated; rw [(hc c).kind]

theorem unitChans_congr (u : UnitId) : t.unitChans u = s.unitChans u := by
  unfold State.unitChans; congr 1; funext c; exact populated_congr hc c

include hp

theorem rest_congr (c : Fin 16) : t.rest c = s.rest c := by
  unfold State.rest State.motorPar; rw [hp]; exact (hc c).rest _

theorem awningStowed_congr : t.awningStowed = s.awningStowed := by
  unfold State.awningStowed; rw [populated_congr hc, rest_congr hc hp]

theorem roomRest_congr (r : Fin 4) : t.roomRest r = s.roomRest r := by
  unfold State.roomRest
  rw [unitChans_congr hc]
  congr 2; funext c; exact rest_congr hc hp c

theorem roomsStowed_congr (hr : ∀ r, (t.room r).type = (s.room r).type) : t.roomsStowed = s.roomsStowed := by
  unfold State.roomsStowed State.roomUsed
  congr 1; funext r
  rw [hr, roomRest_congr hc hp]

theorem still_congr (hr : ∀ r, (t.room r).type = (s.room r).type) (hf : t.flt = s.flt)
    (hm : ∀ c, (s.chan c).moves .retract = false → (t.chan c).moves .retract = false) (h : Still s) : Still t := by
  refine ⟨?_, ?_⟩
  · rw [hf, awningStowed_congr hc hp]; exact h.exposed
  · rw [roomsStowed_congr hc hp hr]
    exact h.jacks.imp id fun k c hj => hm c (k c hj)
end

/-- A state whose listed conditions are gone and whose channels do not move is still. -/
theorem still_of_rest {s : State} (hf : ∀ e ∈ s.flt.entries, e.kind = .awningExposed → e.present = false)
    (hm : ∀ c, (s.chan c).motion = none) : Still s := by
  refine ⟨fun e he hk hp => absurd hp (by simp [hf e he hk]), .inr fun c _ => by simp [Channel.moves, hm]⟩

/-! ## The end of a unit's work (R20, R71) -/

/-- The state of `endUnit` in one update: the channels' vector is given by what each channel becomes. -/
theorem endUnit_eq {s : State} {u : UnitId} (h : (s.unit u).state ≠ .idle) (why : Reason) :
    ∃ v : Vector Channel 16, ∃ w : Vector Room 4,
      s.endUnit u why = ({ s with
        chc := { chans := v, units := s.chc.units.set (unitIdx u) .reset, rooms := w }
        sgu := { s.sgu with queue := s.sgu.queue.filter fun e => decide (e.unit ≠ u)
                            grants := s.sgu.grants.filter fun e => decide (e.unit ≠ u) } } : State).offer (.motionEnd u why)
      ∧ (∀ c, c ∉ unitSlots u → v.get c = s.chan c)
      ∧ (∀ c, c ∈ unitSlots u → v.get c = ((s.chan c).endMotion s.frame).unwait)
      ∧ (∀ r, w.get r = if u = .room r then (s.room r).endWork else s.room r) := by
  obtain ⟨v, h1, h2, h3⟩ := foldl_modChan (fun x => (x.endMotion s.frame).unwait) (unitSlots u) s
  have h3 := h3 (nodup_unitSlots u)
  unfold State.endUnit
  rw [if_neg h]
  simp only [h1]
  cases u with
  | jacks => exact ⟨v, s.chc.rooms, rfl, h2, h3, fun r => by simp [State.room]⟩
  | awning => exact ⟨v, s.chc.rooms, rfl, h2, h3, fun r => by simp [State.room]⟩
  | room q =>
    refine ⟨v, s.chc.rooms.set q (s.room q).endWork, rfl, h2, h3, fun r => ?_⟩
    by_cases e : q = r
    · subst e; simp [Vector.get_eq_getElem]
    · have : q.val ≠ r.val := fun h => e (Fin.ext h)
      simp [e, State.room, Vector.get_eq_getElem, this]

theorem endUnit_ended {s : State} {u : UnitId} (h : (s.unit u).state ≠ .idle) (why : Reason) :
    UnitEnded s (s.endUnit u why) u := by
  obtain ⟨v, w, e, h1, h2, h3⟩ := endUnit_eq h why
  rw [e]
  refine ⟨?_, ?_, fun c hc => h2 c hc, fun c hc => h1 c hc, rfl, rfl⟩
  · simp [State.unit, Vector.get_eq_getElem]
  · intro x hx
    have : (unitIdx u).val ≠ (unitIdx x).val := fun e => hx (unitIdx_inj (Fin.ext e.symm))
    simp [State.unit, Vector.get_eq_getElem, this]

section
variable (s : State) (u : UnitId) (why : Reason)

theorem endUnit_keeps {α : Type} (f : State → α) (h1 : ∀ (t : State) c, f { t with chc := c } = f t)
    (h2 : ∀ (t : State) q g, f { t with sgu := { t.sgu with queue := q, grants := g } } = f t)
    (h3 : ∀ (t : State) p, f { t with pli := p } = f t) : f (s.endUnit u why) = f s := by
  by_cases h : (s.unit u).state = .idle
  · unfold State.endUnit; rw [if_pos h]
  · obtain ⟨v, w, e, -⟩ := endUnit_eq h why
    rw [e]
    unfold State.offer
    rw [h3]
    exact (h2 { s with chc := { chans := v, units := s.chc.units.set (unitIdx u) .reset, rooms := w } } _ _).trans (h1 _ _)

@[simp] theorem endUnit_mode : (s.endUnit u why).mode = s.mode :=
  endUnit_keeps s u why State.mode (fun _ _ => rfl) (fun _ _ _ => rfl) fun _ _ => rfl
@[simp] theorem endUnit_frame : (s.endUnit u why).frame = s.frame :=
  endUnit_keeps s u why State.frame (fun _ _ => rfl) (fun _ _ _ => rfl) fun _ _ => rfl
@[simp] theorem endUnit_frameFresh : (s.endUnit u why).frameFresh = s.frameFresh :=
  endUnit_keeps s u why State.frameFresh (fun _ _ => rfl) (fun _ _ _ => rfl) fun _ _ => rfl
@[simp] theorem endUnit_frameOver : (s.endUnit u why).frameOver = s.frameOver :=
  endUnit_keeps s u why State.frameOver (fun _ _ => rfl) (fun _ _ _ => rfl) fun _ _ => rfl
@[simp] theorem endUnit_restartFrame : (s.endUnit u why).restartFrame = s.restartFrame :=
  endUnit_keeps s u why State.restartFrame (fun _ _ => rfl) (fun _ _ _ => rfl) fun _ _ => rfl
@[simp] theorem endUnit_nlc : (s.endUnit u why).nlc = s.nlc :=
  endUnit_keeps s u why State.nlc (fun _ _ => rfl) (fun _ _ _ => rfl) fun _ _ => rfl
@[simp] theorem endUnit_node (n : Fin 8) : (s.endUnit u why).node n = s.node n := by simp [State.node]
@[simp] theorem endUnit_atu : (s.endUnit u why).atu = s.atu :=
  endUnit_keeps s u why State.atu (fun _ _ => rfl) (fun _ _ _ => rfl) fun _ _ => rfl
@[simp] theorem endUnit_lvs : (s.endUnit u why).lvs = s.lvs :=
  endUnit_keeps s u why State.lvs (fun _ _ => rfl) (fun _ _ _ => rfl) fun _ _ => rfl
@[simp] theorem endUnit_wgd : (s.endUnit u why).wgd = s.wgd :=
  endUnit_keeps s u why State.wgd (fun _ _ => rfl) (fun _ _ _ => rfl) fun _ _ => rfl
@[simp] theorem endUnit_ciu : (s.endUnit u why).ciu = s.ciu :=
  endUnit_keeps s u why State.ciu (fun _ _ => rfl) (fun _ _ _ => rfl) fun _ _ => rfl
@[simp] theorem endUnit_flt : (s.endUnit u why).flt = s.flt :=
  endUnit_keeps s u why State.flt (fun _ _ => rfl) (fun _ _ _ => rfl) fun _ _ => rfl
@[simp] theorem endUnit_sst : (s.endUnit u why).sst = s.sst :=
  endUnit_keeps s u why State.sst (fun _ _ => rfl) (fun _ _ _ => rfl) fun _ _ => rfl
@[simp] theorem endUnit_pending : (s.endUnit u why).pending = s.pending :=
  endUnit_keeps s u why State.pending (fun _ _ => rfl) (fun _ _ _ => rfl) fun _ _ => rfl
@[simp] theorem endUnit_freeCount : (s.endUnit u why).freeCount = s.freeCount :=
  endUnit_keeps s u why State.freeCount (fun _ _ => rfl) (fun _ _ _ => rfl) fun _ _ => rfl
@[simp] theorem endUnit_supply : (s.endUnit u why).sgu.supply = s.sgu.supply :=
  endUnit_keeps s u why (fun s => s.sgu.supply) (fun _ _ => rfl) (fun _ _ _ => rfl) fun _ _ => rfl
@[simp] theorem endUnit_budget : (s.endUnit u why).sgu.budget = s.sgu.budget :=
  endUnit_keeps s u why (fun s => s.sgu.budget) (fun _ _ => rfl) (fun _ _ _ => rfl) fun _ _ => rfl
@[simp] theorem endUnit_par : (s.endUnit u why).par = s.par := by simp [State.par]
end

/-- What the end of a motion and the return from WAITING leave of a channel record. -/
theorem endMotion_keeps (x : Channel) (now : FrameNo) :
    ((x.endMotion now).unwait.kind = x.kind ∧ (x.endMotion now).unwait.role = x.role ∧
      (x.endMotion now).unwait.position = x.position ∧ (x.endMotion now).unwait.known = x.known ∧
      (x.endMotion now).unwait.cond = x.cond ∧ (x.endMotion now).unwait.latch = x.latch ∧
      (x.endMotion now).unwait.extendEnd = x.extendEnd ∧ (x.endMotion now).unwait.lock = x.lock ∧
      (x.endMotion now).unwait.motion = none) := by
  unfold Channel.endMotion Channel.unwait
  cases hm : x.motion with
  | none => simp only []; split <;> simp [hm]
  | some m => simp only []; refine ⟨?_, ?_, ?_, ?_, ?_, ?_, ?_, ?_, ?_⟩ <;> split <;> (try rfl) <;> split <;> try rfl

/-- Rest positions, which an end of work does not change. -/
theorem endMotion_rest (x : Channel) (now : FrameNo) (b : Nat) : (x.endMotion now).unwait.rest b = x.rest b := by
  obtain ⟨h1, -, h3, h4, h5, h6, h7, -, -⟩ := endMotion_keeps x now
  unfold Channel.rest Channel.isJack
  simp only [h1, h3, h4, h5, h6, h7]

theorem endUnit_chan (s : State) (u : UnitId) (why : Reason) (c : Fin 16) :
    (s.endUnit u why).chan c = s.chan c ∨ (s.endUnit u why).chan c = ((s.chan c).endMotion s.frame).unwait := by
  by_cases h : (s.unit u).state = .idle
  · left; unfold State.endUnit; rw [if_pos h]
  · have := endUnit_ended h why
    by_cases hc : c ∈ unitSlots u
    · right; exact this.chans c hc
    · left; exact this.otherChans c hc

theorem endUnit_kind (s : State) (u : UnitId) (why : Reason) (c : Fin 16) :
    ((s.endUnit u why).chan c).kind = (s.chan c).kind := by
  rcases endUnit_chan s u why c with e | e <;> rw [e]
  exact (endMotion_keeps _ _).1

theorem endUnit_rest (s : State) (u : UnitId) (why : Reason) (c : Fin 16) : (s.endUnit u why).rest c = s.rest c := by
  unfold State.rest State.motorPar
  rw [endUnit_sst]
  rcases endUnit_chan s u why c with e | e <;> rw [e]
  exact endMotion_rest _ _ _

theorem endUnit_moves (s : State) (u : UnitId) (why : Reason) (c : Fin 16) (d : Dir)
    (h : (s.chan c).moves d = false) : ((s.endUnit u why).chan c).moves d = false := by
  rcases endUnit_chan s u why c with e | e <;> rw [e]
  · exact h
  · simp [Channel.moves, (endMotion_keeps (s.chan c) s.frame).2.2.2.2.2.2.2.2]

theorem endUnit_populated (s : State) (u : UnitId) (why : Reason) (c : Fin 16) :
    (s.endUnit u why).populated c = s.populated c := by simp [State.populated, endUnit_kind]

theorem endUnit_unitChans (s : State) (u v : UnitId) (why : Reason) :
    (s.endUnit u why).unitChans v = s.unitChans v := by
  unfold State.unitChans
  congr 1; funext c; exact endUnit_populated s u why c

theorem endUnit_roomType (s : State) (u : UnitId) (why : Reason) (r : Fin 4) :
    ((s.endUnit u why).room r).type = (s.room r).type := by
  by_cases h : (s.unit u).state = .idle
  · unfold State.endUnit; rw [if_pos h]
  · obtain ⟨v, w, e, -, -, h3⟩ := endUnit_eq h why
    have : (s.endUnit u why).room r = w.get r := by rw [e]; rfl
    rw [this, h3]; split <;> rfl

theorem endUnit_awningStowed (s : State) (u : UnitId) (why : Reason) : (s.endUnit u why).awningStowed = s.awningStowed := by
  unfold State.awningStowed; rw [endUnit_populated, endUnit_rest]

theorem endUnit_roomsStowed (s : State) (u : UnitId) (why : Reason) : (s.endUnit u why).roomsStowed = s.roomsStowed := by
  unfold State.roomsStowed State.roomUsed State.roomRest
  simp only [endUnit_roomType, endUnit_unitChans]
  congr 1; funext r
  have : (fun c => (s.endUnit u why).rest c) = s.rest := funext (endUnit_rest s u why)
  show (!decide _ || decide (roomRestOf (List.map (fun c => (s.endUnit u why).rest c) _) = _)) = _
  rw [this]

theorem endUnit_still {s : State} (h : Still s) (u : UnitId) (why : Reason) : Still (s.endUnit u why) := by
  refine ⟨?_, ?_⟩
  · rw [endUnit_flt, endUnit_awningStowed]; exact h.exposed
  · rw [endUnit_roomsStowed]
    rcases h.jacks with h | h
    · exact .inl h
    · exact .inr fun c hc => endUnit_moves s u why c .retract (h c hc)

theorem parked_of_ciu {s t : State} (h : Parked s) (e : t.ciu = s.ciu) (e' : t.sst.phase = s.sst.phase) : Parked t := by
  refine ⟨?_, by rw [e]; exact h.alarm⟩
  have := h.park
  unfold State.parkReleased at *
  rwa [e, e']

theorem endUnit_parked {s : State} (h : Parked s) (u : UnitId) (why : Reason) : Parked (s.endUnit u why) :=
  parked_of_ciu h (endUnit_ciu s u why) (by rw [endUnit_sst])

/-- An end of work that is not a stow's is always handed on. -/
theorem sparesStep_of_origin {s : State} {e : Ending} (h : (s.unit e.unit).origin ≠ some .stow) : s.sparesStep e = false := by
  unfold State.sparesStep
  rw [Bool.and_eq_false_imp]
  intro k
  obtain ⟨-, hu, ho⟩ := of_decide_eq_true k
  rw [hu] at h
  exact absurd ho h

/-- The end of a USER unit's work, with all that follows it in its event. -/
theorem does_endUser {s : State} {u : UnitId} {why : Reason} {cause : Cause} {sj : Option Subject} (hs : Still s)
    (hp : Parked s) (hw : (s.unit u).state ≠ .idle) (ho : (s.unit u).origin = some .user) :
    Does 5 true [.endUnits [{ unit := u, why := why, cause := cause, subject := sj }]] s
      { s.endUnit u why with ciu := { s.ciu with travel := (s.endUnit u why).travelRule } } := by
  have e : act (.endUnits [{ unit := u, why := why, cause := cause, subject := sj }]) s =
      { st := s.endUnit u why
        acts := [.restCheck false, .exam, .handOff { unit := u, why := why, cause := cause, subject := sj } .user] } := by
    simp [act, actEndUnits, hw, ho, sparesStep_of_origin]
  have h1 := does_restCheck (endUnit_still hs u why) (endUnit_parked hp u why) false
  rw [endUnit_ciu] at h1
  have h2 : Does 2 true [.exam, .handOff { unit := u, why := why, cause := cause, subject := sj } .user]
      { s.endUnit u why with ciu := { s.ciu with travel := (s.endUnit u why).travelRule } }
      { s.endUnit u why with ciu := { s.ciu with travel := (s.endUnit u why).travelRule } } :=
    does_exam (does_done (by simp) rfl (does_nil _))
  have := does_cons (a := .endUnits [{ unit := u, why := why, cause := cause, subject := sj }]) (l := []) (by simp)
    (by rw [e]; exact does_append h1 h2) (does_nil _)
  simpa using this

/-- The state with TRAVEL as its rule gives. -/
def State.evaluated (s : State) : State := { s with ciu := { s.ciu with travel := s.travelRule } }

@[simp] theorem finish_evaluated (s : State) : finish s.evaluated = finish s := finish_travel s _

theorem still_evaluated {s : State} (h : Still s) : Still s.evaluated := ⟨h.exposed, h.jacks⟩

theorem parked_evaluated {s : State} (h : Parked s) : Parked s.evaluated := ⟨h.park, h.alarm⟩

theorem does_evaluate {s : State} (h : Still s) (hp : Parked s) (force : Bool) : Does 2 false [.restCheck force] s s.evaluated :=
  does_restCheck h hp force

/-- The end of a USER unit's work, with all that follows it in its event. -/
theorem does_ends {s : State} {u : UnitId} {why : Reason} {cause : Cause} {sj : Option Subject} (hs : Still s)
    (hp : Parked s) (hw : (s.unit u).state ≠ .idle) (ho : (s.unit u).origin = some .user) :
    Does 5 true [.endUnits [{ unit := u, why := why, cause := cause, subject := sj }]] s (s.endUnit u why).evaluated := by
  have := does_endUser (why := why) (cause := cause) (sj := sj) hs hp hw ho
  unfold State.evaluated
  rwa [endUnit_ciu]

/-- An event whose acts end with an evaluation of TRAVEL and nothing queued: the lines follow the records. -/
theorem event_ends {m : Nat} {x : Bool} {s t : State} {o : Out} (hr : s.mode = .running) (h : Does m x o.acts o.st t.evaluated)
    (hm : m ≤ 4000) (hs : Still t) (hp : Parked t) (hq : x = true → t.sgu.queue = []) : event s o = .next (finish t) := by
  rw [event_does hr h hm (still_evaluated hs) (parked_evaluated hp) hq, finish_evaluated]

theorem parked_raised {s : State} (h : Parked s) (k : FaultKind) (sj : Subject) : Parked (s.raised k sj) :=
  parked_of_ciu h rfl rfl

theorem endUnit_queue {s : State} {u : UnitId} (hw : (s.unit u).state ≠ .idle) (hq : s.queueOnly u) (why : Reason) :
    (s.endUnit u why).sgu.queue = [] := by
  rw [(endUnit_ended hw why).queue, List.filter_eq_nil_iff]
  intro e he; simp [hq e he]

/-! ## Which units a fault reaches (TABLE 10-3) -/

theorem mem_allUnits (u : UnitId) : u ∈ allUnits := by
  cases u with
  | jacks => decide
  | awning => decide
  | room r => revert r; decide

theorem unitOfChan_slots {c : Fin 16} {u : UnitId} (h : c ∈ unitSlots u) : unitOfChan c = u := by
  cases u with
  | jacks => revert c; decide
  | awning => revert c; decide
  | room r => revert c r; decide

theorem filter_one {α : Type} [DecidableEq α] {p : α → Bool} {a : α} :
    ∀ {l : List α}, l.Nodup → a ∈ l → (∀ b ∈ l, (p b = true ↔ b = a)) → l.filter p = [a] := by
  intro l
  induction l with
  | nil => intro _ h; simp at h
  | cons x l ih =>
    intro hn ha hp
    rw [List.nodup_cons] at hn
    by_cases h : x = a
    · subst h
      have : l.filter p = [] := by
        simp only [List.filter_eq_nil_iff]; intro b hb e; exact hn.1 ((hp b (by simp [hb])).mp e ▸ hb)
      simp [(hp x (by simp)).mpr rfl, this]
    · have hx : ¬p x = true := fun k => h ((hp x (by simp)).mp k)
      have ha' : a ∈ l := by simpa [Ne.symm h] using ha
      simp [hx, ih hn.2 ha' fun b hb => hp b (by simp [hb])]

theorem reach_one {s : State} {sj : Subject} {u : UnitId} (h : ∀ v, v ∈ s.reach sj ↔ v = u) : s.reach sj = [u] := by
  have h2 : s.reach sj = allUnits.filter fun v => decide (v ∈ s.reach sj) := by
    unfold State.reach
    refine List.filter_congr fun v _ => ?_
    simp [mem_allUnits]
  rw [h2]
  exact filter_one (by decide) (mem_allUnits u) fun v _ => by simp [h]

/-- A fault of a channel of a working unit reaches that unit alone. -/
theorem reach_chan {s : State} {c : Fin 16} {u : UnitId} (hc : c ∈ s.unitChans u) (hw : (s.unit u).state ≠ .idle) :
    s.reach (.chan c) = [u] := by
  refine reach_one fun v => ?_
  unfold State.reach
  simp only [List.mem_filter, mem_allUnits, true_and, Bool.and_eq_true, decide_eq_true_eq]
  constructor
  · intro k
    exact (unitOfChan_slots (List.mem_filter.mp k.2).1).symm.trans (unitOfChan_slots (List.mem_filter.mp hc).1)
  · rintro rfl; exact ⟨hw, hc⟩

/-- A fault of a node that serves no channel of a working unit reaches none. -/
theorem reach_node_none {s : State} {n : Fin 8}
    (h : ∀ u, (s.unit u).state ≠ .idle → ∀ c ∈ s.unitChans u, nodeOf c ≠ n) : s.reach (.node n) = [] := by
  unfold State.reach
  rw [List.filter_eq_nil_iff]
  intro u _ k
  simp only [Bool.and_eq_true, decide_eq_true_eq, List.any_eq_true] at k
  obtain ⟨hw, c, hc, hn⟩ := k
  exact h u hw c hc hn

/-- A fault of a node that serves a channel of the only unit that works reaches that unit alone. -/
theorem reach_node_one {s : State} {n : Fin 8} {u : UnitId} {c : Fin 16} (hc : c ∈ s.unitChans u) (hn : nodeOf c = n)
    (hw : (s.unit u).state ≠ .idle) (ho : ∀ v, v ≠ u → (s.unit v).state = .idle) : s.reach (.node n) = [u] := by
  refine reach_one fun v => ?_
  unfold State.reach
  simp only [List.mem_filter, mem_allUnits, true_and, Bool.and_eq_true, decide_eq_true_eq, List.any_eq_true]
  constructor
  · intro k; by_contra e; exact k.1 (ho v e)
  · rintro rfl; exact ⟨hw, c, hc, hn⟩

/-- A STOP raise that reaches no unit's work is listed and told, and ends nothing (R162). -/
theorem does_raise_stop_unreached {k : FaultKind} {sj : Subject} {s : State} (hk : k.severity = .stop)
    (hr : (s.raised k sj).reach sj = []) : Does 2 false [.raise k sj] s (s.raised k sj) := by
  have e : act (.raise k sj) s = { st := s.raised k sj, acts := [.endUnits []] } := by
    have : ((s.raised k sj).reach sj).map (fun u => ({ unit := u, why := .fault, cause := .fault k, subject := some sj } : Ending))
        = [] := by rw [hr]; rfl
    rw [← this]
    simp [act, actRaise, hk, State.raised]
  have := does_cons (a := .raise k sj) (l := []) (by simp) (by rw [e]; exact does_endUnits_idle (by simp)) (does_nil _)
  simpa using this

/-- A STOP raise that reaches one USER unit ends its work with FAULT (R162). -/
theorem does_raise_ends {k : FaultKind} {sj : Subject} {s : State} {u : UnitId} (hk : k.severity = .stop)
    (hka : k ≠ .awningExposed) (hr : (s.raised k sj).reach sj = [u]) (hs : Still s) (hp : Parked s)
    (hw : (s.unit u).state ≠ .idle) (ho : (s.unit u).origin = some .user) :
    Does 6 true [.raise k sj] s ((s.raised k sj).endUnit u .fault).evaluated := by
  have e : act (.raise k sj) s = { st := s.raised k sj
                                   acts := [.endUnits [{ unit := u, why := .fault, cause := .fault k, subject := some sj }]] } := by
    have : ((s.raised k sj).reach sj).map (fun u => ({ unit := u, why := .fault, cause := .fault k, subject := some sj } : Ending))
        = [{ unit := u, why := .fault, cause := .fault k, subject := some sj }] := by rw [hr]; rfl
    rw [← this]
    simp [act, actRaise, hk, State.raised]
  have d := does_ends (s := s.raised k sj) (u := u) (why := .fault) (cause := .fault k) (sj := some sj)
    (still_raised hs hka sj) (parked_of_ciu hp rfl rfl) hw ho
  have := does_cons (a := .raise k sj) (l := []) (by simp) (by rw [e]; exact d) (does_nil _)
  simpa using this

theorem nodup_unitChans (s : State) (u : UnitId) : (s.unitChans u).Nodup := (nodup_unitSlots u).filter _

/-! ## Changes of one channel -/

theorem core_endMotion (x : Channel) (n : FrameNo) : CoreEq (x.endMotion n) x := by
  unfold Channel.endMotion; split <;> exact ⟨rfl, rfl, rfl, rfl, rfl, rfl⟩

theorem endMotion_motion (x : Channel) (n : FrameNo) : (x.endMotion n).motion = none := by
  unfold Channel.endMotion; split
  · assumption
  · rfl

theorem still_setChan {s : State} (h : Still s) {c : Fin 16} {x : Channel} (hx : CoreEq x (s.chan c))
    (hm : (s.chan c).moves .retract = false → x.moves .retract = false) : Still (s.setChan c x) := by
  refine still_congr (s := s) (fun d => ?_) rfl (fun _ => rfl) rfl (fun d => ?_) h
  · rw [State.setChan_chan]; split
    · rename_i e; subst e; exact hx
    · exact CoreEq.refl _
  · rw [State.setChan_chan]; split
    · rename_i e; subst e; exact hm
    · exact id

theorem parked_setChan {s : State} (h : Parked s) (c : Fin 16) (x : Channel) : Parked (s.setChan c x) :=
  parked_of_ciu h rfl rfl

end Sys2Proof.Machine
end

