-- ==== Sys2Proof/Laws/Frame.lean ====
section
/-! SUPPORT. What no act of any event changes: the mode, the frame number and its marks, the waiting commands, the phase, the
layout code, the image and what the layout populates. -/

namespace Sys2Proof.Machine

/-- From s to t nothing changed that an act never changes. -/
structure Same (s t : State) : Prop where
  mode : t.mode = s.mode
  frame : t.frame = s.frame
  frameFresh : t.frameFresh = s.frameFresh
  frameOver : t.frameOver = s.frameOver
  restartFrame : t.restartFrame = s.restartFrame
  pending : t.pending = s.pending
  layout : t.sst.layoutCode = s.sst.layoutCode
  phase : t.sst.phase = s.sst.phase
  image : t.sst.image = s.sst.image
  outcome : t.sst.outcome = s.sst.outcome
  chans : ∀ c, (t.chan c).kind = (s.chan c).kind ∧ (t.chan c).role = (s.chan c).role
  rooms : ∀ r, (t.room r).type = (s.room r).type

theorem Same.refl (s : State) : Same s s := by constructor <;> intros <;> simp

theorem Same.trans {s t u : State} (h : Same s t) (k : Same t u) : Same s u where
  mode := k.mode.trans h.mode
  frame := k.frame.trans h.frame
  frameFresh := k.frameFresh.trans h.frameFresh
  frameOver := k.frameOver.trans h.frameOver
  restartFrame := k.restartFrame.trans h.restartFrame
  pending := k.pending.trans h.pending
  layout := k.layout.trans h.layout
  phase := k.phase.trans h.phase
  image := k.image.trans h.image
  outcome := k.outcome.trans h.outcome
  chans c := ⟨(k.chans c).1.trans (h.chans c).1, (k.chans c).2.trans (h.chans c).2⟩
  rooms r := (k.rooms r).trans (h.rooms r)

/-- A change of the blocks that hold nothing of this. -/
theorem same_of {s t : State} (h1 : t.mode = s.mode) (h2 : t.frame = s.frame) (h3 : t.frameFresh = s.frameFresh)
    (h9 : t.frameOver = s.frameOver)
    (h4 : t.restartFrame = s.restartFrame) (h5 : t.pending = s.pending) (h6 : t.sst = s.sst) (h7 : t.chc.chans = s.chc.chans)
    (h8 : t.chc.rooms = s.chc.rooms) : Same s t := by
  constructor <;> first | assumption | (rw [h6]) | (intro x; simp [State.chan, State.room, h7, h8])

theorem same_chans {s t : State} (h1 : t.mode = s.mode) (h2 : t.frame = s.frame) (h3 : t.frameFresh = s.frameFresh)
    (h9 : t.frameOver = s.frameOver)
    (h4 : t.restartFrame = s.restartFrame) (h5 : t.pending = s.pending) (h6 : t.sst = s.sst)
    (h7 : ∀ c, (t.chan c).kind = (s.chan c).kind ∧ (t.chan c).role = (s.chan c).role)
    (h8 : ∀ r, (t.room r).type = (s.room r).type) : Same s t := by
  constructor <;> first | assumption | (rw [h6])

theorem same_setChan (s : State) (c : Fin 16) (x : Channel) (hk : x.kind = (s.chan c).kind) (hr : x.role = (s.chan c).role) :
    Same s (s.setChan c x) :=
  same_chans rfl rfl rfl rfl rfl rfl rfl (fun d => by
    rw [State.setChan_chan]; split
    · rename_i h; subst h; exact ⟨hk, hr⟩
    · exact ⟨rfl, rfl⟩) fun _ => rfl

theorem same_modChan (s : State) (c : Fin 16) (f : Channel → Channel)
    (h : ∀ x, (f x).kind = x.kind ∧ (f x).role = x.role) : Same s (s.modChan c f) :=
  same_setChan s c _ (h _).1 (h _).2

theorem same_setUnit (s : State) (u : UnitId) (x : UnitRec) : Same s (s.setUnit u x) :=
  same_of rfl rfl rfl rfl rfl rfl rfl rfl rfl

theorem same_setRoom (s : State) (r : Fin 4) (x : Room) (h : x.type = (s.room r).type) : Same s (s.setRoom r x) :=
  same_chans rfl rfl rfl rfl rfl rfl rfl (fun _ => ⟨rfl, rfl⟩) fun q => by
    rw [State.setRoom_room]; split
    · rename_i e; subst e; exact h
    · rfl

theorem same_setNode (s : State) (n : Fin 8) (x : Node) : Same s (s.setNode n x) :=
  same_of rfl rfl rfl rfl rfl rfl rfl rfl rfl

theorem same_modNode (s : State) (n : Fin 8) (f : Node → Node) : Same s (s.modNode n f) := same_setNode _ _ _

theorem same_offer (s : State) (n : Notice) : Same s (s.offer n) := same_of rfl rfl rfl rfl rfl rfl rfl rfl rfl

theorem same_foldl {α : Type} (f : State → α → State) (h : ∀ t a, Same t (f t a)) :
    ∀ (l : List α) (s : State), Same s (l.foldl f s) := by
  intro l
  induction l with
  | nil => exact Same.refl
  | cons a l ih => intro s; exact (h s a).trans (ih _)

theorem same_blocks (s : State) (nlc : Nlc) (sgu : Sgu) (atu : Atu) (lvs : Lvs) (wgd : Wgd) (ciu : Ciu) (flt : Flt) (pli : Pli)
    (n : Nat) : Same s { s with nlc := nlc, sgu := sgu, atu := atu, lvs := lvs, wgd := wgd, ciu := ciu, flt := flt
                                pli := pli, freeCount := n } :=
  same_of rfl rfl rfl rfl rfl rfl rfl rfl rfl

/-! ## Shared operations -/

theorem keep_takeLock (x : Channel) (k : FaultKind) : (x.takeLock k).kind = x.kind ∧ (x.takeLock k).role = x.role := ⟨rfl, rfl⟩

theorem keep_clearLock (x : Channel) (k : FaultKind) : (x.clearLock k).kind = x.kind ∧ (x.clearLock k).role = x.role := by
  unfold Channel.clearLock; split <;> exact ⟨rfl, rfl⟩

theorem keep_endMotion (x : Channel) (n : FrameNo) : (x.endMotion n).kind = x.kind ∧ (x.endMotion n).role = x.role := by
  unfold Channel.endMotion; split <;> exact ⟨rfl, rfl⟩

theorem keep_unwait (x : Channel) : x.unwait.kind = x.kind ∧ x.unwait.role = x.role := by
  unfold Channel.unwait; split <;> exact ⟨rfl, rfl⟩

theorem same_lockAll (s : State) (k : FaultKind) (l : List (Fin 16)) : Same s (s.lockAll k l) :=
  same_foldl _ (fun t c => same_modChan t c _ fun x => keep_takeLock x k) l s

theorem same_raised (s : State) (k : FaultKind) (sj : Subject) : Same s (s.raised k sj) :=
  same_of rfl rfl rfl rfl rfl rfl rfl rfl rfl

theorem same_raise (k : FaultKind) (sj : Subject) (s : State) : Same s (actRaise k sj s).st := by
  unfold actRaise
  simp only []
  split
  · exact same_raised s k sj
  · exact same_raised s k sj
  · exact (same_raised s k sj).trans (same_lockAll _ _ _)

theorem same_gone (k : FaultKind) (sj : Subject) (s : State) : Same s (actGone k sj s).st := by
  unfold actGone
  split
  · exact Same.refl s
  · split
    · exact Same.refl s
    · split
      · exact same_of rfl rfl rfl rfl rfl rfl rfl rfl rfl
      · exact Same.refl s

theorem same_endUnit (s : State) (u : UnitId) (why : Reason) : Same s (s.endUnit u why) := by
  refine same_chans (by simp) (by simp) (by simp) (by simp) (by simp) (by simp) (by simp) (fun c => ?_)
    (fun r => endUnit_roomType s u why r)
  rcases endUnit_chan s u why c with e | e <;> rw [e]
  · exact ⟨rfl, rfl⟩
  · have := endMotion_keeps (s.chan c) s.frame; exact ⟨this.1, this.2.1⟩

theorem same_endUnits (l : List Ending) (s : State) : Same s (actEndUnits l s).st :=
  same_foldl (fun t (e : Ending) => t.endUnit e.unit e.why) (fun t e => same_endUnit t e.unit e.why) _ s

theorem same_createMotion (s : State) (c : Fin 16) (d : Dir) (t : Target) (o : Origin) (dl : Option FrameNo) :
    Same s (s.createMotion c d t o dl) := by
  unfold State.createMotion
  split
  · exact same_setChan _ _ _ rfl rfl
  · exact Same.refl s

theorem same_place (s : State) (u : UnitId) (o : Origin) (l : List Pending) : Same s (s.place u o l) := by
  unfold State.place
  simp only []
  refine ((same_setUnit s u _).trans (same_foldl _ (fun t (p : Pending) => same_modChan t p.chan _ fun x => ?_) l _)).trans
    (same_of rfl rfl rfl rfl rfl rfl rfl rfl rfl)
  split <;> exact ⟨rfl, rfl⟩

theorem same_createAll (s : State) (o : Origin) (l : List Pending) : Same s (s.createAll o l) :=
  same_foldl _ (fun t (p : Pending) => same_createMotion t p.chan p.dir p.target o p.deadline) l s

theorem same_startWindow (s : State) (u : UnitId) : Same s (s.startWindow u) := by
  unfold State.startWindow
  split
  · exact same_setRoom _ _ _ rfl
  · exact Same.refl s

theorem same_begin (s : State) (u : UnitId) (o : Origin) (l : List Pending) : Same s (s.begin u o l).st :=
  ((same_setUnit s u _).trans (same_createAll _ o l)).trans (same_startWindow _ u)

theorem same_grantHead (s : State) (e : QEntry) (rest : List QEntry) : Same s (s.grantHead e rest) :=
  same_of rfl rfl rfl rfl rfl rfl rfl rfl rfl

theorem same_examine (s : State) : Same s (examine s).st := by
  unfold examine
  split
  · exact Same.refl s
  · split
    · exact same_grantHead _ _ _
    · split
      · simp only []; split <;> exact Same.refl s
      · exact Same.refl s

theorem same_granted (u : UnitId) (s : State) : Same s (actGranted u s).st := by
  unfold actGranted
  simp only []
  split
  · exact Same.refl s
  · split
    · exact Same.refl s
    · exact same_begin _ _ _ _
  · exact Same.trans (t := { s with lvs := { s.lvs with seq := { s.lvs.seq with phaseStart := some s.frame } } })
      (same_of rfl rfl rfl rfl rfl rfl rfl rfl rfl) (same_begin _ _ _ _)
  · split
    · exact Same.refl s
    · exact same_begin _ _ _ _
  · exact same_begin _ _ _ _

theorem same_budget (s : State) : Same s (actBudget s).st := by
  unfold actBudget
  simp only []
  have h : ∀ b, Same s { s with sgu := { s.sgu with budget := b } } := fun b => same_of rfl rfl rfl rfl rfl rfl rfl rfl rfl
  split
  · exact h _
  · split
    · exact (h _).trans (same_endUnits _ _)
    · exact h _

/-! ## The sequences -/

theorem same_setSeq (s : State) (q : LvSeq) : Same s (s.setSeq q) := same_of rfl rfl rfl rfl rfl rfl rfl rfl rfl

theorem same_levelStatus (s : State) : Same s s.levelStatus := same_offer _ _

theorem same_enterSettling (s : State) : Same s s.enterSettling := (same_setSeq _ _).trans (same_levelStatus _)

theorem same_enterSupport (s : State) : Same s s.enterSupport.st :=
  ((same_setSeq _ _).trans (same_levelStatus _)).trans (same_foldl _ (fun t c => same_createMotion t c _ _ _ _) _ _)

theorem same_decideOutcome (s : State) (o : LvOutcome) : Same s (s.decideOutcome o).st := by
  unfold State.decideOutcome
  simp only []
  split
  · exact (same_setSeq _ _).trans (same_enterSupport _)
  · exact same_setSeq _ _

theorem same_enterLifting (s : State) (plan : List PlanEntry) : Same s (s.enterLifting plan).st := by
  refine ((same_setSeq _ _).trans (same_foldl _ (fun t (p : Fin 16 × PlanEntry) => ?_) _ _)).trans (same_levelStatus _)
  obtain ⟨c, e⟩ := p
  simp only []
  split
  · exact same_createMotion _ _ _ _ _ _
  · exact Same.refl t

theorem same_judge (s : State) (p r : Int) : Same s (s.judge p r).st := by
  unfold State.judge
  simp only []
  split
  · exact same_decideOutcome _ _
  · split
    · exact same_decideOutcome _ _
    · split
      · exact (same_setSeq _ _).trans (same_decideOutcome _ _)
      · exact (same_setSeq _ _).trans (same_enterLifting _ _)

theorem same_check (s : State) (p r : Int) : Same s (s.check p r).st := by
  unfold State.check
  simp only []
  repeat' split
  all_goals first | exact same_setSeq _ _ | exact (same_setSeq _ _).trans (same_judge _ _ _)

theorem same_lvsSample (s : State) : Same s (actLvsSample s).st := by
  unfold actLvsSample
  simp only []
  split
  · split
    · exact (same_setSeq _ _).trans (same_check _ _ _)
    · exact same_setSeq _ _
  · exact Same.refl s

theorem same_lvsProgress (s : State) : Same s (actLvsProgress s).st := by
  unfold actLvsProgress
  simp only []
  split
  · exact Same.refl s
  · split
    · split
      · exact same_enterSettling s
      · exact Same.refl s
    · split
      · exact Same.refl s
      · exact same_enterSettling s
    · split <;> exact Same.refl s
    · exact Same.refl s
    · exact Same.refl s

theorem same_lvsIntake (had : List (Fin 16)) (s : State) : Same s (actLvsIntake had s).st := by
  unfold actLvsIntake
  simp only []
  split
  · exact Same.refl s
  · exact same_setSeq _ _

theorem same_lvsLatchLost (c : Fin 16) (s : State) : Same s (actLvsLatchLost c s).st := by
  unfold actLvsLatchLost
  simp only []
  split
  · split
    · exact same_createMotion _ _ _ _ _ _
    · exact Same.refl s
  all_goals first | exact Same.refl s | (split <;> exact Same.refl s)

theorem same_lvsEnd (o : LvOutcome) (c : Cause) (f : Option (Int × Int)) (s : State) : Same s (actLvsEnd o c f s).st := by
  unfold actLvsEnd
  simp only []
  split
  · exact Same.refl s
  · split
    · exact (same_endUnit s _ _).trans (same_of rfl rfl rfl rfl rfl rfl rfl rfl rfl)
    · exact same_of rfl rfl rfl rfl rfl rfl rfl rfl rfl

theorem same_setStow (s : State) (q : StowSeq) : Same s (s.setStow q) := same_of rfl rfl rfl rfl rfl rfl rfl rfl rfl

theorem same_stowRequest (s : State) (u : UnitId) (l : List Pending) : Same s (s.stowRequest u l) :=
  (same_setStow s _).trans (same_place _ u .stow l)

theorem same_requestRooms (l : List (Fin 4)) (s : State) : Same s (actRequestRooms l s).st := by
  unfold actRequestRooms
  repeat' split
  all_goals first | exact Same.refl s | exact same_place _ _ _ _

theorem same_stowBegin (s : State) : Same s (actStowBegin s).st := by
  unfold actStowBegin
  split
  · exact Same.refl s
  · simp only []
    split
    · exact Same.refl s
    · split
      · exact same_setStow _ _
      · split
        · exact Same.refl s
        · split
          · exact Same.refl s
          · split
            · exact Same.refl s
            · exact same_stowRequest _ _ _
  · simp only []
    split
    · exact Same.refl s
    · split
      · exact Same.refl s
      · exact same_setStow _ _
  · simp only []
    split
    · exact Same.refl s
    · split
      · exact Same.refl s
      · split
        · exact Same.refl s
        · split
          · exact Same.refl s
          · exact same_stowRequest _ _ _

theorem same_stowUnitEnd (e : Ending) (s : State) : Same s (stowUnitEnd e s).st := by
  unfold stowUnitEnd
  simp only []
  split
  · split <;> first | exact same_setStow _ _ | (split <;> exact same_setStow _ _)
  · exact Same.refl s

theorem same_stowEnd (o : StowOutcome) (c : Cause) (sj : Option Subject) (s : State) : Same s (actStowEnd o c sj s).st := by
  unfold actStowEnd
  split
  · exact Same.refl s
  · exact same_setStow _ _

theorem same_stowDone (o : StowOutcome) (c : Cause) (sj : Option Subject) (s : State) : Same s (actStowDone o c sj s).st := by
  unfold actStowDone
  simp only []
  split
  · exact Same.refl s
  · exact same_of rfl rfl rfl rfl rfl rfl rfl rfl rfl

/-! ## The wind guard -/

theorem same_setRetract (s : State) (r : RetractState) : Same s (s.setRetract r) := same_of rfl rfl rfl rfl rfl rfl rfl rfl rfl

theorem same_convertRetract (s : State) : Same s s.convertRetract := by
  refine same_chans rfl rfl rfl rfl rfl rfl rfl (fun c => ?_) fun _ => rfl
  unfold State.convertRetract
  rw [State.modChan_chan]
  split
  · rename_i h; subst h; exact ⟨rfl, rfl⟩
  · exact ⟨rfl, rfl⟩

theorem same_provide (b : Bool) (s : State) : Same s (actProvide b s).st := by
  unfold actProvide
  simp only []
  repeat' split
  all_goals first
    | exact same_setRetract _ _
    | exact (same_convertRetract s).trans (same_setRetract _ _)
    | exact (same_place s _ _ _).trans (same_setRetract _ _)

theorem same_measure (s : State) : Same s (actMeasure s).st := by
  unfold actMeasure
  simp only []
  repeat' split
  all_goals exact same_of rfl rfl rfl rfl rfl rfl rfl rfl rfl

theorem same_wgdUnitEnd (e : Ending) (o : Origin) (s : State) : Same s (wgdUnitEnd e o s).st := by
  unfold wgdUnitEnd
  simp only []
  repeat' split
  all_goals first | exact Same.refl s | exact same_of rfl rfl rfl rfl rfl rfl rfl rfl rfl

theorem same_handOff (e : Ending) (o : Origin) (s : State) : Same s (actHandOff e o s).st := by
  unfold actHandOff
  split
  · exact Same.refl s
  · exact Same.refl s
  · exact (same_wgdUnitEnd _ _ _).trans (same_stowUnitEnd _ _)
  · exact (same_wgdUnitEnd _ _ _).trans (same_stowUnitEnd _ _)

/-! ## Channels and intakes -/

theorem same_chanEnd (c : Fin 16) (why : Reason) (s : State) : Same s (actChanEnd c why s).st := by
  unfold actChanEnd
  split
  · exact Same.refl s
  · exact same_modChan _ _ _ fun x => keep_endMotion x _

theorem same_dropPending (c : Fin 16) (why : Reason) (s : State) : Same s (actDropPending c why s).st :=
  (same_setUnit s _ _).trans (same_modChan _ _ _ keep_unwait)

theorem same_created (c : Fin 16) (s : State) : Same s (actCreated c s).st := by
  unfold actCreated
  simp only []
  split <;> exact Same.refl s

theorem same_motorEnd (c : Fin 16) (s : State) : Same s (actMotorEnd c s).st := by
  unfold actMotorEnd
  simp only []
  repeat' split
  all_goals first
    | exact Same.refl s
    | exact same_modChan _ _ _ (by intro x; exact ⟨rfl, rfl⟩)
    | exact (same_modChan _ _ _ (by intro x; exact ⟨rfl, rfl⟩)).trans (same_setRoom _ _ _ rfl)

theorem same_jackTest (c : Fin 16) (s : State) : Same s (actJackTest c s).st := by
  unfold actJackTest
  simp only []
  repeat' split
  all_goals exact Same.refl s

theorem same_setOutRec (s : State) (c : Fin 16) (o : OutRec) : Same s (s.setOutRec c o) := same_modNode _ _ _

theorem same_position (c : Fin 16) (n : BitVec 16) (s : State) : Same s (actPosition c n s).st := by
  unfold actPosition
  simp only []
  split
  · exact same_setOutRec _ _ _
  · refine same_chans rfl rfl rfl rfl rfl rfl rfl (fun d => ?_) fun _ => rfl
    rw [State.modChan_chan]
    split
    · rename_i h; subst h; exact ⟨rfl, rfl⟩
    · exact ⟨rfl, rfl⟩

theorem same_dragCount (s : State) (c : Fin 16) (i : Nat) : Same s (s.dragCount c i).st := by
  unfold State.dragCount
  simp only []
  repeat' split
  all_goals first | exact Same.refl s | exact same_setChan _ _ _ rfl rfl

theorem same_electric (c : Fin 16) (i p : Nat) (s : State) : Same s (actElectric c i p s).st := by
  unfold actElectric
  simp only []
  split
  · exact same_setChan _ _ _ rfl rfl
  · refine Same.trans ?_ (same_dragCount _ _ _)
    exact same_setChan _ _ _ rfl rfl

theorem same_condition (c : Fin 16) (k : Cond) (s : State) : Same s (actCondition c k s).st := by
  unfold actCondition
  simp only []
  repeat' split
  all_goals first
    | exact same_of rfl rfl rfl rfl rfl rfl rfl rfl rfl
    | (refine same_chans rfl rfl rfl rfl rfl rfl rfl (fun d => ?_) fun _ => rfl
       rw [State.setChan_chan]
       split
       · rename_i h; subst h; exact ⟨rfl, rfl⟩
       · exact ⟨rfl, rfl⟩)

theorem same_judgeDesc (s : State) (n : Fin 8) (l : List Byte) : Same s (s.judgeDesc n l).st := by
  unfold State.judgeDesc
  split <;> exact same_of rfl rfl rfl rfl rfl rfl rfl rfl rfl

theorem same_message (n : Fin 8) (ctl data : Byte) (s : State) : Same s (actMessage n ctl data s).st := by
  unfold actMessage
  simp only []
  repeat' split
  all_goals first
    | exact Same.refl s
    | exact same_setNode _ _ _
    | exact (same_setNode _ _ _).trans (same_judgeDesc _ _ _)

theorem same_forgetMotors (s : State) (n : Fin 8) : Same s (s.forgetMotors n) :=
  same_foldl _ (fun t c => same_modChan t c _ fun x => by split <;> exact ⟨rfl, rfl⟩) _ s

theorem same_countValid (n : Fin 8) (s : State) : Same s (actCountValid n s).st := by
  unfold actCountValid
  simp only []
  split
  · split
    · exact (same_setNode _ _ _).trans (same_forgetMotors _ _)
    · exact same_setNode _ _ _
  · exact same_setNode _ _ _

theorem same_countMiss (n : Fin 8) (s : State) : Same s (actCountMiss n s).st := by
  unfold actCountMiss
  simp only []
  split
  · refine Same.trans ?_ (same_foldl _ (fun t c => same_modChan t c _ (by intro x; exact ⟨rfl, rfl⟩)) _ _)
    exact same_setNode _ _ _
  · exact same_setNode _ _ _

theorem same_mismatch (n : Fin 8) (cause : MismatchCause) (s : State) : Same s (actMismatch n cause s).st :=
  (same_modNode _ _ _).trans (same_foldl _ (fun t c => same_modChan t c _ (by intro x; exact ⟨rfl, rfl⟩)) _ _)

/-! ## Requests -/

theorem same_params (s : State) (p : Params) : Same s { s with sst := { s.sst with params := p } } := by
  constructor <;> intros <;> first | rfl | exact ⟨rfl, rfl⟩

theorem same_attApply (s : State) : Same s (actAttApply s).st := by
  unfold actAttApply
  simp only []
  split
  · exact Same.refl s
  · exact same_of rfl rfl rfl rfl rfl rfl rfl rfl rfl

theorem same_captureDone (s : State) (c : Capture) (ok : Bool) : Same s (s.captureDone c ok) :=
  same_of rfl rfl rfl rfl rfl rfl rfl rfl rfl

theorem same_refreshChan (s : State) (u : UnitId) (c : Fin 16) : Same s (s.refreshChan u c) :=
  same_chans rfl rfl rfl rfl rfl rfl rfl (fun d => by
    unfold State.refreshChan
    rw [State.modChan_chan]
    split
    · rename_i h; subst h; exact ⟨rfl, rfl⟩
    · exact ⟨rfl, rfl⟩) fun _ => rfl

theorem same_moveFresh (s : State) (u : UnitId) (d : Dir) (l : List Pending) : Same s (s.moveFresh u d l).st := by
  unfold State.moveFresh
  split
  · exact Same.refl s
  · split
    · exact Same.refl s
    · exact same_place _ _ _ _

theorem same_moveHeld (s : State) (u : UnitId) (d : Dir) : Same s (s.moveHeld u d).st := by
  have h : ∀ l : List (Fin 16), Same s (l.foldl (fun t c => t.refreshChan u c) s) := fun l =>
    same_foldl _ (fun t c => same_refreshChan t u c) l s
  unfold State.moveHeld
  split
  · exact h _
  · split
    · exact Same.refl s
    · exact h _
  · split
    · exact Same.refl s
    · exact h _

theorem same_startLevel (s : State) (b : Bool) : Same s (s.startLevel b).st := by
  unfold State.startLevel
  simp only []
  split
  · exact (same_setSeq _ _).trans (same_levelStatus _)
  · exact ((same_setSeq _ _).trans (same_levelStatus _)).trans (same_place _ _ _ _)

theorem same_clearFault (s : State) (k : FaultKind) (sj : Subject) : Same s (s.clearFault k sj).1 := by
  unfold State.clearFault
  simp only []
  refine Same.trans ?_ (same_foldl _ (fun t c => same_modChan t c _ fun x => keep_clearLock x k) _ _)
  exact same_of rfl rfl rfl rfl rfl rfl rfl rfl rfl

theorem same_leaveMismatch (s : State) (n : Fin 8) : Same s (s.leaveMismatch n) :=
  ((same_modNode _ _ _).trans (same_foldl _ (fun t c => same_modChan t c _ (by intro x; exact ⟨rfl, rfl⟩)) _ _)).trans
    (same_forgetMotors _ _)

theorem same_serve (i : Instr) (s : State) : Same s (serve i s).st := by
  have hr : ∀ r, Same s (refuse s r).st := fun r => Same.refl s
  have ha : ∀ l, Same s (answer s l).st := fun l => Same.refl s
  cases i with
  | move tag subject direction =>
    show Same s (serveMove s subject direction).st
    unfold serveMove
    repeat' split
    all_goals first | exact Same.refl s | exact same_moveHeld _ _ _ | exact same_moveFresh _ _ _ _
  | moveJack tag jack direction =>
    show Same s (serveMoveJack s jack direction).st
    unfold serveMoveJack State.jackJoin
    simp only []
    repeat' split
    all_goals first
      | exact Same.refl s
      | exact same_moveFresh _ _ _ _
      | exact same_refreshChan _ _ _
      | exact same_createMotion _ _ _ _ _ _
      | (refine same_chans rfl rfl rfl rfl rfl rfl rfl (fun d => ?_) fun _ => rfl
         rw [State.modChan_chan]
         split
         · rename_i h; subst h; exact ⟨rfl, rfl⟩
         · exact ⟨rfl, rfl⟩)
  | stop tag subject =>
    show Same s (serveStop s subject).st
    unfold serveStop
    repeat' split
    all_goals exact Same.refl s
  | level tag option =>
    show Same s (serveLevel s option).st
    unfold serveLevel
    simp only []
    repeat' split
    all_goals first | exact Same.refl s | exact same_startLevel _ _
  | levelResult tag part =>
    show Same s (serveLevelResult s part).st
    unfold serveLevelResult
    repeat' split
    all_goals exact Same.refl s
  | reference tag =>
    show Same s (serveReference s).st
    unfold serveReference
    repeat' split
    all_goals first | exact Same.refl s | exact same_captureDone _ _ _ | exact same_of rfl rfl rfl rfl rfl rfl rfl rfl rfl
  | stow tag =>
    show Same s (serveStow s).st
    unfold serveStow
    repeat' split
    all_goals exact Same.refl s
  | guardReset tag =>
    show Same s (serveGuardReset s).st
    unfold serveGuardReset
    repeat' split
    all_goals exact Same.refl s
  | paramGet tag id subject =>
    show Same s (serveParamGet s id subject).st
    unfold serveParamGet
    split
    · exact Same.refl s
    · split
      · exact Same.refl s
      · simp only []
        split
        · exact Same.refl s
        · exact same_of rfl rfl rfl rfl rfl rfl rfl rfl rfl
  | paramSet tag id subject value =>
    show Same s (serveParamSet s id subject value).st
    unfold serveParamSet
    simp only []
    repeat' split
    all_goals first | exact Same.refl s | exact same_params _ _
  | commit tag =>
    show Same s (serveCommit s).st
    unfold serveCommit
    repeat' split
    all_goals first
      | exact Same.refl s
      | (constructor <;> intros <;> first | rfl | exact ⟨rfl, rfl⟩)
  | faults tag start =>
    show Same s (serveFaults s start).st
    unfold serveFaults
    repeat' split
    all_goals exact Same.refl s
  | faultClear tag kind subject =>
    show Same s (serveFaultClear s kind subject).st
    unfold serveFaultClear
    simp only []
    repeat' split
    all_goals first
      | exact Same.refl s
      | exact same_clearFault _ _ _
      | exact (same_clearFault _ _ _).trans (same_leaveMismatch _ _)
  | channel tag id =>
    show Same s (serveChannel s id).st
    unfold serveChannel
    split <;> exact Same.refl s
  | nodes tag address =>
    show Same s (serveNodes s address).st
    unfold serveNodes
    split <;> exact Same.refl s
  | _ => first | exact Same.refl s | exact same_of rfl rfl rfl rfl rfl rfl rfl rfl rfl

theorem same_arrive (f : Frame) (s : State) : Same s (actArrive f s).st := same_of rfl rfl rfl rfl rfl rfl rfl rfl rfl

theorem same_take (s : State) : Same s (actTake s).st := by
  unfold actTake
  split
  · exact Same.refl s
  · split
    · rename_i f rest h hm
      have h1 := same_serve (decodeRequest f) { s with pli := { s.pli with holding := rest } }
      have h0 : Same s { s with pli := { s.pli with holding := rest } } := same_of rfl rfl rfl rfl rfl rfl rfl rfl rfl
      have h2 : ∀ (t : State) p, Same t { t with pli := p } := fun t p => same_of rfl rfl rfl rfl rfl rfl rfl rfl rfl
      exact (h0.trans h1).trans (h2 _ _)
    · exact Same.refl s

theorem act_same (a : Act) (s : State) : Same s (act a s).st := by
  cases a with
  | raise k sj => exact same_raise k sj s
  | gone k sj => exact same_gone k sj s
  | endUnits l => exact same_endUnits l s
  | handOff e o => exact same_handOff e o s
  | chanEnd c why => exact same_chanEnd c why s
  | dropPending c why => exact same_dropPending c why s
  | created c => exact same_created c s
  | rehome c => exact same_modChan s c Channel.rehomed fun x => ⟨rfl, rfl⟩
  | motorEnd c => exact same_motorEnd c s
  | extendEnd c => exact same_modChan s c (fun x => { x with extendEnd := true }) fun x => ⟨rfl, rfl⟩
  | jackTest c => exact same_jackTest c s
  | exam => exact same_of rfl rfl rfl rfl rfl rfl rfl rfl rfl
  | granted u => exact same_granted u s
  | restCheck b => exact same_of rfl rfl rfl rfl rfl rfl rfl rfl rfl
  | termFail a b => exact Same.refl s
  | alarmRise => exact Same.refl s
  | lvsProgress => exact same_lvsProgress s
  | lvsIntake had => exact same_lvsIntake had s
  | lvsLatchLost c => exact same_lvsLatchLost c s
  | lvsSample => exact same_lvsSample s
  | lvsEnd o c f => exact same_lvsEnd o c f s
  | stowStart t => exact same_setStow _ _
  | stowEnter st => exact (same_setStow _ _).trans (same_offer _ _)
  | stowBegin => exact same_stowBegin s
  | requestRooms l => exact same_requestRooms l s
  | stowEnd o c sj => exact same_stowEnd o c sj s
  | stowDone o c sj => exact same_stowDone o c sj s
  | provide b => exact same_provide b s
  | guardNotice g => exact same_offer _ _
  | measure => exact same_measure s
  | guardArm => exact same_of rfl rfl rfl rfl rfl rfl rfl rfl rfl
  | position c n => exact same_position c n s
  | electric c i p => exact same_electric c i p s
  | condition c k => exact same_condition c k s
  | message n ctl data => exact same_message n ctl data s
  | countValid n => exact same_countValid n s
  | countMiss n => exact same_countMiss n s
  | attemptFail n => exact same_setNode _ _ _
  | mismatch n cause => exact same_mismatch n cause s
  | budget => exact same_budget s
  | attApply => exact same_attApply s
  | arrive f => exact same_arrive f s
  | take => exact same_take s

theorem run_same (n : Nat) (e : Bool) (l : List Act) (s : State) : Same s (run n e l s) :=
  run_keeps (P := fun t => Same s t) (fun a _ h => h.trans (act_same a _)) (fun _ h => h.trans (same_examine _)) n e l s
    (Same.refl s)

theorem same_finish (s : State) : Same s (finish s) :=
  same_chans rfl rfl rfl rfl rfl rfl rfl (fun _ => ⟨rfl, rfl⟩) fun r => by rw [finish_room]; exact withSkew_type s r

theorem commit_same (s : State) (l : List Act) : Same s (commit s l) := (run_same _ _ _ _).trans (same_finish _)

end Sys2Proof.Machine
end

