-- ==== Sys2Proof/Laws/Link.lean ====
section
/-! SUPPORT. What offering a notice and taking up the next frame leave of the link. -/

namespace Sys2Proof.Machine

@[simp] theorem transmit_rx (p : Pli) : p.transmit.rx = p.rx := by
  unfold Pli.transmit; split <;> (try split) <;> rfl
@[simp] theorem transmit_rxLen (p : Pli) : p.transmit.rxLen = p.rxLen := by
  unfold Pli.transmit; split <;> (try split) <;> rfl
@[simp] theorem transmit_rxBytes (p : Pli) : p.transmit.rxBytes = p.rxBytes := by
  unfold Pli.transmit; split <;> (try split) <;> rfl
@[simp] theorem transmit_gapStart (p : Pli) : p.transmit.gapStart = p.gapStart := by
  unfold Pli.transmit; split <;> (try split) <;> rfl
@[simp] theorem transmit_holding (p : Pli) : p.transmit.holding = p.holding := by
  unfold Pli.transmit; split <;> (try split) <;> rfl
@[simp] theorem transmit_silenceStart (p : Pli) : p.transmit.silenceStart = p.silenceStart := by
  unfold Pli.transmit; split <;> (try split) <;> rfl
@[simp] theorem transmit_silent (p : Pli) : p.transmit.silent = p.silent := by
  unfold Pli.transmit; split <;> (try split) <;> rfl
@[simp] theorem transmit_resetCause (p : Pli) : p.transmit.resetCause = p.resetCause := by
  unfold Pli.transmit; split <;> (try split) <;> rfl
@[simp] theorem transmit_restartCause (p : Pli) : p.transmit.restartCause = p.restartCause := by
  unfold Pli.transmit; split <;> (try split) <;> rfl
@[simp] theorem transmit_crcErrors (p : Pli) : p.transmit.crcErrors = p.crcErrors := by
  unfold Pli.transmit; split <;> (try split) <;> rfl
@[simp] theorem transmit_lengthErrors (p : Pli) : p.transmit.lengthErrors = p.lengthErrors := by
  unfold Pli.transmit; split <;> (try split) <;> rfl
@[simp] theorem transmit_brokenFrames (p : Pli) : p.transmit.brokenFrames = p.brokenFrames := by
  unfold Pli.transmit; split <;> (try split) <;> rfl
@[simp] theorem transmit_overruns (p : Pli) : p.transmit.overruns = p.overruns := by
  unfold Pli.transmit; split <;> (try split) <;> rfl
@[simp] theorem transmit_resetPending (p : Pli) : p.transmit.resetPending = p.resetPending := by
  unfold Pli.transmit; split <;> (try split) <;> rfl
@[simp] theorem transmit_slot (p : Pli) : p.transmit.slot = p.slot := by
  unfold Pli.transmit; split <;> (try split) <;> rfl
@[simp] theorem transmit_seq (p : Pli) : p.transmit.seq = p.seq := by
  unfold Pli.transmit; split <;> (try split) <;> rfl
@[simp] theorem transmit_lost (p : Pli) : p.transmit.lost = p.lost := by
  unfold Pli.transmit; split <;> (try split) <;> rfl
@[simp] theorem transmitted_rx (s : State) : s.transmitted.rx = s.pli.rx := by
  unfold State.transmitted; split <;> simp
@[simp] theorem transmitted_rxLen (s : State) : s.transmitted.rxLen = s.pli.rxLen := by
  unfold State.transmitted; split <;> simp
@[simp] theorem transmitted_rxBytes (s : State) : s.transmitted.rxBytes = s.pli.rxBytes := by
  unfold State.transmitted; split <;> simp
@[simp] theorem transmitted_gapStart (s : State) : s.transmitted.gapStart = s.pli.gapStart := by
  unfold State.transmitted; split <;> simp
@[simp] theorem transmitted_holding (s : State) : s.transmitted.holding = s.pli.holding := by
  unfold State.transmitted; split <;> simp
@[simp] theorem transmitted_silenceStart (s : State) : s.transmitted.silenceStart = s.pli.silenceStart := by
  unfold State.transmitted; split <;> simp
@[simp] theorem transmitted_silent (s : State) : s.transmitted.silent = s.pli.silent := by
  unfold State.transmitted; split <;> simp
@[simp] theorem transmitted_resetCause (s : State) : s.transmitted.resetCause = s.pli.resetCause := by
  unfold State.transmitted; split <;> simp
@[simp] theorem transmitted_restartCause (s : State) : s.transmitted.restartCause = s.pli.restartCause := by
  unfold State.transmitted; split <;> simp
@[simp] theorem transmitted_crcErrors (s : State) : s.transmitted.crcErrors = s.pli.crcErrors := by
  unfold State.transmitted; split <;> simp
@[simp] theorem transmitted_lengthErrors (s : State) : s.transmitted.lengthErrors = s.pli.lengthErrors := by
  unfold State.transmitted; split <;> simp
@[simp] theorem transmitted_brokenFrames (s : State) : s.transmitted.brokenFrames = s.pli.brokenFrames := by
  unfold State.transmitted; split <;> simp
@[simp] theorem transmitted_overruns (s : State) : s.transmitted.overruns = s.pli.overruns := by
  unfold State.transmitted; split <;> simp
@[simp] theorem transmitted_resetPending (s : State) : s.transmitted.resetPending = s.pli.resetPending := by
  unfold State.transmitted; split <;> simp
@[simp] theorem transmitted_slot (s : State) : s.transmitted.slot = s.pli.slot := by
  unfold State.transmitted; split <;> simp
@[simp] theorem transmitted_seq (s : State) : s.transmitted.seq = s.pli.seq := by
  unfold State.transmitted; split <;> simp
@[simp] theorem transmitted_lost (s : State) : s.transmitted.lost = s.pli.lost := by
  unfold State.transmitted; split <;> simp
@[simp] theorem pliOffer_rx (p : Pli) (m : BitVec 13) (n : Notice) : (p.offer m n).rx = p.rx := by
  unfold Pli.offer; split <;> (try split) <;> rfl
@[simp] theorem pliOffer_rxLen (p : Pli) (m : BitVec 13) (n : Notice) : (p.offer m n).rxLen = p.rxLen := by
  unfold Pli.offer; split <;> (try split) <;> rfl
@[simp] theorem pliOffer_rxBytes (p : Pli) (m : BitVec 13) (n : Notice) : (p.offer m n).rxBytes = p.rxBytes := by
  unfold Pli.offer; split <;> (try split) <;> rfl
@[simp] theorem pliOffer_gapStart (p : Pli) (m : BitVec 13) (n : Notice) : (p.offer m n).gapStart = p.gapStart := by
  unfold Pli.offer; split <;> (try split) <;> rfl
@[simp] theorem pliOffer_holding (p : Pli) (m : BitVec 13) (n : Notice) : (p.offer m n).holding = p.holding := by
  unfold Pli.offer; split <;> (try split) <;> rfl
@[simp] theorem pliOffer_silenceStart (p : Pli) (m : BitVec 13) (n : Notice) : (p.offer m n).silenceStart = p.silenceStart := by
  unfold Pli.offer; split <;> (try split) <;> rfl
@[simp] theorem pliOffer_silent (p : Pli) (m : BitVec 13) (n : Notice) : (p.offer m n).silent = p.silent := by
  unfold Pli.offer; split <;> (try split) <;> rfl
@[simp] theorem pliOffer_resetCause (p : Pli) (m : BitVec 13) (n : Notice) : (p.offer m n).resetCause = p.resetCause := by
  unfold Pli.offer; split <;> (try split) <;> rfl
@[simp] theorem pliOffer_restartCause (p : Pli) (m : BitVec 13) (n : Notice) : (p.offer m n).restartCause = p.restartCause := by
  unfold Pli.offer; split <;> (try split) <;> rfl
@[simp] theorem pliOffer_crcErrors (p : Pli) (m : BitVec 13) (n : Notice) : (p.offer m n).crcErrors = p.crcErrors := by
  unfold Pli.offer; split <;> (try split) <;> rfl
@[simp] theorem pliOffer_lengthErrors (p : Pli) (m : BitVec 13) (n : Notice) : (p.offer m n).lengthErrors = p.lengthErrors := by
  unfold Pli.offer; split <;> (try split) <;> rfl
@[simp] theorem pliOffer_brokenFrames (p : Pli) (m : BitVec 13) (n : Notice) : (p.offer m n).brokenFrames = p.brokenFrames := by
  unfold Pli.offer; split <;> (try split) <;> rfl
@[simp] theorem pliOffer_overruns (p : Pli) (m : BitVec 13) (n : Notice) : (p.offer m n).overruns = p.overruns := by
  unfold Pli.offer; split <;> (try split) <;> rfl
@[simp] theorem pliOffer_resetPending (p : Pli) (m : BitVec 13) (n : Notice) : (p.offer m n).resetPending = p.resetPending := by
  unfold Pli.offer; split <;> (try split) <;> rfl
@[simp] theorem pliOffer_slot (p : Pli) (m : BitVec 13) (n : Notice) : (p.offer m n).slot = p.slot := by
  unfold Pli.offer; split <;> (try split) <;> rfl
@[simp] theorem pliOffer_tx (p : Pli) (m : BitVec 13) (n : Notice) : (p.offer m n).tx = p.tx := by
  unfold Pli.offer; split <;> (try split) <;> rfl
@[simp] theorem offer_pli (s : State) (n : Notice) : (s.offer n).pli = s.pli.offer s.par.noticeMask n := rfl
theorem raised_pli (s : State) (k : FaultKind) (sj : Subject) : ∃ n, (s.raised k sj).pli = s.pli.offer s.par.noticeMask n :=
  ⟨_, rfl⟩
@[simp] theorem raised_rx (s : State) (k : FaultKind) (sj : Subject) : (s.raised k sj).pli.rx = s.pli.rx :=
  pliOffer_rx _ _ _
@[simp] theorem raised_rxLen (s : State) (k : FaultKind) (sj : Subject) : (s.raised k sj).pli.rxLen = s.pli.rxLen :=
  pliOffer_rxLen _ _ _
@[simp] theorem raised_rxBytes (s : State) (k : FaultKind) (sj : Subject) : (s.raised k sj).pli.rxBytes = s.pli.rxBytes :=
  pliOffer_rxBytes _ _ _
@[simp] theorem raised_gapStart (s : State) (k : FaultKind) (sj : Subject) : (s.raised k sj).pli.gapStart = s.pli.gapStart :=
  pliOffer_gapStart _ _ _
@[simp] theorem raised_holding (s : State) (k : FaultKind) (sj : Subject) : (s.raised k sj).pli.holding = s.pli.holding :=
  pliOffer_holding _ _ _
@[simp] theorem raised_silenceStart (s : State) (k : FaultKind) (sj : Subject) : (s.raised k sj).pli.silenceStart = s.pli.silenceStart :=
  pliOffer_silenceStart _ _ _
@[simp] theorem raised_silent (s : State) (k : FaultKind) (sj : Subject) : (s.raised k sj).pli.silent = s.pli.silent :=
  pliOffer_silent _ _ _
@[simp] theorem raised_resetCause (s : State) (k : FaultKind) (sj : Subject) : (s.raised k sj).pli.resetCause = s.pli.resetCause :=
  pliOffer_resetCause _ _ _
@[simp] theorem raised_restartCause (s : State) (k : FaultKind) (sj : Subject) : (s.raised k sj).pli.restartCause = s.pli.restartCause :=
  pliOffer_restartCause _ _ _
@[simp] theorem raised_crcErrors (s : State) (k : FaultKind) (sj : Subject) : (s.raised k sj).pli.crcErrors = s.pli.crcErrors :=
  pliOffer_crcErrors _ _ _
@[simp] theorem raised_lengthErrors (s : State) (k : FaultKind) (sj : Subject) : (s.raised k sj).pli.lengthErrors = s.pli.lengthErrors :=
  pliOffer_lengthErrors _ _ _
@[simp] theorem raised_brokenFrames (s : State) (k : FaultKind) (sj : Subject) : (s.raised k sj).pli.brokenFrames = s.pli.brokenFrames :=
  pliOffer_brokenFrames _ _ _
@[simp] theorem raised_overruns (s : State) (k : FaultKind) (sj : Subject) : (s.raised k sj).pli.overruns = s.pli.overruns :=
  pliOffer_overruns _ _ _
@[simp] theorem raised_resetPending (s : State) (k : FaultKind) (sj : Subject) : (s.raised k sj).pli.resetPending = s.pli.resetPending :=
  pliOffer_resetPending _ _ _
@[simp] theorem raised_slot (s : State) (k : FaultKind) (sj : Subject) : (s.raised k sj).pli.slot = s.pli.slot :=
  pliOffer_slot _ _ _
@[simp] theorem raised_tx (s : State) (k : FaultKind) (sj : Subject) : (s.raised k sj).pli.tx = s.pli.tx :=
  pliOffer_tx _ _ _

end Sys2Proof.Machine
end

