-- ==== Sys2Proof/Laws/Events.lean ====
section
/-! SUPPORT. What the acts of single commands do: ends of work, raises, inputs, the guard and the panel link. -/

namespace Sys2Proof.Machine

/-- A command whose act ends the work of a USER unit. -/
theorem event_endUser {s : State} {u : UnitId} {why : Reason} {cause : Cause} {sj : Option Subject} (h : Steady s)
    (hw : (s.unit u).state ≠ .idle) (ho : (s.unit u).origin = some .user) (hq : s.queueOnly u) :
    event s { st := s, acts := [.endUnits [{ unit := u, why := why, cause := cause, subject := sj }]] } = .next (finish (s.endUnit u why)) :=
  event_ends h.running (does_ends h.still h.parked hw ho) (by omega) (endUnit_still h.still _ _) (endUnit_parked h.parked _ _) fun _ => endUnit_queue hw hq _

theorem head_insertYoung (e : GEntry) : ∀ l : List GEntry, (∀ g ∈ l, g.order ≤ e.order) → (insertYoung e l).head? = some e := by
  intro l h
  cases l with
  | nil => rfl
  | cons g l => simp [insertYoung, h g (by simp)]

theorem head_insertYoung_older (e g : GEntry) (l : List GEntry) (hl : l.head? = some g) (h : e.order < g.order) : (insertYoung e l).head? = some g := by
  cases l with
  | nil => simp at hl
  | cons x l => simp at hl; subst hl; simp [insertYoung, Nat.not_le.mpr h]

theorem mem_insertYoung (e x : GEntry) : ∀ l : List GEntry, x ∈ insertYoung e l ↔ x = e ∨ x ∈ l := by
  intro l; induction l with
  | nil => simp [insertYoung]
  | cons g l ih => unfold insertYoung; split <;> simp [ih]; tauto

/-- The youngest grant heads the sorted list (R74). -/
theorem head_sortYoung (g : GEntry) : ∀ l : List GEntry, g ∈ l → (∀ e ∈ l, e ≠ g → e.order < g.order) → (l.foldr insertYoung []).head? = some g := by
  have hmem : ∀ (l : List GEntry) x, x ∈ l.foldr insertYoung [] ↔ x ∈ l := by
    intro l; induction l with
    | nil => simp
    | cons a l ih => intro x; rw [List.foldr_cons, mem_insertYoung, ih]; simp
  intro l
  induction l with
  | nil => simp
  | cons a l ih =>
    intro hg h
    rw [List.foldr_cons]
    by_cases ha : a = g
    · subst ha
      refine head_insertYoung a _ fun x hx => ?_
      rw [hmem] at hx
      by_cases e : x = a
      · rw [e]
      · exact Nat.le_of_lt (h x (by simp [hx]) e)
    · have hg' : g ∈ l := by simpa [Ne.symm ha] using hg
      exact head_insertYoung_older a g _ (ih hg' fun e he => h e (by simp [he])) (h a (by simp) ha)

/-- A fault of a working room reaches that room alone. -/
theorem reach_room {s : State} {r : Fin 4} (hw : (s.unit (.room r)).state ≠ .idle) : s.reach (.room r) = [.room r] := by
  refine reach_one fun v => ?_
  unfold State.reach
  simp only [List.mem_filter, mem_allUnits, true_and, Bool.and_eq_true, decide_eq_true_eq]
  constructor
  · intro k; exact k.2
  · rintro rfl; exact ⟨hw, rfl⟩

theorem does_lvsEnd_idle {s : State} (h : s.lvs.seq.state = .idle) (o : LvOutcome) (c : Cause) (f : Option (Int × Int)) :
    Does 1 false [.lvsEnd o c f] s s := by
  refine does_done (by simp) ?_ (does_nil _)
  show actLvsEnd _ _ _ _ = _
  unfold actLvsEnd; simp only []; rw [if_pos h]; rfl

theorem endUnit_position (s : State) (u : UnitId) (why : Reason) (c : Fin 16) : ((s.endUnit u why).chan c).position = (s.chan c).position := by
  rcases endUnit_chan s u why c with e | e <;> rw [e]
  exact (endMotion_keeps _ _).2.2.1

/-- The end of a unit's work moves no channel. -/
theorem endUnit_positions (s : State) (u : UnitId) (why : Reason) : (s.endUnit u why).jackPositions = s.jackPositions := by
  unfold State.jackPositions
  have : (s.endUnit u why).populated = s.populated := funext (endUnit_populated s u why)
  rw [this]
  exact List.map_congr_left fun c _ => by rw [endUnit_position]

/-- Every block but the fault list and the panel link is as it was. -/
structure KeepsBlocks (s t : State) : Prop where
  mode : t.mode = s.mode
  frame : t.frame = s.frame
  chc : t.chc = s.chc
  nlc : t.nlc = s.nlc
  sgu : t.sgu = s.sgu
  atu : t.atu = s.atu
  lvs : t.lvs = s.lvs
  wgd : t.wgd = s.wgd
  ciu : t.ciu = s.ciu
  sst : t.sst = s.sst

/-- Raising a fault for each channel of a list moves the fault list and the notices alone. -/
theorem raises_keeps (k : FaultKind) : ∀ (l : List (Fin 16)) (s : State), KeepsBlocks s (l.foldl (fun t c => t.raised k (.chan c)) s) ∧
    (l.foldl (fun t c => t.raised k (.chan c)) s).flt = l.foldl (fun g c => (Flt.raise g k (.chan c) s.frame).1) s.flt := by
  intro l; induction l with
  | nil => intro s; exact ⟨⟨rfl, rfl, rfl, rfl, rfl, rfl, rfl, rfl, rfl, rfl⟩, rfl⟩
  | cons a l ih =>
    intro s
    obtain ⟨h1, h2⟩ := ih (s.raised k (.chan a))
    exact ⟨⟨h1.mode, h1.frame, h1.chc, h1.nlc, h1.sgu, h1.atu, h1.lvs, h1.wgd, h1.ciu, h1.sst⟩, h2⟩

theorem still_raises {k : FaultKind} (hk : k ≠ .awningExposed) : ∀ (l : List (Fin 16)) {s : State}, Still s → Still (l.foldl (fun t c => t.raised k (.chan c)) s) := by
  intro l; induction l with
  | nil => intro s h; exact h
  | cons a l ih => intro s h; exact ih (still_raised h hk _)

/-- STOP faults raised with every unit idle end no work. -/
theorem does_raises_idle {k : FaultKind} (hk : k.severity = .stop) : ∀ (l : List (Fin 16)) {s : State}, (∀ u, (s.unit u).state = .idle) →
    Does (2 * l.length) false (l.map fun c => Act.raise k (.chan c)) s (l.foldl (fun t c => t.raised k (.chan c)) s) := by
  intro l; induction l with
  | nil => intro s _; exact does_nil s
  | cons a l ih =>
    intro s h
    have := does_append (does_raise_stop_idle (sj := .chan a) hk h) (ih (s := s.raised k (.chan a)) h)
    exact does_mono this (by simp; omega)

theorem takeLock_core (x : Channel) (k : FaultKind) : CoreEq (x.takeLock k) x := ⟨rfl, rfl, rfl, rfl, rfl, rfl⟩

theorem sample_eq_sampled (x : Input) (l : Bool) : x.sample l = x.sampled l := by
  unfold Input.sample Input.sampled sat
  congr 1; split <;> (try rfl)
  split <;> omega

theorem accepts_iff_newLevel (x : Input) (l : Bool) : (x.sample l).accepts = true ↔ x.newLevel l := by
  rw [sample_eq_sampled]; unfold Input.accepts Input.newLevel
  rw [decide_eq_true_eq]; rfl

theorem quiet_setInput {s : State} (h : Quiet s) (i : InputId) (x : Input) : Quiet (s.setInput i x) := by
  cases i <;> exact quiet_blocks h rfl rfl rfl rfl rfl h.still.exposed rfl rfl

/-- A failed term ends nothing where nothing moves. -/
theorem termFail_no_motion {t : State} (a b : Bool) (hm : ∀ c, (t.chan c).motion = none) : actTermFail a b t = { st := t, acts := [.endUnits []] } := by
  unfold actTermFail
  have : ∀ u, ((t.unitChans u).any fun c => (t.chan c).moves .extend) = false := fun u => by
    rw [List.any_eq_false]; intro c _; simp [Channel.moves, hm]
  simp only [this, Bool.and_false, List.filter_false]; rfl

theorem tripAtOnce_le_iff (s : State) (n : Nat) : s.par.tripAtOnce ≤ n ↔ roundDiv (s.par.windTrip * 3) 2 ≤ (n : Int) := by
  unfold CoachParams.tripAtOnce
  omega

theorem quiet_wgd {s : State} (h : Quiet s) (g : Wgd) : Quiet { s with wgd := g } :=
  quiet_blocks h rfl rfl rfl rfl rfl h.still.exposed rfl rfl

/-- A command whose act raises a WARN fault. -/
theorem event_warn {s t : State} {k : FaultKind} {sj : Subject} (hr : s.mode = .running) (hk : k ≠ .awningExposed) (hw : k.severity = .warn) (hs : Still t) (hp : Parked t) :
    event s { st := t, acts := [.raise k sj] } = .next (finish (t.raised k sj)) :=
  event_does hr (does_raise_warn hw) (by omega) (still_raised hs hk _) (parked_raised hp _ _) (by simp)

/-- Changing the only member that meets a test is changing it at its index. -/
theorem map_eq_set {α : Type} (p : α → Bool) (f : α → α) : ∀ (l : List α) (i : Nat) (e : α), (l.filter p).length ≤ 1 →
    l.findIdx? p = some i → l[i]? = some e → l.map (fun x => if p x then f x else x) = l.set i (f e) := by
  intro l; induction l with
  | nil => intro i e _ h; simp at h
  | cons a l ih =>
    intro i e h hi he
    by_cases ha : p a = true
    · simp [List.findIdx?_cons, ha] at hi
      subst hi; simp at he; subst he
      have hl : l.filter p = [] := by
        rw [List.filter_cons_of_pos ha] at h; simp only [List.length_cons] at h
        exact List.eq_nil_of_length_eq_zero (by omega)
      rw [List.filter_eq_nil_iff] at hl
      simp only [List.map_cons, ha, if_true, List.set_cons_zero]
      congr 1
      conv_rhs => rw [← List.map_id l]
      exact List.map_congr_left fun x hx => by simp [hl x hx]
    · simp only [List.findIdx?_cons, ha, Bool.false_eq_true, if_false, Option.map_eq_some_iff] at hi
      obtain ⟨j, hj, rfl⟩ := hi
      simp at he
      simp only [List.map_cons, ha, Bool.false_eq_true, if_false, List.set_cons_succ]
      rw [ih j e (by rwa [List.filter_cons_of_neg ha] at h) hj he]

/-- A condition reported gone is no longer present (R167). -/
theorem gone_ended (k : FaultKind) (sj : Subject) (s : State) (h : s.flt.single k sj) :
    ∃ p : Pli, p.slot = s.pli.slot ∧ actGone k sj s = .done { s with flt := s.flt.ended k sj, pli := p } := by
  have hp : ∀ e : FaultEntry, (decide (e.kind = k ∧ e.subject = sj)) = true ↔ (e.kind = k ∧ e.subject = sj) := fun e => decide_eq_true_iff
  unfold actGone
  split
  · rename_i hn
    refine ⟨s.pli, rfl, ?_⟩
    have : s.flt.ended k sj = s.flt := by
      unfold findFault at hn
      rw [List.findIdx?_eq_none_iff] at hn
      unfold Flt.ended
      have : (s.flt.entries.map fun e => if e.kind = k ∧ e.subject = sj then { e with present := false } else e) = s.flt.entries := by
        conv_rhs => rw [← List.map_id s.flt.entries]
        refine List.map_congr_left fun e he => ?_
        have := hn e he
        simp only [decide_eq_false_iff_not] at this
        rw [if_neg this]; rfl
      rw [this]
    rw [this]
  · rename_i i hi
    split
    · rename_i he
      unfold findFault at hi
      have := (List.findIdx?_eq_some_iff_getElem.mp hi).1
      rw [List.getElem?_eq_none_iff] at he; omega
    · rename_i e he
      have key := map_eq_set (fun e : FaultEntry => decide (e.kind = k ∧ e.subject = sj)) (fun e => { e with present := false }) s.flt.entries i e h hi he
      simp only [decide_eq_true_eq] at key
      split
      · refine ⟨s.pli.offer s.par.noticeMask (.faultGone k sj i), pliOffer_slot _ _ _, ?_⟩
        unfold Flt.ended; rw [key]; rfl
      · rename_i hpr
        refine ⟨s.pli, rfl, ?_⟩
        have : s.flt.ended k sj = s.flt := by
          unfold Flt.ended; rw [key]
          have : ({ e with present := false } : FaultEntry) = e := by
            rcases e with ⟨_, _, _, pr, _, _, _⟩
            cases pr
            · rfl
            · exact absurd rfl hpr
          rw [this]
          have : s.flt.entries.set i e = s.flt.entries := by
            obtain ⟨hlt, rfl⟩ := List.getElem?_eq_some_iff.mp he
            exact List.set_getElem_self hlt
          rw [this]
        rw [this]

theorem ended_single {f : Flt} {k k' : FaultKind} {sj sj' : Subject} (h : f.single k sj) : (f.ended k' sj').single k sj := by
  unfold Flt.single Flt.ended at *
  rw [List.filter_map, List.length_map]
  refine le_trans (le_of_eq ?_) h
  congr 2
  funext e
  simp only [Function.comp]
  split <;> rfl

theorem mem_ended {f : Flt} {k : FaultKind} {sj : Subject} {e : FaultEntry} (h : e ∈ (f.ended k sj).entries) (hp : e.present = true) : e ∈ f.entries := by
  unfold Flt.ended at h
  obtain ⟨x, hx, hxe⟩ := List.mem_map.mp h
  split at hxe
  · subst hxe; simp at hp
  · exact hxe ▸ hx

/-- What arming the guard does (R138). -/
theorem does_guardArm {s : State} (h1 : s.flt.single .windTrip .coach) (h2 : s.flt.single .awningExposed (.unit .awning)) :
    ∃ p : Pli, p.slot = s.pli.slot ∧ Does 4 false [.guardArm] s { s with
      wgd := { s.wgd with state := .armed, trips := 0, holdOff := none, retract := .none, bypassed := false }
      flt := (s.flt.ended .windTrip .coach).ended .awningExposed (.unit .awning), pli := p } := by
  obtain ⟨t, ht⟩ : ∃ t : State, t = { s with wgd := { s.wgd with state := .armed, trips := 0, holdOff := none, retract := .none, bypassed := false } } := ⟨_, rfl⟩
  obtain ⟨p1, q1, e1⟩ := gone_ended .windTrip .coach t (by rw [ht]; exact h1)
  obtain ⟨p2, q2, e2⟩ := gone_ended .awningExposed (.unit .awning) { t with flt := t.flt.ended .windTrip .coach, pli := p1 } (ended_single (by rw [ht]; exact h2))
  have e3 : ∀ u : State, ∃ p : Pli, p.slot = u.pli.slot ∧ act (.guardNotice s.wgd.state) u = { st := { u with pli := p }, acts := [] } := fun u => by
    exact ⟨_, pliOffer_slot _ _ _, rfl⟩
  obtain ⟨p3, q3, e3⟩ := e3 { t with flt := (t.flt.ended .windTrip .coach).ended .awningExposed (.unit .awning), pli := p2 }
  refine ⟨p3, q3.trans (q2.trans (q1.trans (by rw [ht]))), ?_⟩
  have d : Does 3 false [.gone .windTrip .coach, .gone .awningExposed (.unit .awning), .guardNotice s.wgd.state] t _ :=
    does_done (by simp) e1 (does_done (by simp) e2 (does_done (by simp) e3 (does_nil _)))
  have ea : act .guardArm s = { st := t, acts := [.gone .windTrip .coach, .gone .awningExposed (.unit .awning), .guardNotice s.wgd.state] } := by rw [ht]; rfl
  have := does_cons (a := .guardArm) (l := []) (s := s) (by simp) (by rw [ea]; exact d) (does_nil _)
  rw [ht] at this
  exact does_mono this (by omega)

theorem sat_min (n : Nat) : sat 65535 n = min 65535 (n + 1) := by unfold sat; split <;> omega

/-- A command that changes the panel link alone. -/
theorem event_pli {s : State} (h : Quiet s) (p : Pli) : event s (.done { s with pli := p }) = .next (State.sending { s with pli := p }) :=
  event_quiet h.running (quiet_pli h p)

end Sys2Proof.Machine
end

