-- ==== Sys2Proof/Laws/Intake.lean ====
section
/-! SUPPORT. What a VALID slot does to a part at rest: the delivery of positions, currents, pressures and conditions. -/

namespace Sys2Proof.Machine

/-- A delivered position: the channel and the last count of its output (R30). -/
def withPosition (s : State) (c : Fin 16) (cnt : BitVec 16) : State :=
  let s1 := s.setOutRec c { s.outRec c with lastCount := some cnt }
  match (s.outRec c).lastCount with
  | none => s1
  | some last => s1.modChan c fun x => { x with position := clampPos (x.position + countChange cnt last) }

def withElectric (s : State) (c : Fin 16) (i p : Nat) : State :=
  s.setChan c { s.chan c with current := i, pressure := if (s.chan c).isJack then p else (s.chan c).pressure }

def withoutCandidate (s : State) (c : Fin 16) : State := s.setOutRec c { s.outRec c with candidate := none }

theorem does_jackTest {s : State} {c : Fin 16} (h : (s.chan c).motion = none) : Does 1 false [.jackTest c] s s := by
  refine does_done (by simp) ?_ (does_nil _)
  simp [act, actJackTest, h, Out.done]

theorem does_position {s : State} {c : Fin 16} {cnt : BitVec 16} (h : (s.chan c).motion = none) :
    Does 2 false [.position c cnt] s (withPosition s c cnt) := by
  cases hl : (s.outRec c).lastCount with
  | none =>
    refine does_mono (does_done (by simp) ?_ (does_nil _)) (by omega)
    simp [act, actPosition, hl, Out.done, withPosition]
  | some last =>
    have e : act (.position c cnt) s = { st := withPosition s c cnt, acts := [.jackTest c] } := by
      simp [act, actPosition, hl, withPosition]
    have hm : ((withPosition s c cnt).chan c).motion = none := by
      simp only [withPosition, hl]; rw [State.modChan_chan]; simp only [if_true]; exact h
    have := does_cons (a := .position c cnt) (l := []) (by simp) (by rw [e]; exact does_jackTest hm) (does_nil _)
    simpa using this

theorem does_electric {s : State} {c : Fin 16} {i p : Nat} (h : (s.chan c).motion = none)
    (hl : (s.chan c).isJack = true → latchAfter (s.chan c).latch (s.jackPar c) p = (s.chan c).latch) :
    Does 1 false [.electric c i p] s (withElectric s c i p) := by
  refine does_done (by simp) ?_ (does_nil _)
  by_cases hj : (s.chan c).isJack
  · have e := hl hj
    simp only [act, actElectric, hj, if_true, e, withElectric]
    have e1 : ∀ b : Bool, (!b && b) = false := by decide
    have e2 : ∀ b : Bool, (b && !b) = false := by decide
    simp [latchActs, supportActs, Channel.movesFor, h]
  · have hj' : (s.chan c).isJack = false := by simpa using hj
    simp only [act, actElectric, hj', withElectric]
    simp [State.dragCount, h, Out.done]

theorem does_condition {s : State} {c : Fin 16} {k : Cond} (h : k = (s.chan c).cond)
    (hh : (s.chan c).cond = .limitRet → (s.chan c).known = true) : Does 1 false [.condition c k] s (withoutCandidate s c) := by
  refine does_done (by simp) ?_ (does_nil _)
  simp only [act, actCondition, h, if_true, withoutCandidate]
  congr 1
  split
  · rename_i hx; have := hh hx.1; rw [this] at hx; simp at hx
  · rfl

theorem does_if {m : Nat} {b : Bool} {l : List Act} {s t : State} (h : b = true → Does m false l s t) :
    Does m false (if b then l else []) s (if b then t else s) := by
  cases b
  · exact does_mono (does_nil _) (by omega)
  · exact h rfl

/-- What a delivery to node n leaves as it was. -/
structure DeliveredFrom (s t : State) (n : Fin 8) : Prop where
  rest : t = { s with chc := { s.chc with chans := t.chc.chans }, nlc := { s.nlc with nodes := t.nlc.nodes } }
  others : ∀ c, c ∉ s.nodeChans n → t.chan c = s.chan c
  motion : ∀ c, (t.chan c).motion = none
  kind : ∀ c, (t.chan c).kind = (s.chan c).kind
  nodes : ∀ m, m ≠ n → t.node m = s.node m
  node : t.node n = { s.node n with outA := (t.node n).outA, outB := (t.node n).outB }

theorem outRec_setOutRec (s : State) (c d : Fin 16) (o : OutRec) :
    (s.setOutRec c o).outRec d = if c = d then o else s.outRec d := by
  unfold State.setOutRec State.outRec
  rw [State.modNode_node]
  by_cases hcd : c = d
  · subst hcd; simp only [if_true]; cases isOutB c <;> simp
  · by_cases hn : nodeOf d = nodeOf c
    · have hb : isOutB c ≠ isOutB d := by
        intro hb
        apply hcd
        have h1 : c.val / 2 = d.val / 2 := by have := congrArg Fin.val hn; simp [nodeOf] at this; omega
        have h2 : (c.val % 2 = 1) ↔ (d.val % 2 = 1) := by
          unfold isOutB at hb; constructor <;> intro hh <;> by_contra hk <;> simp [hh, hk] at hb
        apply Fin.ext; omega
      simp only [if_neg hcd, hn]
      cases h1 : isOutB c <;> cases h2 : isOutB d <;> simp_all
    · simp only [if_neg hcd, if_neg hn]

@[simp] theorem withPosition_outRec (s : State) (c d : Fin 16) (cnt : BitVec 16) :
    (withPosition s c cnt).outRec d = if c = d then { s.outRec c with lastCount := some cnt } else s.outRec d := by
  have : (withPosition s c cnt).outRec d = (s.setOutRec c { s.outRec c with lastCount := some cnt }).outRec d := by
    unfold withPosition; simp only []; split <;> rfl
  rw [this, outRec_setOutRec]

@[simp] theorem withPosition_chan (s : State) (c d : Fin 16) (cnt : BitVec 16) :
    (withPosition s c cnt).chan d = if d = c then { s.chan c with position := match (s.outRec c).lastCount with
      | some last => clampPos ((s.chan c).position + countChange cnt last)
      | none => (s.chan c).position } else s.chan d := by
  unfold withPosition; simp only []
  cases hl : (s.outRec c).lastCount with
  | none => simp only []; split
            · rename_i h; subst h; rfl
            · rfl
  | some l => simp only []; rw [State.modChan_chan]; split <;> rfl

@[simp] theorem withElectric_outRec (s : State) (c d : Fin 16) (i p : Nat) : (withElectric s c i p).outRec d = s.outRec d := rfl
@[simp] theorem withElectric_chan (s : State) (c d : Fin 16) (i p : Nat) : (withElectric s c i p).chan d = if d = c then { s.chan c with current := i, pressure := if (s.chan c).isJack then p else (s.chan c).pressure } else s.chan d := by
  unfold withElectric; rw [State.setChan_chan]
@[simp] theorem withoutCandidate_outRec (s : State) (c d : Fin 16) : (withoutCandidate s c).outRec d = if c = d then { s.outRec c with candidate := none } else s.outRec d := outRec_setOutRec _ _ _ _
@[simp] theorem withoutCandidate_chan (s : State) (c d : Fin 16) : (withoutCandidate s c).chan d = s.chan d := rfl

/-- The deliveries of a VALID slot, output A then output B (R29). -/
def deliveryActs (s : State) (n : Fin 8) (f : Status) : List Act :=
  let a := s.populated (chanA n)
  let b := s.populated (chanB n)
  (if a then [Act.position (chanA n) f.countA] else []) ++ (if b then [.position (chanB n) f.countB] else [])
    ++ (if a then [.electric (chanA n) f.currentA f.pressureA] else [])
    ++ (if b then [.electric (chanB n) f.currentB f.pressureB] else [])
    ++ (if a then [.condition (chanA n) f.condA] else []) ++ (if b then [.condition (chanB n) f.condB] else [])

/-- Nothing but the channels and the output records of node n differ. -/
structure IntakeKeeps (s t : State) (n : Fin 8) : Prop where
  rest : t = { s with chc := { s.chc with chans := t.chc.chans }, nlc := { s.nlc with nodes := t.nlc.nodes } }
  nodes : ∀ m, m ≠ n → t.node m = s.node m
  node : t.node n = { s.node n with outA := (t.node n).outA, outB := (t.node n).outB }

theorem IntakeKeeps.refl (s : State) (n : Fin 8) : IntakeKeeps s s n := ⟨rfl, fun _ _ => rfl, rfl⟩
theorem IntakeKeeps.trans {s t u : State} {n : Fin 8} (h : IntakeKeeps s t n) (k : IntakeKeeps t u n) : IntakeKeeps s u n := by
  refine ⟨?_, fun m hm => (k.nodes m hm).trans (h.nodes m hm), ?_⟩
  · have h1 := k.rest; have h2 := h.rest
    rw [h2] at h1; exact h1
  · have h1 := k.node; have h2 := h.node
    rw [h2] at h1; exact h1
theorem intakeKeeps_setOutRec (s : State) (c : Fin 16) (o : OutRec) : IntakeKeeps s (s.setOutRec c o) (nodeOf c) := by
  refine ⟨rfl, fun m hm => ?_, ?_⟩
  · unfold State.setOutRec; rw [State.modNode_node, if_neg hm]
  · unfold State.setOutRec; rw [State.modNode_node, if_pos rfl]; cases isOutB c <;> rfl
theorem intakeKeeps_setChan (s : State) (c : Fin 16) (x : Channel) (n : Fin 8) : IntakeKeeps s (s.setChan c x) n := ⟨rfl, fun _ _ => rfl, rfl⟩
theorem intakeKeeps_position (s : State) (c : Fin 16) (cnt : BitVec 16) : IntakeKeeps s (withPosition s c cnt) (nodeOf c) := by
  unfold withPosition; simp only []
  split
  · exact intakeKeeps_setOutRec _ _ _
  · exact (intakeKeeps_setOutRec _ _ _).trans (intakeKeeps_setChan _ _ _ _)

theorem nodeOf_chanA (n : Fin 8) : nodeOf (chanA n) = n := by apply Fin.ext; simp [nodeOf, chanA]
theorem nodeOf_chanB (n : Fin 8) : nodeOf (chanB n) = n := by apply Fin.ext; simp [nodeOf, chanB]; omega
theorem chanA_ne_chanB (n : Fin 8) : chanA n ≠ chanB n := by simp [chanA, chanB, Fin.ext_iff]
theorem chanB_ne_chanA (n : Fin 8) : chanB n ≠ chanA n := by simp [chanA, chanB, Fin.ext_iff]

theorem intakeKeeps_if {s t : State} {n : Fin 8} {b : Bool} (h : IntakeKeeps s t n) : IntakeKeeps s (if b then t else s) n := by
  cases b; exact IntakeKeeps.refl s n; exact h

theorem does_delivery (s : State) (n : Fin 8) (f : Status) (hm : ∀ c, (s.chan c).motion = none)
    (hA : s.populated (chanA n) = true → PlainReport s (chanA n) f.condA f.pressureA)
    (hB : s.populated (chanB n) = true → PlainReport s (chanB n) f.condB f.pressureB) :
    ∃ t, Does 8 false (deliveryActs s n f) s t ∧ IntakeKeeps s t n ∧
      (s.populated (chanA n) = true → t.chan (chanA n) = s.intakeChan (chanA n) f.countA f.currentA f.pressureA ∧
        t.outRec (chanA n) = { lastCount := some f.countA, candidate := none }) ∧
      (s.populated (chanB n) = true → t.chan (chanB n) = s.intakeChan (chanB n) f.countB f.currentB f.pressureB ∧
        t.outRec (chanB n) = { lastCount := some f.countB, candidate := none }) ∧
      (∀ c, c ∉ s.nodeChans n → t.chan c = s.chan c) ∧ (∀ c, (t.chan c).motion = none) := by
  obtain ⟨a, ha⟩ : ∃ a, a = s.populated (chanA n) := ⟨_, rfl⟩
  obtain ⟨b, hb⟩ : ∃ b, b = s.populated (chanB n) := ⟨_, rfl⟩
  have hAB := chanA_ne_chanB n
  have hBA := chanB_ne_chanA n
  have hmem : ∀ c, c ∈ s.nodeChans n ↔ (c = chanA n ∧ a = true) ∨ (c = chanB n ∧ b = true) := by
    intro c
    simp only [State.nodeChans, List.mem_filter, List.mem_cons, List.not_mem_nil, or_false, ha, hb]
    constructor
    · rintro ⟨rfl | rfl, h⟩ <;> simp [h]
    · rintro (⟨rfl, h⟩ | ⟨rfl, h⟩) <;> simp [h]
  rw [← ha] at hA; rw [← hb] at hB
  obtain ⟨s1, e1⟩ : ∃ x, x = if a then withPosition s (chanA n) f.countA else s := ⟨_, rfl⟩
  obtain ⟨s2, e2⟩ : ∃ x, x = if b then withPosition s1 (chanB n) f.countB else s1 := ⟨_, rfl⟩
  obtain ⟨s3, e3⟩ : ∃ x, x = if a then withElectric s2 (chanA n) f.currentA f.pressureA else s2 := ⟨_, rfl⟩
  obtain ⟨s4, e4⟩ : ∃ x, x = if b then withElectric s3 (chanB n) f.currentB f.pressureB else s3 := ⟨_, rfl⟩
  obtain ⟨s5, e5⟩ : ∃ x, x = if a then withoutCandidate s4 (chanA n) else s4 := ⟨_, rfl⟩
  obtain ⟨s6, e6⟩ : ∃ x, x = if b then withoutCandidate s5 (chanB n) else s5 := ⟨_, rfl⟩
  have c1 : ∀ c, s1.chan c = if c = chanA n ∧ a = true then { s.chan (chanA n) with position := match (s.outRec (chanA n)).lastCount with
      | some last => clampPos ((s.chan (chanA n)).position + countChange f.countA last)
      | none => (s.chan (chanA n)).position } else s.chan c := by
    intro c; rw [e1]; cases a <;> simp
  have c2 : ∀ c, s2.chan c = if c = chanB n ∧ b = true then { s1.chan (chanB n) with position := match (s1.outRec (chanB n)).lastCount with
      | some last => clampPos ((s1.chan (chanB n)).position + countChange f.countB last)
      | none => (s1.chan (chanB n)).position } else s1.chan c := by
    intro c; rw [e2]; cases b <;> simp
  have c3 : ∀ c, s3.chan c = if c = chanA n ∧ a = true then { s2.chan (chanA n) with current := f.currentA, pressure := if (s2.chan (chanA n)).isJack then f.pressureA else (s2.chan (chanA n)).pressure } else s2.chan c := by
    intro c; rw [e3]; cases a <;> simp
  have c4 : ∀ c, s4.chan c = if c = chanB n ∧ b = true then { s3.chan (chanB n) with current := f.currentB, pressure := if (s3.chan (chanB n)).isJack then f.pressureB else (s3.chan (chanB n)).pressure } else s3.chan c := by
    intro c; rw [e4]; cases b <;> simp
  have c5 : ∀ c, s5.chan c = s4.chan c := by intro c; rw [e5]; cases a <;> simp
  have c6 : ∀ c, s6.chan c = s5.chan c := by intro c; rw [e6]; cases b <;> simp
  have m1 : ∀ c, (s1.chan c).motion = none := fun c => by rw [c1]; split <;> simp [hm]
  have m2 : ∀ c, (s2.chan c).motion = none := fun c => by rw [c2]; split <;> simp [m1]
  have m3 : ∀ c, (s3.chan c).motion = none := fun c => by rw [c3]; split <;> simp [m2]
  have m4 : ∀ c, (s4.chan c).motion = none := fun c => by rw [c4]; split <;> simp [m3]
  have r1 : IntakeKeeps s s1 n := by rw [e1]; refine intakeKeeps_if ?_; have := intakeKeeps_position s (chanA n) f.countA; rwa [nodeOf_chanA] at this
  have r2 : IntakeKeeps s1 s2 n := by rw [e2]; refine intakeKeeps_if ?_; have := intakeKeeps_position s1 (chanB n) f.countB; rwa [nodeOf_chanB] at this
  have r3 : IntakeKeeps s2 s3 n := by rw [e3]; exact intakeKeeps_if (intakeKeeps_setChan _ _ _ _)
  have r4 : IntakeKeeps s3 s4 n := by rw [e4]; exact intakeKeeps_if (intakeKeeps_setChan _ _ _ _)
  have r5 : IntakeKeeps s4 s5 n := by rw [e5]; refine intakeKeeps_if ?_; have := intakeKeeps_setOutRec s4 (chanA n) { s4.outRec (chanA n) with candidate := none }; rwa [nodeOf_chanA] at this
  have r6 : IntakeKeeps s5 s6 n := by rw [e6]; refine intakeKeeps_if ?_; have := intakeKeeps_setOutRec s5 (chanB n) { s5.outRec (chanB n) with candidate := none }; rwa [nodeOf_chanB] at this
  have r14 := (r1.trans r2)
  have hpar2 : s2.sst = s.sst := by rw [r14.rest]
  have hpar3 : s3.sst = s.sst := by rw [(r14.trans r3).rest]
  have d1 : Does 2 false (if a then [Act.position (chanA n) f.countA] else []) s s1 := by rw [e1]; exact does_if fun _ => does_position (hm _)
  have d2 : Does 2 false (if b then [Act.position (chanB n) f.countB] else []) s1 s2 := by rw [e2]; exact does_if fun _ => does_position (m1 _)
  have d3 : Does 1 false (if a then [Act.electric (chanA n) f.currentA f.pressureA] else []) s2 s3 := by
    rw [e3]; refine does_if fun h => does_electric (m2 _) ?_
    have := (hA h).latch
    rw [c2, if_neg (by simp [hAB]), c1, if_pos ⟨rfl, h⟩]
    simp only [State.jackPar, hpar2]; exact this
  have d4 : Does 1 false (if b then [Act.electric (chanB n) f.currentB f.pressureB] else []) s3 s4 := by
    rw [e4]; refine does_if fun h => does_electric (m3 _) ?_
    have := (hB h).latch
    rw [c3, if_neg (by simp [hBA]), c2, if_pos ⟨rfl, h⟩, c1, if_neg (by simp [hBA])]
    simp only [State.jackPar, hpar3]; exact this
  have d5 : Does 1 false (if a then [Act.condition (chanA n) f.condA] else []) s4 s5 := by
    rw [e5]; refine does_if fun h => does_condition ?_ ?_
    · rw [c4, if_neg (by simp [hAB]), c3, if_pos ⟨rfl, h⟩, c2, if_neg (by simp [hAB]), c1, if_pos ⟨rfl, h⟩]; exact (hA h).cond
    · rw [c4, if_neg (by simp [hAB]), c3, if_pos ⟨rfl, h⟩, c2, if_neg (by simp [hAB]), c1, if_pos ⟨rfl, h⟩]; exact (hA h).home
  have d6 : Does 1 false (if b then [Act.condition (chanB n) f.condB] else []) s5 s6 := by
    rw [e6]; refine does_if fun h => does_condition ?_ ?_
    · rw [c5, c4, if_pos ⟨rfl, h⟩, c3, if_neg (by simp [hBA]), c2, if_pos ⟨rfl, h⟩, c1, if_neg (by simp [hBA])]; exact (hB h).cond
    · rw [c5, c4, if_pos ⟨rfl, h⟩, c3, if_neg (by simp [hBA]), c2, if_pos ⟨rfl, h⟩, c1, if_neg (by simp [hBA])]; exact (hB h).home
  have hd := does_append (does_append (does_append (does_append (does_append d1 d2) d3) d4) d5) d6
  have ho1 : s1.outRec (chanB n) = s.outRec (chanB n) := by rw [e1]; cases a <;> simp [hAB]
  refine ⟨s6, ?_, ((((r1.trans r2).trans r3).trans r4).trans r5).trans r6, fun h => ?_, fun h => ?_, fun c hc => ?_, fun c => ?_⟩
  · have e : deliveryActs s n f = _ := rfl
    unfold deliveryActs
    simp only [← ha, ← hb]
    exact does_mono hd (by omega)
  · rw [← ha] at h
    constructor
    · rw [c6, c5, c4, if_neg (by simp [hAB]), c3, if_pos ⟨rfl, h⟩, c2, if_neg (by simp [hAB]), c1, if_pos ⟨rfl, h⟩]; rfl
    · rw [e6, e5, e4, e3, e2, e1]; subst h; cases b <;> simp [hBA]
  · rw [← hb] at h
    constructor
    · rw [c6, c5, c4, if_pos ⟨rfl, h⟩, c3, if_neg (by simp [hBA]), c2, if_pos ⟨rfl, h⟩, c1, if_neg (by simp [hBA]), ho1]; rfl
    · rw [e6, e5, e4, e3, e2, e1]; subst h; cases a <;> simp [hAB]
  · rw [hmem] at hc
    have h1 : ¬(c = chanA n ∧ a = true) := fun h => hc (.inl h)
    have h2 : ¬(c = chanB n ∧ b = true) := fun h => hc (.inr h)
    rw [c6, c5, c4, if_neg h2, c3, if_neg h1, c2, if_neg h2, c1, if_neg h1]
  · rw [c6, c5]; exact m4 c

theorem frameEnd_keeps (t : State) : t.frameEnd.chc.chans = t.chc.chans ∧ t.frameEnd.chc.units = t.chc.units ∧ t.frameEnd.nlc = t.nlc ∧ t.frameEnd.flt = t.flt ∧ t.frameEnd.frame = t.frame := by
  have h : ∀ x : State, x.countOverdraw.chc = x.chc ∧ x.countOverdraw.nlc = x.nlc ∧ x.countOverdraw.flt = x.flt ∧ x.countOverdraw.frame = x.frame := fun x => ⟨rfl, rfl, rfl, rfl⟩
  have h2 : ∀ (l : List (Fin 4)) (x : State), (l.foldl State.countRack x).chc.chans = x.chc.chans ∧ (l.foldl State.countRack x).chc.units = x.chc.units ∧ (l.foldl State.countRack x).nlc = x.nlc ∧ (l.foldl State.countRack x).flt = x.flt ∧ (l.foldl State.countRack x).frame = x.frame := by
    intro l; induction l with
    | nil => intro x; exact ⟨rfl, rfl, rfl, rfl, rfl⟩
    | cons r l ih =>
      intro x
      have hx : (x.countRack r).chc.chans = x.chc.chans ∧ (x.countRack r).chc.units = x.chc.units ∧ (x.countRack r).nlc = x.nlc ∧ (x.countRack r).flt = x.flt ∧ (x.countRack r).frame = x.frame := by
        unfold State.countRack; simp only []; repeat' split
        all_goals exact ⟨rfl, rfl, rfl, rfl, rfl⟩
      obtain ⟨a, b, c, d, e⟩ := ih (x.countRack r)
      exact ⟨a.trans hx.1, b.trans hx.2.1, c.trans hx.2.2.1, d.trans hx.2.2.2.1, e.trans hx.2.2.2.2⟩
  obtain ⟨a, b, c, d, e⟩ := h2 allRooms t
  unfold State.frameEnd
  generalize allRooms.foldl State.countRack t = x at *
  obtain ⟨p, q, r, u⟩ := h x
  rw [p, q, r, u]; exact ⟨a, b, c, d, e⟩

theorem exec_slotIntake_of_does {n : Fin 8} {reply : SlotReply} {s u : State} (hr : s.mode = .running)
    (hc : commit s.closeSlot (s.slotActs n reply) = finish u) :
    ∃ t, exec (.slotIntake n reply) s = .next t ∧ t.chc.chans = u.chc.chans ∧ t.chc.units = u.chc.units ∧
      t.nlc = (finish u).nlc ∧ t.flt = u.flt ∧ t.frame = u.frame := by
  by_cases h7 : n = 7
  · refine ⟨(finish u).frameEnd, ?_, ?_⟩
    · simp only [exec, execSlotIntake, running_of hr, if_true, hc]; rw [if_pos h7]
    · obtain ⟨a, b, c, d, e⟩ := frameEnd_keeps (finish u)
      exact ⟨a, b, c, d, e⟩
  · refine ⟨finish u, ?_, rfl, rfl, rfl, rfl, rfl⟩
    simp only [exec, execSlotIntake, running_of hr, if_true, hc, if_neg h7]

theorem still_of_resting {s t : State} (h : Resting s) (hf : t.flt = s.flt) (hm : ∀ c, (t.chan c).motion = none) : Still t :=
  still_of_rest (by rw [hf]; intro e he _; exact h.faults e he) hm


theorem level_had_nil {s : State} (hm : ∀ c, (s.chan c).motion = none) (n : Fin 8) : ((s.nodeChans n).filter fun c => (s.chan c).movesFor .level) = [] := by
  simp [Channel.movesFor, hm]

theorem does_intakeNil {s : State} (h : s.lvs.seq.state = .idle) : Does 2 false [.lvsIntake []] s s := by
  have e : act (.lvsIntake []) s = { st := s, acts := [.lvsProgress] } := by simp [act, actLvsIntake, State.noGround]
  have d : Does 1 false [.lvsProgress] s s := by
    refine does_done (by simp) ?_ (does_nil _)
    simp only [act, actLvsProgress]
    split
    · rfl
    · split <;> simp_all [Out.done]
  have := does_cons (a := .lvsIntake []) (l := []) (s := s) (by simp) (by rw [e]; exact d) (does_nil _)
  simpa using this

theorem intakeKeeps_parked {s t : State} {n : Fin 8} (h : IntakeKeeps s t n) (hp : Parked s) : Parked t :=
  parked_of_ciu hp (by rw [h.rest]) (by rw [h.rest])

/-- A VALID slot of a part at rest whose message act is done: delivery, message, count. -/
theorem slot_tail {s t u : State} {n : Fin 8} {f : Status} {m : Nat} (hmsg : Does m false [.message n f.ctl f.data] t u)
    (hl : u.lvs.seq.state = .idle) (hlost : (u.node n).state ≠ .lost)
    (hs : Still (u.setNode n { u.node n with misses := 0 })) (hp : Parked u)
    (hd : Does 8 false (deliveryActs s n f) s t) (hm : ∀ c, (s.chan c).motion = none) (hm' : m ≤ 30) :
    ∃ b, Does 80 false (s.intakeActs n f) s { u.setNode n { u.node n with misses := 0 } with ciu := { u.ciu with travel := b } } := by
  have e : s.intakeActs n f = deliveryActs s n f ++ ([.message n f.ctl f.data] ++ ([.countValid n] ++ ([.lvsIntake []] ++ [.restCheck false]))) := by
    unfold State.intakeActs deliveryActs
    simp only [level_had_nil hm, List.append_assoc, List.cons_append, List.nil_append]
  have d1 : Does 1 false [.countValid n] u (u.setNode n { u.node n with misses := 0 }) := by
    refine does_done (by simp) ?_ (does_nil _)
    simp [act, actCountValid, hlost, Out.done]
  have d2 : Does 2 false [.lvsIntake []] (u.setNode n { u.node n with misses := 0 }) (u.setNode n { u.node n with misses := 0 }) := does_intakeNil hl
  have d3 := does_restCheck hs (s := u.setNode n { u.node n with misses := 0 }) ⟨hp.park, hp.alarm⟩ false
  refine ⟨(u.setNode n { u.node n with misses := 0 }).travelRule, ?_⟩
  rw [e]
  exact does_mono (does_append hd (does_append hmsg (does_append d1 (does_append d2 d3)))) (by omega)

theorem slotActs_valid {s : State} {n : Fin 8} {reply : SlotReply} {f : Status} (h : statusOf n reply = some f) (ha : (s.node n).state ≠ .absent) :
    s.slotActs n reply = s.intakeActs n f := by unfold State.slotActs; rw [if_neg ha, h]

theorem intake_close (s : State) (n : Fin 8) (f : Status) : s.intakeActs n f = s.closeSlot.intakeActs n f := rfl

theorem descFault_congr {s t : State} {n : Fin 8} {l : List Byte} (hk : ∀ c, (t.chan c).kind = (s.chan c).kind) (hr : ∀ r, (t.room r).type = (s.room r).type)
    (hd : (t.node n).desc = (s.node n).desc) : t.descFault n l = s.descFault n l := by
  have h1 : ∀ c, t.populated c = s.populated c := fun c => by unfold State.populated; rw [hk]
  have h2 : ∀ c, requiredKind (t.chan c) = requiredKind (s.chan c) := fun c => by unfold requiredKind Channel.isJack; rw [hk]
  unfold State.descFault
  simp only [h1, h2, hr, hd]

end Sys2Proof.Machine
end

