-- ==== Sys2Proof/Laws/Resets.lean ====
section
/-! SUPPORT. What the resets meet: conditions listed again on an idle part, positions forgotten. -/

namespace Sys2Proof.Machine

theorem still_of_none {s : State} (h1 : s.awningStowed = false) (h2 : ∀ c, (s.chan c).motion = none) : Still s :=
  ⟨fun _ _ _ _ => h1, .inr fun c _ => by simp [Channel.moves, h2]⟩

theorem populate_facts (k : BitVec 4) (c : Fin 16) :
    (Channel.populate k c).motion = none ∧ (Channel.populate k c).known = false ∧ (Channel.populate k c).state ≠ .moving := by
  refine ⟨rfl, rfl, ?_⟩
  simp only [Channel.populate]; split <;> simp


/-- Raises of an idle part move only the list, the notices, locks and channel states. -/
structure Listed (s t : State) : Prop where
  chc : ∃ v, t.chc = { s.chc with chans := v } ∧ ∀ c, (v.get c).motion = (s.chan c).motion ∧ (v.get c).kind = (s.chan c).kind ∧
    (v.get c).position = (s.chan c).position ∧ (v.get c).cond = (s.chan c).cond ∧ (v.get c).latch = (s.chan c).latch ∧ (v.get c).known = (s.chan c).known ∧ (v.get c).extendEnd = (s.chan c).extendEnd
  nlc : t.nlc = s.nlc
  sgu : t.sgu = s.sgu
  atu : t.atu = s.atu
  lvs : t.lvs = s.lvs
  wgd : t.wgd = s.wgd
  ciu : t.ciu = s.ciu
  sst : t.sst = s.sst
  mode : t.mode = s.mode
  frame : t.frame = s.frame
  restartFrame : t.restartFrame = s.restartFrame
  holding : t.pli.holding = s.pli.holding
  slot : t.pli.slot = s.pli.slot
  reset : t.pli.resetPending = s.pli.resetPending
  cause : t.pli.resetCause = s.pli.resetCause
  crc : t.pli.crcErrors = s.pli.crcErrors
  ovr : t.pli.overruns = s.pli.overruns
  tx : t.pli.tx = s.pli.tx

theorem Listed.refl (s : State) : Listed s s := by
  constructor <;> first | rfl | exact ⟨s.chc.chans, rfl, fun c => ⟨rfl, rfl, rfl, rfl, rfl, rfl, rfl⟩⟩

theorem Listed.trans {s t u : State} (h : Listed s t) (k : Listed t u) : Listed s u := by
  obtain ⟨v, hv, hv'⟩ := h.chc
  obtain ⟨w, hw, hw'⟩ := k.chc
  constructor
  · refine ⟨w, by rw [hw, hv], fun c => ?_⟩
    have e : t.chan c = v.get c := by simp [State.chan, hv]
    have h1 := hw' c; rw [e] at h1; have h2 := hv' c
    exact ⟨h1.1.trans h2.1, h1.2.1.trans h2.2.1, h1.2.2.1.trans h2.2.2.1, h1.2.2.2.1.trans h2.2.2.2.1, h1.2.2.2.2.1.trans h2.2.2.2.2.1, h1.2.2.2.2.2.1.trans h2.2.2.2.2.2.1, h1.2.2.2.2.2.2.trans h2.2.2.2.2.2.2⟩
  · rw [k.nlc, h.nlc]
  · rw [k.sgu, h.sgu]
  · rw [k.atu, h.atu]
  · rw [k.lvs, h.lvs]
  · rw [k.wgd, h.wgd]
  · rw [k.ciu, h.ciu]
  · rw [k.sst, h.sst]
  · rw [k.mode, h.mode]
  · rw [k.frame, h.frame]
  · rw [k.restartFrame, h.restartFrame]
  · rw [k.holding, h.holding]
  · rw [k.slot, h.slot]
  · rw [k.reset, h.reset]
  · rw [k.cause, h.cause]
  · rw [k.crc, h.crc]
  · rw [k.ovr, h.ovr]
  · rw [k.tx, h.tx]

theorem listed_raised (s : State) (k : FaultKind) (sj : Subject) : Listed s (s.raised k sj) := by
  constructor <;> first | rfl | (simp; done) | exact ⟨s.chc.chans, rfl, fun c => ⟨rfl, rfl, rfl, rfl, rfl, rfl, rfl⟩⟩

theorem nodup_lockChans (s : State) (sj : Subject) : (s.lockChans sj).Nodup := by
  cases sj <;> simp only [State.lockChans, State.unitChans]
  all_goals first | exact List.nodup_nil | exact List.Nodup.filter _ (nodup_unitSlots _) | exact List.Nodup.filter _ (List.nodup_singleton _)

theorem listed_lockAll (s : State) (k : FaultKind) (l : List (Fin 16)) (hn : l.Nodup) : Listed s (s.lockAll k l) := by
  obtain ⟨v, hv, h1, h2⟩ := foldl_modChan (fun x => x.takeLock k) l s
  unfold State.lockAll
  rw [hv]
  constructor <;> first | rfl | skip
  refine ⟨v, rfl, fun c => ?_⟩
  by_cases hc : c ∈ l
  · rw [h2 hn c hc]; exact ⟨rfl, rfl, rfl, rfl, rfl, rfl, rfl⟩
  · rw [h1 c hc]; exact ⟨rfl, rfl, rfl, rfl, rfl, rfl, rfl⟩

theorem listed_unit {s t : State} (h : Listed s t) (u : UnitId) : t.unit u = s.unit u := by
  obtain ⟨v, hv, _⟩ := h.chc; simp [State.unit, hv]

def Unexposed (s : State) : Prop := ∀ e ∈ s.flt.entries, e.kind ≠ .awningExposed

theorem unexposed_raised {s : State} (h : Unexposed s) {k : FaultKind} (hk : k ≠ .awningExposed) (sj : Subject) : Unexposed (s.raised k sj) := by
  unfold Unexposed at *
  show ∀ e ∈ (s.flt.raise k sj s.frame).1.entries, _
  unfold Flt.raise
  split
  · split
    · rename_i i hi e he
      intro x hx
      rcases List.mem_or_eq_of_mem_set hx with hx | rfl
      · exact h x hx
      · exact h e (List.mem_of_getElem? he)
    · exact h
  · split
    · rename_i l hl
      intro x hx
      simp only [List.mem_append, List.mem_singleton] at hx
      rcases hx with hx | rfl
      · have : x ∈ s.flt.entries := by
          unfold makeRoom at hl
          split at hl
          · simp at hl; rwa [hl]
          · split at hl
            · simp at hl; rw [← hl] at hx; exact List.mem_of_mem_eraseIdx hx
            · split at hl
              · simp at hl; rw [← hl] at hx; exact List.mem_of_mem_eraseIdx hx
              · simp at hl
        exact h x this
      · exact hk
    · exact h

theorem unexposed_lockAll {s : State} (h : Unexposed s) (k : FaultKind) (l : List (Fin 16)) : Unexposed (s.lockAll k l) := by
  obtain ⟨v, hv, -⟩ := foldl_modChan (fun x => x.takeLock k) l s
  unfold State.lockAll; rw [hv]; exact h

theorem does_raise_idle (s : State) (k : FaultKind) (sj : Subject) (h : ∀ u, (s.unit u).state = .idle) :
    ∃ t, Does 2 false [.raise k sj] s t ∧ Listed s t ∧ (k ≠ .awningExposed → Unexposed s → Unexposed t) := by
  cases hk : k.severity with
  | warn => exact ⟨_, does_mono (does_raise_warn hk) (by omega), listed_raised s k sj, fun a b => unexposed_raised b a sj⟩
  | stop => exact ⟨_, does_raise_stop_idle hk h, listed_raised s k sj, fun a b => unexposed_raised b a sj⟩
  | lock =>
    refine ⟨(s.raised k sj).lockAll k ((s.raised k sj).lockChans sj), ?_, (listed_raised s k sj).trans (listed_lockAll _ _ _ (nodup_lockChans _ _)), fun a b => unexposed_lockAll (unexposed_raised b a sj) _ _⟩
    have hl := (listed_raised s k sj).trans (listed_lockAll _ k ((s.raised k sj).lockChans sj) (nodup_lockChans _ _))
    have e : act (.raise k sj) s = { st := (s.raised k sj).lockAll k ((s.raised k sj).lockChans sj), acts := [.endUnits (((s.raised k sj).reach sj).map fun u =>
      ({ unit := u, why := .fault, cause := .fault k, subject := some sj } : Ending))] } := by
      simp [act, actRaise, hk, State.raised]
    have d := does_endUnits_idle (s := (s.raised k sj).lockAll k ((s.raised k sj).lockChans sj)) (l := ((s.raised k sj).reach sj).map fun u =>
      ({ unit := u, why := .fault, cause := .fault k, subject := some sj } : Ending)) (by
        intro e he; simp at he; obtain ⟨u, _, rfl⟩ := he; rw [listed_unit hl]; exact h u)
    have := does_cons (a := .raise k sj) (l := []) (by simp) (by rw [e]; exact d) (does_nil _)
    simpa using this

theorem does_raises : ∀ (l : List Act) (s : State), (∀ a ∈ l, ∃ k sj, a = .raise k sj ∧ k ≠ .awningExposed) → (∀ u, (s.unit u).state = .idle) → Unexposed s →
    ∃ t, Does (2 * l.length) false l s t ∧ Listed s t ∧ Unexposed t := by
  intro l
  induction l with
  | nil => intro s _ _ h; exact ⟨s, does_nil s, Listed.refl s, h⟩
  | cons a l ih =>
    intro s ha hu he
    obtain ⟨k, sj, rfl, hk⟩ := ha a (by simp)
    obtain ⟨t, ht, hl, hx⟩ := does_raise_idle s k sj hu
    obtain ⟨w, hw, hl', hx'⟩ := ih t (fun b hb => ha b (by simp [hb])) (fun u => by rw [listed_unit hl]; exact hu u) (hx hk he)
    refine ⟨w, does_mono (does_append ht hw) (by simp; omega), hl.trans hl', hx'⟩


theorem reRaise_raises (s : State) : (∀ a ∈ s.reRaise, ∃ k sj, a = .raise k sj ∧ k ≠ .awningExposed) ∧ s.reRaise.length ≤ 26 := by
  constructor
  · intro a ha
    unfold State.reRaise at ha
    simp only [List.mem_append, List.mem_flatMap, List.mem_map] at ha
    rcases ha with ((⟨c, _, h⟩ | ⟨n, _, rfl⟩) | h) | h
    · split at h <;> simp at h
      rename_i k hk
      exact ⟨_, _, h, by rintro rfl; cases hc : (s.chan c).cond <;> simp [hc, condFault] at hk⟩
    · exact ⟨_, _, rfl, by simp⟩
    · split at h <;> simp at h
      rename_i k hk
      exact ⟨_, _, h, by rintro rfl; cases hc : s.sgu.supply <;> simp [hc, supplyFault] at hk⟩
    · split at h <;> simp at h; exact ⟨_, _, h, by simp⟩
  · unfold State.reRaise
    simp only [List.length_append, List.length_map]
    have h1 : ((allChans.filter s.populated).flatMap fun c => match condFault (s.chan c).cond with
      | some k => [Act.raise k (.chan c)]
      | none => []).length ≤ 16 := by
      rw [List.length_flatMap]
      have : ∀ l : List (Fin 16), (l.map fun c => (match condFault (s.chan c).cond with
        | some k => [Act.raise k (.chan c)]
        | none => []).length).sum ≤ l.length := by
        intro l; induction l with
        | nil => simp
        | cons a l ih => simp only [List.map_cons, List.sum_cons, List.length_cons]; split <;> simp <;> omega
      exact (this _).trans ((List.length_filter_le _ _).trans (by simp [allChans]))
    have h2 : (allNodes.filter fun n => decide ((s.node n).state = .lost ∨ (s.node n).state = .discovering)).length ≤ 8 :=
      (List.length_filter_le _ _).trans (by simp [allNodes])
    have h3 : (match supplyFault s.sgu.supply with | some k => [Act.raise k .coach] | none => []).length ≤ 1 := by split <;> simp
    have h4 : (if s.atu.record.state = .invalid then [Act.raise .tiltRange .coach] else []).length ≤ 1 := by split <;> simp
    exact Nat.add_le_add (Nat.add_le_add (Nat.add_le_add h1 h2) h3) h4

/-- Forgetting motor positions moves the channels alone. -/
theorem forget_eq (s : State) (n : Fin 8) : ∃ v : Vector Channel 16, s.forgetMotors n = { s with chc := { s.chc with chans := v } } ∧
    ∀ c, (v.get c).motion = (s.chan c).motion ∧ (v.get c).kind = (s.chan c).kind ∧
    (v.get c).position = (s.chan c).position ∧ (v.get c).cond = (s.chan c).cond ∧ (v.get c).latch = (s.chan c).latch := by
  obtain ⟨v, h, h1, h2⟩ := foldl_modChan (fun x => if x.isMotor then x.forget else x) (s.nodeChans n) s
  refine ⟨v, h, fun c => ?_⟩
  by_cases hc : c ∈ s.nodeChans n
  · rw [h2 (List.Nodup.filter _ (by simp [chanA, chanB, Fin.ext_iff])) c hc]; split <;> exact ⟨rfl, rfl, rfl, rfl, rfl⟩
  · rw [h1 c hc]; exact ⟨rfl, rfl, rfl, rfl, rfl⟩

theorem forgets_eq : ∀ (l : List (Fin 8)) (s : State), ∃ v : Vector Channel 16, l.foldl State.forgetMotors s = { s with chc := { s.chc with chans := v } } ∧
    ∀ c, (v.get c).motion = (s.chan c).motion ∧ (v.get c).kind = (s.chan c).kind ∧
    (v.get c).position = (s.chan c).position ∧ (v.get c).cond = (s.chan c).cond ∧ (v.get c).latch = (s.chan c).latch := by
  intro l; induction l with
  | nil => intro s; exact ⟨s.chc.chans, rfl, fun c => ⟨rfl, rfl, rfl, rfl, rfl⟩⟩
  | cons a l ih =>
    intro s
    obtain ⟨v, h, hv⟩ := forget_eq s a
    obtain ⟨w, h', hw⟩ := ih (s.forgetMotors a)
    refine ⟨w, by rw [List.foldl_cons, h', h], fun c => ?_⟩
    have e : (s.forgetMotors a).chan c = v.get c := by rw [h]; rfl
    have h1 := hw c; rw [e] at h1; have h2 := hv c
    exact ⟨h1.1.trans h2.1, h1.2.1.trans h2.2.1, h1.2.2.1.trans h2.2.2.1, h1.2.2.2.1.trans h2.2.2.2.1, h1.2.2.2.2.trans h2.2.2.2.2⟩

end Sys2Proof.Machine
end

