-- ==== Sys2Proof/Tests/Slice0.lean ====
section
/-! SUPPORT. Tests: values the manual states, commands refused by WellFormed, one step of each family on a small state, and for
every statement with hypotheses a concrete state and operands that meet them. -/

namespace Sys2Proof.Tests

open Sys2Proof.Machine

-- One theorem after another: a kernel evaluation waits for the ones before it, and a waiting thread keeps its stack.
set_option Elab.async false

/-! ## WellFormed refuses what no sender can mean -/

theorem test_scan_code_of_13_bits_refused : (Instr.conversionScan 4096 0 0).wellFormed = false := by decide

theorem test_scan_codes_of_12_bits_accepted : (Instr.conversionScan 4095 0 4095).wellFormed = true := by decide

theorem test_move_of_a_jack_refused : (Instr.move 1 0x25 1).wellFormed = false := by decide

theorem test_stop_of_all_refused : (Instr.stop 1 0xFF).wellFormed = false := by decide

theorem test_known_request_as_unknown_refused : (Instr.unknownRequest 0x01 7 []).wellFormed = false := by decide

theorem test_long_unknown_request_refused :
    (Instr.unknownRequest 0x30 7 (List.replicate 59 0)).wellFormed = false := by decide

theorem test_unknown_request_accepted : (Instr.unknownRequest 0x14 7 [1, 2]).wellFormed = true := by decide

/-! ## Requests (TABLE 13-4) and the CRCs (R191, R192) -/

theorem test_move_frame_decodes : decodeRequest ⟨0x05, 9, [0x45, 2]⟩ = .move 9 0x45 2 := by decide

theorem test_move_of_a_jack_decodes : decodeRequest ⟨0x05, 9, [0x23, 1]⟩ = .moveJack 9 3 1 := by decide

theorem test_stop_all_decodes : decodeRequest ⟨0x06, 9, [0xFF]⟩ = .stopAll 9 := by decide

theorem test_param_set_decodes :
    decodeRequest ⟨0x0F, 9, [57, 0x22, 0xFF, 0xFF, 0xF1, 0x28]⟩ = .paramSet 9 57 0x22 (BitVec.ofInt 32 (-3800)) := by decide

theorem test_wrong_length_is_unknown : decodeRequest ⟨0x01, 9, [0]⟩ = .unknownRequest 0x01 9 [0] := by decide

/-- The ASCII digits 1 to 9. -/
def digits : List Byte := [0x31, 0x32, 0x33, 0x34, 0x35, 0x36, 0x37, 0x38, 0x39]

theorem test_crc16_check_value : crc16 digits = 0x29B1#16 := by decide +kernel

theorem test_crc8_check_value : crc8 digits = 0xF4#8 := by decide +kernel

/-! ## Worked values of the manual -/

/-- R2. -/
theorem test_halves_round_away_from_zero : roundDiv 7 2 = 4 ∧ roundDiv (-7) 2 = -4 := by decide

/-- TABLE 2-3, frame 701. -/
theorem test_count_change_across_the_wrap : countChange 12 65530 = 18 := by decide

/-- 3.6, frame 1112: −7 × 200 / 16 = −87.5. -/
theorem test_speed_rounds : roundDiv (-7 * 200) 16 = -88 := by decide

/-- R58: eight codes of 2400 are 12.00 V. -/
theorem test_battery_average : batteryAverage (List.replicate 8 2400) = 1200 := by decide

/-- R77. -/
theorem test_block_average : blockAverage 35367 = 2210 ∧ blockAverage 35368 = 2211 := by decide

/-- TABLE 5-2. -/
theorem test_tilt_corrections :
    clampTilt (tilt 2210 2050 3072) = 120 ∧ clampTilt (tilt 1960 2014 3072) = -41 ∧ clampTilt (tilt 2051 2048 3072) = 2 ∧
    clampTilt (tilt 2054 2048 3686) = 5 ∧ clampTilt (tilt 4030 2048 3686) = 1500 ∧
    clampTilt (tilt 100 2048 2458) = -1169 := by decide

/-- TABLE 6-6 at the default geometry, pitch 120 and roll −41. -/
theorem test_corner_heights :
    cornerHeight 4200 (-1100) 120 (-41) = 95818 ∧ cornerHeight 4200 1100 120 (-41) = 80078 ∧
    cornerHeight (-3800) (-1100) 120 (-41) = -71702 ∧ cornerHeight (-3800) 1100 120 (-41) = -87442 := by decide

/-- TABLE 6-7: c10 20, deadband 2, stroke 1100. -/
theorem test_lifts :
    (settleLift 412 95818 0 (liftCounts 0 20) 2 1100).target = none ∧
    (settleLift 398 80078 15740 (liftCounts 15740 20) 2 1100).target = some 429 ∧
    (settleLift 455 (-71702) 167520 (liftCounts 167520 20) 2 1100).target = some 790 ∧
    (settleLift 470 (-87442) 183260 (liftCounts 183260 20) 2 1100).target = some 837 := by decide

/-- TABLE 6-8 and the text under it. -/
theorem test_response_prediction :
    executedLift 31 20 = 15500 ∧ predicted (mean 0 15500 - mean 167500 183500) 8000 = -120 ∧
    predicted (mean 15500 183500 - mean 0 167500) 2200 = 41 := by decide

/-- TABLE 7-3. -/
theorem test_trim_duties :
    trimDuty 200 9 8 = 196 ∧ trimDuty 200 20 8 = 162 ∧ trimDuty 200 30 8 = 131 ∧ trimDuty 200 40 8 = 100 ∧
    trimDuty 200 96 8 = 100 ∧ trimDuty 80 20 8 = 65 := by decide

/-- R131. -/
theorem test_wind_speeds :
    windSpeed 6670000 80000 = 83 ∧ windSpeed 6670000 74111 = 90 ∧ windSpeed 6670000 11116 = 600 := by decide

/-- 13: the descriptor of node 3. -/
theorem test_descriptor_sums_to_zero : descSum [33, 2, 1, 30, 20, 1, 30, 20, 3, 116] = 0 := by decide

/-! ## The states of the tests -/

/-- What a command leaves, where it answers a next state. -/
def after (o : Host.Outcome State Fault Refusal) : State :=
  match o with
  | .next s => s
  | _ => .reset

/-- The part in RUN at the end of frame 1000 on a layout code, PARK set, every node READY with a descriptor of c10 20, every position
known at 600 counts, nothing listed, queued or sent. -/
def baseOn (layout : BitVec 4) : State :=
  let s := State.reset.boot .power layout
  let t := { s with
    frame := 1000, frameOver := true, frameFresh := false, flt := .reset
    sst := { s.sst with phase := .run }
    ciu := { s.ciu with park := { s.ciu.park with accepted := some true } }
    pli := { s.pli with notices := [], tx := none } }
  let t := t.mapChans fun x => if x.kind = .none then x else { x with known := true, position := 600, idlePos := 600 }
  finish (t.mapNodes fun x => if x.state = .absent then x else { x with
    state := .ready, cursor := none, desc := some [33, 2, 1, 30, 20, 1, 30, 20, 3, 116] })

/-- Layout code 7: six jacks, a twin and two single rooms, an awning. -/
def base : State := baseOn 7

/-- A unit's work for an origin on channels that move one way, granted alone. -/
def working (s : State) (u : UnitId) (o : Origin) (d : Dir) (l : List (Fin 16)) : State :=
  let t := s.setUnit u { state := .active, origin := some o, cls := some o, claim := some (s.claimOf u), pending := [] }
  let t := l.foldl (fun t c => t.setChan c { t.chan c with
    state := .moving, motion := some (s.newMotion c d o (if o = .user then some (s.frame + 60) else none)) }) t
  { t with sgu := { t.sgu with grants := [⟨u, o, s.claimOf u, 1⟩], nextOrder := 1 } }

/-- The slot reply of these bytes with its CRC-8. -/
def replyOf (l : List Byte) : SlotReply := .bytes ((l ++ [crc8 l]).map fun b => ⟨b, false⟩)

/-! ## The predicates of Safety as tests -/

def linesTest (s : State) : Bool :=
  (allRooms.all fun r => decide (s.withSkew r = s.room r)) && decide (s.sgu.pump = s.pumpRule) &&
    decide (s.ciu.travel = s.travelRule) && allNodes.all fun n => decide ((s.node n).image = s.imageRule n)

def stillTest (s : State) : Bool :=
  (s.flt.entries.all fun e => decide (e.kind = .awningExposed → e.present = true → s.awningStowed = false)) &&
    (s.roomsStowed || jackChans.all fun c => !(s.chan c).moves .retract)

def parkedTest (s : State) : Bool := decide (s.sst.phase = .run → s.parkReleased = false) && decide (s.ciu.alarm = false)

def restTest (s : State) : Bool :=
  (allUnits.all fun u => decide (s.unit u = .reset)) && (allChans.all fun c => decide ((s.chan c).motion = none)) &&
    decide (s.sgu.queue = [] ∧ s.sgu.grants = [] ∧ s.lvs.seq.state = .idle ∧ s.ciu.stow.state = .idle ∧ s.wgd.state = .armed) &&
    s.flt.entries.all fun e => decide (e.present = false)

theorem lines_of {s : State} (h : linesTest s = true) : Lines s := by
  simp only [linesTest, Bool.and_eq_true, List.all_eq_true, decide_eq_true_eq] at h
  exact ⟨fun r => h.1.1.1 r (List.mem_finRange r), h.1.1.2, h.1.2, fun n => h.2 n (List.mem_finRange n)⟩

theorem still_of {s : State} (h : stillTest s = true) : Still s := by
  simp only [stillTest, Bool.and_eq_true, Bool.or_eq_true, List.all_eq_true, decide_eq_true_eq, Bool.not_eq_true'] at h
  exact ⟨h.1, h.2⟩

theorem parked_of {s : State} (h : parkedTest s = true) : Parked s := by
  simp only [parkedTest, Bool.and_eq_true, decide_eq_true_eq] at h
  exact ⟨h.1, h.2⟩

theorem quiet_of {s : State} (h : (s.running && linesTest s && stillTest s) = true) : Quiet s := by
  simp only [Bool.and_eq_true, State.running, decide_eq_true_eq] at h
  exact ⟨h.1.1, lines_of h.1.2, still_of h.2⟩

theorem steady_of {s : State} (h : (s.running && stillTest s && parkedTest s) = true) : Steady s := by
  simp only [Bool.and_eq_true, State.running, decide_eq_true_eq] at h
  exact ⟨h.1.1, still_of h.1.2, parked_of h.2⟩

theorem resting_of {s : State} (h : (s.running && parkedTest s && restTest s) = true) : Resting s := by
  simp only [Bool.and_eq_true, State.running, restTest, List.all_eq_true, decide_eq_true_eq] at h
  obtain ⟨⟨h1, h2⟩, ⟨⟨⟨h3, h4⟩, h5⟩, h6⟩⟩ := h
  exact ⟨h1, parked_of h2, fun u => h3 u (mem_allUnits u), fun c => h4 c (List.mem_finRange c), h5.1, h5.2.1, h5.2.2.1,
    h5.2.2.2.1, h5.2.2.2.2, h6⟩

theorem restingBut_of {s : State} {k : FaultKind} {sj : Subject}
    (h : (({ s with flt := .reset } : State).running && parkedTest { s with flt := .reset } && restTest { s with flt := .reset })
      = true)
    (g : decide ((∀ e ∈ s.flt.entries, e.present = true → e.kind = k ∧ e.subject = sj) ∧
      (s.flt.entries.filter fun e => decide (e.kind = k ∧ e.subject = sj)).length ≤ 1) = true) : s.RestingBut k sj := by
  rw [decide_eq_true_eq] at g
  exact ⟨resting_of h, g.1, g.2⟩

/-- An output's report is plain. -/
def plainTest (s : State) (c : Fin 16) (k : Cond) (p : Nat) : Bool := decide (k = (s.chan c).cond ∧
  ((s.chan c).cond = .limitRet → (s.chan c).known = true) ∧
  ((s.chan c).isJack = true → latchAfter (s.chan c).latch (s.jackPar c) p = (s.chan c).latch))

theorem plain_of {s : State} {c : Fin 16} {k : Cond} {p : Nat} (h : plainTest s c k p = true) : PlainReport s c k p := by
  rw [plainTest, decide_eq_true_eq] at h
  exact ⟨h.1, h.2.1, h.2.2⟩

theorem hears_of {s : State} (h : decide (s.sst.phase ≠ .load ∧ s.pli.holding = [] ∧ s.pli.slot = none ∧
    s.pli.resetPending = false ∧ s.pli.silent = false) = true) : Hears s := by
  rw [decide_eq_true_eq] at h
  exact ⟨h.1, h.2.1, h.2.2.1, h.2.2.2.1, h.2.2.2.2⟩

/-- At rest in RUN, ready to take a request. -/
theorem base_meets : Quiet base ∧ Resting base ∧ Steady base ∧ Hears base :=
  ⟨quiet_of (by decide +kernel), resting_of (by decide +kernel), steady_of (by decide +kernel), hears_of (by decide +kernel)⟩

/-! ## One step on a small state -/

/-- R182: layout code 11 uses nodes 0 to 5 and 7; node 6 is ABSENT. -/
theorem test_power_on_layout_11 :
    (allNodes.filter fun n => decide (((after (exec (.powerOn 11) State.reset)).node n).state = .discovering))
      = [0, 1, 2, 3, 4, 5, 7] := by decide +kernel

/-- R13: MOVE of channel 2 extends that jack alone, attended for 300 ms. -/
theorem test_move_jack : let t := after (exec (.moveJack 1 2 1) base)
    (t.chan 2).motion.map Motion.dir = some .extend ∧ ((t.chan 2).motion.bind Motion.deadline) = some 1060 ∧
      (t.chan 3).motion = none ∧ t.sgu.pump = true := by decide +kernel

/-- TABLE 13-5: the payload of STATUS is 43 bytes. -/
theorem test_status_payload : (State.statusReply base).length = 43 := by decide +kernel

/-- 13: a FAULTS reply with four entries carries 56 payload bytes. -/
theorem test_faults_payload : (State.faultsReply { base with flt :=
    [FaultKind.supplyLow, .supplyHigh, .overdraw, .windTrip, .travelAlarm].foldl (fun f k => (f.raise k .coach 9).1) .reset }
    0).length = 56 := by decide +kernel

/-- R35, TABLE 2-6: a third silent slot loses the node and ends the work of its unit with FAULT. -/
theorem test_third_miss : let s := working base (.room 1) .user .extend [8]
    let t := after (exec (.slotIntake 4 .silent) (s.modNode 4 fun x => { x with misses := 2 }))
    (t.node 4).state = .lost ∧ (t.unit (.room 1)).state = .idle ∧ (t.chan 8).state = .idle := by decide +kernel

/-- R188: a part whose store is erased starts on defaults with STORE_INVALID listed. -/
theorem test_erased_store : let t := after (exec (.powerOn 3) State.reset)
    t.sst.outcome = .defaultsCrc ∧ t.flt.entries.map FaultEntry.kind = [.storeInvalid] := by decide +kernel

/-- R26: the command frame of an extending room end: address, EXTEND at run duty, output B OFF, no message. -/
theorem test_command_frame : let s := finish (working base (.room 1) .user .extend [8])
    (after (exec (.nodeCommandSlot 4) s)).nlc.sent.map (fun l => l.take 7) = some [4, 1, 200, 0, 0, 0, 0] := by decide +kernel

/-! ## Witnesses: queue, resets, start-up, soft reset -/

theorem witness_StepRunsFront : ({ base with pending := [.stopAll 0, .powerLoss] } : State).pending = .stopAll 0 :: [.powerLoss] ∧
    base.pending = [] := by decide +kernel

theorem witness_StoppedPartIgnores : State.reset.mode ≠ .running ∧ (∀ k, Instr.stopAll 0 ≠ .powerOn k) ∧
    (∀ k, Instr.stopAll 0 ≠ .resetnRelease k) ∧ Instr.stopAll 0 ≠ .resetnAssert ∧ Instr.stopAll 0 ≠ .powerLoss :=
  ⟨by decide, nofun, nofun, nofun, nofun⟩

theorem witness_ResetsStartThePart : (State.blank .lineReset .line .erased [] 0).mode = .lineReset := by decide

theorem witness_ResetsStopThePart : base.mode ≠ .off := by decide +kernel

/-- DISCOVER, with every used node read, and with node 3 still read at the end of frame 199. -/
def discovering (late : Bool) : State :=
  let s := { base with sst := { base.sst with phase := .discover } }
  if late then { (s.modNode 3 fun x => { x with state := .discovering, cursor := some 4 }) with frame := 199 } else s

theorem witness_StartUpRunEntersRun : (∀ b, Steady (discovering b)) ∧
    (∀ b, (discovering b).frameOver = true ∧ (discovering b).parkReleased = false ∧ (discovering b).sst.phase = .discover ∧
      (discovering b).wgd.retract ≠ .deferred) ∧
    (∀ n, ((discovering false).node n).state ≠ .discovering) ∧ 199 ≤ (discovering true).frame.toNat :=
  ⟨fun b => steady_of (by revert b; decide +kernel), by decide +kernel⟩

/-- A RESET has been answered and its reply sent. -/
def resetting : State := { base with pli := { base.pli with resetPending := true } }

/-- A RESET is due with conditions that stand: OVERCURRENT of channel 8, node 4 LOST, node 3 in MISMATCH, the supply LOW, the
attitude INVALID. -/
def resettingFaulty : State :=
  let s := resetting.modNode 3 fun x => { x with state := .mismatch, cause := some .kind }
  let s := (s.modNode 4 fun x => { x with state := .lost }).modChan 8 fun x => { x with cond := .overcurrent }
  { s with sgu := { s.sgu with supply := .low }, atu := { s.atu with record := { s.atu.record with state := .invalid } } }

theorem witness_SoftResetActs : (∀ s ∈ [resetting, resettingFaulty], s.mode = .running ∧ s.pli.resetPending = true ∧
      s.pli.slot = none ∧ s.sst.commit = none) ∧
    (resettingFaulty.node 3).state = .mismatch ∧ (resettingFaulty.chan 6).isMotor = true ∧
    ¬((resettingFaulty.node (nodeOf 8)).state = .mismatch ∧ (resettingFaulty.chan 8).isMotor = true) ∧
    (∀ c, condFault (resetting.chan c).cond = none) ∧
    (∀ n, (resetting.node n).state = .ready ∨ (resetting.node n).state = .absent) ∧
    resetting.sgu.supply = .normal ∧ resetting.atu.record.state ≠ .invalid := by decide +kernel

/-! ## Witnesses: frames and the node link -/

theorem next_after {o : Host.Outcome State Fault Refusal} (h : ∃ t, o = .next t) : o = .next (after o) := by
  obtain ⟨t, rfl⟩ := h; rfl

/-- An event of a running part answers a next state. -/
theorem event_next (s : State) (o : Out) : ∃ t, event s o = .next t := by
  unfold event; split <;> exact ⟨_, rfl⟩

theorem slot_next (n : Fin 8) (s : State) :
    exec (.nodeCommandSlot n) s = .next (after (exec (.nodeCommandSlot n) s)) := by
  have h : ∃ t, exec (.nodeCommandSlot n) s = .next t := by
    show ∃ t, execNodeCommandSlot n s = .next t
    exact event_next _ _
  exact next_after h

/-- What an event of the part leaves for an intake. -/
theorem intake_next (n : Fin 8) (r : SlotReply) (s : State) :
    exec (.slotIntake n r) s = .next (after (exec (.slotIntake n r) s)) := by
  refine next_after ?_
  show ∃ t, execSlotIntake n r s = .next t
  unfold execSlotIntake; split <;> exact ⟨_, rfl⟩

/-- Slot 0, slot 3 and the intake of slot 7 of a running part, and a part before the end of its frame. -/
theorem witness_FrameNumbersCountFrames : base.mode = .running ∧
    exec (.nodeCommandSlot 0) base = .next (after (exec (.nodeCommandSlot 0) base)) ∧
    (after (exec (.nodeCommandSlot 0) base)).mode = .running ∧
    exec (.nodeCommandSlot 3) base = .next (after (exec (.nodeCommandSlot 3) base)) ∧
    (after (exec (.nodeCommandSlot 3) base)).mode = .running ∧ (Instr.nodeCommandSlot 3 ≠ .nodeCommandSlot 0) ∧
    (∀ k, Instr.nodeCommandSlot 3 ≠ .powerOn k) ∧ (∀ r, Instr.nodeCommandSlot 3 ≠ .slotIntake 7 r) ∧
    exec (.slotIntake 7 .silent) base = .next (after (exec (.slotIntake 7 .silent) base)) ∧
    (after (exec (.slotIntake 7 .silent) base)).mode = .running ∧
    Quiet { base with frameOver := false } ∧ ({ base with frameOver := false } : State).frameOver = false :=
  ⟨by decide +kernel, slot_next _ _, by decide +kernel, slot_next _ _, by decide +kernel,
    by decide, nofun, nofun, intake_next _ _ _, by decide +kernel, quiet_of (by decide +kernel), rfl⟩

theorem witness_LayoutStands : base.mode = .running ∧
    exec (.nodeCommandSlot 3) base = .next (after (exec (.nodeCommandSlot 3) base)) ∧
    (after (exec (.nodeCommandSlot 3) base)).mode = .running ∧ ∀ k, Instr.nodeCommandSlot 3 ≠ .powerOn k :=
  ⟨by decide +kernel, slot_next _ _, by decide +kernel, nofun⟩

theorem witness_OnlyCommitsWriteTheImage : base.mode = .running ∧
    exec (.nodeCommandSlot 3) base = .next (after (exec (.nodeCommandSlot 3) base)) ∧
    (after (exec (.nodeCommandSlot 3) base)).mode = .running ∧ (∀ k, Instr.nodeCommandSlot 3 ≠ .powerOn k) ∧
    (∀ a, Instr.nodeCommandSlot 3 ≠ .commitComplete a) ∧ Instr.nodeCommandSlot 3 ≠ .commitTimeout :=
  ⟨by decide +kernel, slot_next _ _, by decide +kernel, nofun, nofun, nofun⟩

/-- Before slot 0: node 2 stands at a step of its descriptor read; the first frame after a reset, or a soft reset's. -/
def slotted (x : Xfer) (fresh restart : Bool) : State :=
  { base.modNode 2 fun y => { y with state := .discovering, xfer := x, cursor := some 4 } with
    frameFresh := fresh, restartFrame := restart }

/-- Node 6 is ABSENT on layout code 7; each step of a descriptor read before slot 0, in each kind of frame. -/
theorem witness_SlotSendsTheImage : (7 : Fin 8) ≠ 0 ∧ (6 : Fin 8) ≠ 0 ∧ Quiet base ∧ (base.node 6).state = .absent ∧
    ∀ x ∈ [Xfer.none, .startNext, .abortNext, .abort], ∀ fresh restart : Bool, Steady (slotted x fresh restart) ∧
      (slotted x fresh restart).pli.holding = [] ∧ ((slotted x fresh restart).node 2).state = .discovering ∧
      ((slotted x fresh restart).node 2).xfer = x ∧ ((slotted x fresh restart).node 2).cursor = some 4 ∧
      (slotted x fresh restart).frameFresh = fresh ∧ (slotted x fresh restart).restartFrame = restart := by
  refine ⟨by decide, by decide, base_meets.1, by decide +kernel, fun x h fresh restart => ?_⟩
  exact ⟨steady_of (by revert x fresh restart; decide +kernel), by revert x fresh restart; decide +kernel⟩

/-- The frame of a node's reply that carries a status. -/
def carry (n : Fin 8) (f : Status) : SlotReply := replyOf
  [BitVec.ofNat 8 n.val, BitVec.ofNat 8 f.condA.code, f.countA.extractLsb' 8 8, f.countA.extractLsb' 0 8,
    BitVec.ofNat 8 f.currentA, BitVec.ofNat 8 f.pressureA, BitVec.ofNat 8 f.condB.code, f.countB.extractLsb' 8 8,
    f.countB.extractLsb' 0 8, BitVec.ofNat 8 f.currentB, BitVec.ofNat 8 f.pressureB, f.ctl, f.data]

/-- A status of output A, with output B NORMAL at count 65535 without pressure, and a message. -/
def report (k : Cond) (count : BitVec 16) (current pressure : Nat) (ctl data : Byte) : Status :=
  { condA := k, countA := count, currentA := current, pressureA := pressure, condB := .normal, countB := 65535, currentB := 10
    pressureB := 0, ctl := ctl, data := data }

/-- R29, TABLE 2-4: the bytes of a status frame of node 0, written out. -/
theorem test_status_frame : statusOf 0 (replyOf [0, 0, 1, 44, 8, 0, 0, 255, 255, 10, 0, 0, 0]) =
    some (report .normal 300 8 0 0 0) := by decide +kernel

/-- Channel 6 has a condition, and its output a candidate. -/
def reporting (old : Cond) (candidate : Option Cond) : State :=
  (base.modChan 6 fun x => { x with cond := old }).modNode 3 fun x => { x with outA := { x.outA with candidate := candidate } }

/-- Plain reports of the jacks of node 0; then the cases of one output: a plain report and one that sets the latch of jack 0, a
new code, a code seen before that is none of these, and each code seen before. -/
theorem witness_ValidSlotIsDelivered :
    (Resting base ∧ (base.node 0).state = .ready ∧ (∀ p ∈ [11, 12], statusOf 0 (carry 0 (report .normal 300 8 p 0 0)) =
        some (report .normal 300 8 p 0 0)) ∧ base.populated (chanA 0) = true ∧ base.populated (chanB 0) = true) ∧
    PlainReport base (chanA 0) .normal 11 ∧ ¬PlainReport base (chanA 0) .normal 12 ∧ PlainReport base (chanB 0) .normal 0 ∧
    (∀ c ∈ [none, some Cond.overtemp], Resting (reporting .normal c) ∧ some Cond.limitRet ≠ c ∧
      ((reporting .normal c).outRec 6).candidate = c ∧ PlainReport (reporting .normal c) (chanB 3) .normal 0) ∧
    ∀ k ∈ [Cond.limitRet, .limitExt, .overcurrent, .openLoad, .overtemp, .normal],
      let s := reporting (if k = .normal then .overtemp else .normal) (some k)
      Resting s ∧ (s.node 3).state = .ready ∧ s.populated 6 = true ∧ k ≠ (s.chan 6).cond ∧ (s.outRec 6).candidate = some k ∧
        ((s.chan 6).cond = .limitRet → (s.chan 6).known = true) ∧
        statusOf 3 (carry 3 (report k 300 8 0 0 0)) = some (report k 300 8 0 0 0) ∧ PlainReport s (chanB 3) .normal 0 := by
  refine ⟨⟨base_meets.2.1, by decide +kernel⟩, plain_of (by decide +kernel),
    fun h => absurd (h.latch (by decide +kernel)) (by decide +kernel), plain_of (by decide +kernel), fun c h => ?_, fun k h => ?_⟩
  · exact ⟨resting_of (by revert c; decide +kernel), by revert c; decide +kernel, by revert c; decide +kernel,
      plain_of (by revert c; decide +kernel)⟩
  · exact ⟨resting_of (by revert k; decide +kernel), by revert k; decide +kernel, by revert k; decide +kernel,
      by revert k; decide +kernel, by revert k; decide +kernel, by revert k; decide +kernel, by revert k; decide +kernel,
      plain_of (by revert k; decide +kernel)⟩

/-- A READY node with one miss, and a LOST node. -/
theorem witness_MissIsCounted : let s := base.modNode 2 fun x => { x with misses := 1 }
    let t := finish (base.modNode 2 fun x => { x with state := .lost, misses := 3 })
    statusOf 2 .silent = none ∧ (Quiet s ∧ (s.node 2).state = .ready ∧ (s.node 2).misses < 2) ∧
      Quiet t ∧ (t.node 2).state = .lost :=
  ⟨by decide, ⟨quiet_of (by decide +kernel), by decide +kernel, by decide +kernel⟩, quiet_of (by decide +kernel),
    by decide +kernel⟩

/-- Node 4 is LOST, NODE_LOST is listed, and it has answered a number of slots in a row. -/
def lost (good : Nat) : State :=
  ({ base with flt := (base.flt.raise .nodeLost (.node 4) 900).1 } : State).modNode 4 fun x =>
    { x with state := .lost, misses := 3, good := good, image := .off }

/-- A third silent slot, and the first and second VALID slot of a LOST node. -/
theorem witness_ThirdMissLosesTheNode :
    (let s := base.modNode 2 fun x => { x with misses := 2 };
      Resting s ∧ statusOf 2 .silent = none ∧ (s.node 2).state = .ready ∧ (s.node 2).misses = 2) ∧
    ∀ g ∈ [0, 1], (lost g).RestingBut .nodeLost (.node 4) ∧ ((lost g).node 4).state = .lost ∧
      statusOf 4 (carry 4 (report .normal 300 8 0 0 0)) = some (report .normal 300 8 0 0 0) ∧
      ((lost g).node 4).image = .off ∧ ((lost g).node 4).good = g ∧ (lost g).populated (chanA 4) = true ∧
      PlainReport (lost g) (chanA 4) .normal 0 ∧ (lost g).populated (chanB 4) = false := by
  refine ⟨⟨resting_of (by decide +kernel), by decide, by decide +kernel, by decide +kernel⟩, fun g h => ?_⟩
  exact ⟨restingBut_of (by revert g; decide +kernel) (by revert g; decide +kernel), by revert g; decide +kernel,
    by decide +kernel, by revert g; decide +kernel, by revert g; decide +kernel, by revert g; decide +kernel,
    plain_of (by revert g; decide +kernel), by revert g; decide +kernel⟩

/-- Node 3 is read again after a loss: NODE_LOST is listed, the descriptor it held gave c10 20, a byte of the new one is expected,
bytes have come, and attempts have failed. -/
def reading (cursor : Nat) (l : List Byte) (retry misses : Nat) : State :=
  ({ base with flt := (base.flt.raise .nodeLost (.node 3) 900).1 } : State).modNode 3 fun x =>
    { x with state := .discovering, cursor := some cursor, scratch := l, retry := retry, misses := misses }

/-- The bytes before the check byte of the descriptor of 13's example, with the c10 of output B given. -/
def descBytes (c10 : Byte) : List Byte := [33, 2, 1, 30, 20, 1, 30, c10, 3]

/-- 13: check byte 116 makes node 3 READY; a second c10 of 21 with check byte 115 makes it MISMATCH, TWIN_C10. -/
theorem witness_DescriptorIsJudged :
    ∀ p ∈ [((20 : Byte), (116 : Byte), none), (21, 115, some MismatchCause.twinC10)],
      let s := reading 9 (descBytes p.1) 0 0
      let l := (s.node 3).scratch ++ [p.2.1]
      s.RestingBut .nodeLost (.node 3) ∧ ((s.node 3).state = .discovering ∧ (s.node 3).xfer = .none ∧
      (s.node 3).cursor = some 9 ∧ (s.node 3).scratch.length = 9 ∧
      statusOf 3 (carry 3 (report .normal 0 0 0 3 p.2.1)) = some (report .normal 0 0 0 3 p.2.1) ∧ descSum l = 0 ∧
      s.descFault 3 l = p.2.2) ∧ PlainReport s (chanA 3) .normal 0 ∧ PlainReport s (chanB 3) .normal 0 := by
  intro p h
  exact ⟨restingBut_of (by revert p; decide +kernel) (by revert p; decide +kernel), by revert p; decide +kernel,
    plain_of (by revert p; decide +kernel), plain_of (by revert p; decide +kernel)⟩

/-- A first byte that joins; a wrong message, a bad sum and a miss, at the first failure and at the third. -/
theorem witness_DescriptorIsJudged_fails : let s := reading 0 [] 0 0
    let joining := report .normal 0 0 0 1 33
    (s.RestingBut .nodeLost (.node 3) ∧ (s.node 3).cursor = some 0 ∧ statusOf 3 (carry 3 joining) = some joining ∧ joining.ctl = 1) ∧
    (∀ r ∈ [0, 1, 2], (reading 0 [] r 1).RestingBut .nodeLost (.node 3) ∧ ((reading 0 [] r 1).node 3).misses < 2 ∧
      statusOf 3 .silent = none ∧ ((reading 0 [] r 1).node 3).retry = r) ∧
    (let f := report .normal 0 0 0 2 33;
      statusOf 3 (carry 3 f) = some f ∧ f.ctl ≠ 1) ∧
    (let t := reading 9 (descBytes 20) 2 0; let f := report .normal 0 0 0 3 117;
      t.RestingBut .nodeLost (.node 3) ∧ statusOf 3 (carry 3 f) = some f ∧ descSum ((t.node 3).scratch ++ [f.data]) ≠ 0 ∧
        PlainReport t (chanA 3) .normal 0 ∧ PlainReport t (chanB 3) .normal 0) ∧
    PlainReport s (chanA 3) .normal 0 ∧ PlainReport s (chanB 3) .normal 0 := by
  refine ⟨⟨restingBut_of (by decide +kernel) (by decide +kernel), by decide +kernel⟩, fun r h => ?_, by decide +kernel,
    ⟨restingBut_of (by decide +kernel) (by decide +kernel), by decide +kernel, by decide +kernel, plain_of (by decide +kernel),
      plain_of (by decide +kernel)⟩, plain_of (by decide +kernel), plain_of (by decide +kernel)⟩
  exact ⟨restingBut_of (by revert r; decide +kernel) (by revert r; decide +kernel), by revert r; decide +kernel,
    by decide, by revert r; decide +kernel⟩

/-! ## Witnesses: measurements -/

/-- A level sequence in a state since a frame, with these jacks moving. -/
def levelling (st : LvState) (f : FrameNo) (l : List (Fin 16)) : State :=
  let s := working base .jacks .level .extend l
  { s with lvs := { s.lvs with seq := { s.lvs.seq with state := st, phaseStart := some f } } }

theorem levelling_of {s : State} {st : LvState} {f : FrameNo} (h : (s.running && stillTest s && parkedTest s) = true)
    (k : s.lvs.seq.state = st ∧ s.lvs.seq.phaseStart = some f ∧ s.lvs.seq.recorded = none ∧ (s.unit .jacks).state = .active ∧
      (s.unit .jacks).origin = some .level ∧ (∀ u ∈ allUnits, u ≠ .jacks → (s.unit u).state = .idle) ∧ s.sgu.queue = []) :
    s.Levelling st f :=
  ⟨steady_of h, k.1, k.2.1, k.2.2.1, ⟨k.2.2.2.1, k.2.2.2.2.1⟩, fun u hu => k.2.2.2.2.2.1 u (mem_allUnits u) hu,
    k.2.2.2.2.2.2⟩

theorem witness_IdleWindowGivesSpeed : let s := base.setChan 8 { base.chan 8 with idleStart := 984, idlePos := 607 }
    let t := base.setChan 8 { base.chan 8 with idleStart := 985 }
    (Steady s ∧ s.frameOver = true ∧ s.populated 8 = true ∧ (s.chan 8).motion = none ∧ s.par.speedWindow ≤ elapsed s.frame (s.chan 8).idleStart) ∧
      Steady t ∧ t.frameOver = true ∧ t.populated 8 = true ∧ (t.chan 8).motion = none ∧
      elapsed t.frame (t.chan 8).idleStart < t.par.speedWindow :=
  ⟨⟨steady_of (by decide +kernel), by decide +kernel⟩, steady_of (by decide +kernel), by decide +kernel⟩

/-- Room 1's end moves one way, its window started at frame 984 from a position, with a grace end and a stall count. -/
def window (d : Dir) (grace : FrameNo) (count : Nat) : Motion :=
  { dir := d, target := .toEnd, origin := .user, attended := true, deadline := some 1060, start := 800, winStart := 984
    winPos := 600, stallCount := count, graceEnd := grace, arrived := false }

/-- Room 1 works for the user with that record, at 40 A. -/
def stalling (m : Motion) : State :=
  let s := working base (.room 1) .user m.dir [8]
  s.setChan 8 { s.chan 8 with current := 80, motion := some m }

/-- A window inside the grace period, and a first window with the stall condition. -/
theorem witness_MovingWindowGivesSpeed :
    let hyp := fun (m : Motion) (s : State) => s.frameOver = true ∧ s.populated 8 = true ∧ (s.chan 8).motion = some m ∧
      s.par.speedWindow ≤ elapsed s.frame m.winStart ∧ m.stallCount ≤ 1 ∧
      ¬(((s.chan 8).isMotor = true ∧ m.arrived = false ∧ reached s.frame m.graceEnd = true) ∧
        ((roundDiv (((s.chan 8).position - m.winPos) * 200) (elapsed s.frame m.winStart)).natAbs < (s.motorPar 8).stallFloor ∧
          2 * (s.motorPar 8).stallCurrent ≤ (s.chan 8).current) ∧ m.stallCount = 1)
    Steady (stalling (window .extend 1001 1)) ∧ Steady (stalling (window .extend 1000 0)) ∧
      hyp (window .extend 1001 1) (stalling (window .extend 1001 1)) ∧
      hyp (window .extend 1000 0) (stalling (window .extend 1000 0)) :=
  ⟨steady_of (by decide +kernel), steady_of (by decide +kernel), by decide +kernel⟩

/-- Retracting and extending, each away from its end, and retracting with the position unknown and no LIMIT_RET. -/
theorem witness_StallEndsTheWork :
    let hyp := fun (m : Motion) (s : State) => s.frameOver = true ∧ 8 ∈ s.unitChans (.room 1) ∧ (s.chan 8).isMotor = true ∧
      (s.unit (.room 1)).state ≠ .idle ∧ (s.unit (.room 1)).origin = some .user ∧ (∀ e ∈ s.sgu.queue, e.unit = .room 1) ∧
      (s.chan 8).motion = some m ∧ s.par.speedWindow ≤ elapsed s.frame m.winStart ∧ m.arrived = false ∧
      reached s.frame m.graceEnd = true ∧ m.stallCount = 1 ∧
      (m.dir = .retract → if (s.chan 8).known then ((s.motorPar 8).endBand : Int) < (s.chan 8).position
        else (s.chan 8).cond ≠ .limitRet) ∧
      (m.dir = .extend → (s.chan 8).known = true ∧ (s.chan 8).position < (s.motorPar 8).travel - (s.motorPar 8).endBand) ∧
      (roundDiv (((s.chan 8).position - m.winPos) * 200) (elapsed s.frame m.winStart)).natAbs < (s.motorPar 8).stallFloor ∧
      2 * (s.motorPar 8).stallCurrent ≤ (s.chan 8).current
    let unknown := (stalling (window .retract 1000 1)).modChan 8 fun x => { x with known := false }
    (∀ d, Steady (stalling (window d 1000 1)) ∧ hyp (window d 1000 1) (stalling (window d 1000 1))) ∧
      Steady unknown ∧ hyp (window .retract 1000 1) unknown := by
  intro hyp unknown
  refine ⟨fun d => ?_, steady_of (by decide +kernel), by decide +kernel⟩
  cases d <;> exact ⟨steady_of (by decide +kernel), by decide +kernel⟩

/-- Room 1 stalls for the user at a position, alone on its unit. -/
def stallingAt (d : Dir) (position : Int) (known : Bool) (c : Cond) : State :=
  (stalling { window d 1000 1 with winPos := position }).modChan 8 fun x => { x with position := position, known := known, cond := c }

/-- At end-band, and with the position unknown on the closed switch; at travel less end-band, beyond travel by more than
end-tolerance, and with the position unknown. -/
theorem witness_StallEndsTheWork_end :
    let p := base.motorPar 8
    ∀ q ∈ [(Dir.retract, (p.endBand : Int), true, Cond.normal), (.retract, 600, false, .limitRet),
        (.extend, (p.travel : Int) - p.endBand, true, .normal), (.extend, (p.travel : Int) + p.endTolerance + 1, true, .normal),
        (.extend, 600, false, .normal)],
      let s := stallingAt q.1 q.2.1 q.2.2.1 q.2.2.2
      let m := { window q.1 1000 1 with winPos := q.2.1 }
      let x := s.chan 8
      Steady s ∧ (s.frameOver = true ∧ s.unitChans (.room 1) = [8] ∧ x.isMotor = true ∧ (s.room 1).type ≠ .twin ∧
        (s.unit (.room 1)).state ≠ .idle ∧ (s.unit (.room 1)).origin = some .user ∧ s.sgu.queue = [] ∧ x.motion = some m ∧
        m.origin = .user ∧ s.par.speedWindow ≤ elapsed s.frame m.winStart ∧ m.arrived = false ∧
        reached s.frame m.graceEnd = true ∧ m.stallCount = 1 ∧ s.flt.entries = [] ∧
        (roundDiv ((x.position - m.winPos) * 200) (elapsed s.frame m.winStart)).natAbs < p.stallFloor ∧
        2 * p.stallCurrent ≤ x.current ∧
        (q.1 = .retract → if x.known then x.position ≤ p.endBand else x.cond = .limitRet) ∧
        (q.1 = .extend → x.known = true → (p.travel : Int) - p.endBand ≤ x.position)) := by
  intro p q h
  exact ⟨steady_of (by revert q; decide +kernel), by revert q; decide +kernel⟩

/-- Room 1 moves at the intake of node 4, with a grace end, a candidate of output A, and a drag count. -/
def intaking (d : Dir) (grace : FrameNo) (candidate : Option Cond) (drags : Nat) : State :=
  ((stalling (window d grace 0)).modChan 8 fun x => { x with dragCount := drags }).modNode 4 fun x =>
    { x with outA := { x.outA with candidate := candidate } }

/-- Within the grace period, a retract and LIMIT_RET, an extend and each other code; after it, a current under the band with the
drag count under and at drag-limit. -/
theorem witness_StallEndsTheWork_intake :
    let hyp := fun (f : Status) (m : Motion) (s : State) => s.lvs.seq.state = .idle ∧ (s.node 4).state = .ready ∧
      statusOf 4 (carry 4 f) = some f ∧ s.populated (chanB 4) = false ∧ s.unitChans (.room 1) = [chanA 4] ∧
      (s.chan 8).isMotor = true ∧ (s.unit (.room 1)).state ≠ .idle ∧ (s.unit (.room 1)).origin = some .user ∧
      (∀ e ∈ s.sgu.queue, e.unit = .room 1) ∧ (s.chan 8).motion = some m ∧ m.origin = .user ∧ m.arrived = false ∧
      (s.room 1).type ≠ .twin ∧ s.flt.entries = [] ∧ ∀ d ∈ jackChans, (s.chan d).moves .retract = false
    (∀ p ∈ [(Dir.retract, Cond.limitRet), (.extend, .limitExt), (.extend, .overcurrent), (.extend, .openLoad), (.extend, .overtemp)],
      let s := intaking p.1 1001 (some p.2) 0
      Steady s ∧ hyp (report p.2 300 8 0 0 0) (window p.1 1001 0) s ∧ reached s.frame 1001 = false ∧
        (s.outRec 8).candidate = some p.2 ∧ p.2 ≠ (s.chan 8).cond ∧ condFault (s.chan 8).cond = none) ∧
    ∀ k ∈ [(base.motorPar 8).dragLimit - 1, (base.motorPar 8).dragLimit], let s := intaking .extend 1000 none k
      Steady s ∧ hyp (report .normal 300 0 0 0 0) (window .extend 1000 0) s ∧ reached s.frame 1000 = true ∧
        0 < 2 * (s.motorPar 8).dragLow ∧ (s.chan 8).cond = .normal ∧ (s.chan 8).dragCount = k ∧ k < 65535 ∧
        (s.chan 8).dragReported = false := by
  intro hyp
  refine ⟨fun p h => ?_, fun k h => ?_⟩
  · exact ⟨steady_of (by revert p; decide +kernel), by revert p; decide +kernel, by revert p; decide +kernel, by revert p; decide +kernel,
      by revert p; decide +kernel, by revert p; decide +kernel⟩
  · exact ⟨steady_of (by revert k; decide +kernel), by revert k; decide +kernel, by revert k; decide +kernel, by revert k; decide +kernel,
      by revert k; decide +kernel, by revert k; decide +kernel, by revert k; decide +kernel, by revert k; decide +kernel⟩

theorem witness_ScanTakesTheCodes : Quiet base ∧ base.atu.blockCount < 16 ∧ 4095 ≤ 4095 ∧ 0 ≤ 4095 ∧ 2400 ≤ 4095 :=
  ⟨base_meets.1, by decide +kernel⟩

/-- A count of a row of TABLE 4-2 at 100, from a supply state. -/
def supplied (st : Supply) (k : SupplyCounts) : State := { base with sgu := { base.sgu with supply := st, counts := k } }

/-- One row for each new state. -/
theorem witness_SupplyStateChanges :
    let low := supplied .normal { SupplyCounts.zero with belowLow := 100 }
    let cutoff := supplied .normal { SupplyCounts.zero with belowCutoff := 100, belowLow := 100 }
    let high := supplied .normal { SupplyCounts.zero with aboveHigh := 100 }
    let normal := supplied .high { SupplyCounts.zero with clearOfHigh := 100 }
    (Resting low ∧ Resting cutoff ∧ Resting high ∧ Resting normal) ∧
      supplyNext low.sgu.supply low.sgu.counts = some .low ∧ supplyNext cutoff.sgu.supply cutoff.sgu.counts = some .cutoff ∧
      supplyNext high.sgu.supply high.sgu.counts = some .high ∧
      supplyNext normal.sgu.supply normal.sgu.counts = some .normal :=
  ⟨⟨resting_of (by decide +kernel), resting_of (by decide +kernel), resting_of (by decide +kernel),
    resting_of (by decide +kernel)⟩, by decide +kernel⟩

/-- Room 1 works for the user, and the awning may wait for it, with a count at 100 and the fault of the supply state listed. -/
def supplyBusy (old : Supply) (k : SupplyCounts) (f : List FaultKind) (queued : Bool) : State :=
  let s := working base (.room 1) .user .extend [8]
  let s := { s with
    flt := f.foldl (fun g k => (g.raise k .coach 900).1) s.flt
    sgu := { s.sgu with supply := old, counts := k } }
  if queued then { s.setUnit .awning { state := .waiting, origin := some .user, cls := some .user, claim := some 12, pending :=
      [⟨14, .extend, .toEnd, some 1060⟩] } with sgu := { s.sgu with queue := [⟨.awning, .user, 12, 990⟩] } }
  else s

/-- A fall to LOW and one from LOW to CUTOFF with work held and queued; a return from LOW with work held. -/
theorem witness_SupplyStateChanges_work :
    ∀ p ∈ [(Supply.low, supplyBusy .normal { SupplyCounts.zero with belowLow := 100 } [] true),
        (.cutoff, supplyBusy .low { SupplyCounts.zero with belowCutoff := 100 } [.supplyLow] true),
        (.normal, supplyBusy .low { SupplyCounts.zero with clearOfLow := 100 } [.supplyLow] false)],
      Steady p.2 ∧ p.2.wgd.state = .armed ∧ supplyNext p.2.sgu.supply p.2.sgu.counts = some p.1 ∧
      (∀ u ∈ allUnits, (p.2.unit u).state ≠ .idle → (p.2.unit u).origin = some .user ∧
        ((∃ e ∈ p.2.sgu.queue, e.unit = u) ∨ ∃ g ∈ p.2.sgu.grants, g.unit = u)) ∧
      (∀ e ∈ p.2.sgu.queue, e.cls = .user ∧ (p.2.unit e.unit).state ≠ .idle) ∧ (p.1 = .normal → p.2.sgu.queue = []) ∧
      (p.2.sgu.grants.map GEntry.unit ++ p.2.sgu.queue.map QEntry.unit).Nodup ∧
      ∀ k ∈ [FaultKind.supplyLow, .supplyHigh, .supplyCutoff],
        (p.2.flt.entries.filter fun e => decide (e.kind = k ∧ e.subject = .coach)).length ≤ 1 := by
  intro p h
  exact ⟨steady_of (by revert p; decide +kernel), by revert p; decide +kernel, by revert p; decide +kernel,
    by revert p; decide +kernel, by revert p; decide +kernel, by revert p; decide +kernel, by revert p; decide +kernel,
    by revert p; decide +kernel⟩

/-- A complete block with these accumulators. -/
def block (x y : Nat) : State := { base with atu := { base.atu with accX := x, accY := y, blockCount := 16 } }

/-- The averages 48 and 4048 are in the band. -/
theorem witness_ValidSampleUpdatesAttitude : let s := block 768 64775
    Quiet s ∧ 16 ≤ s.atu.blockCount ∧ s.atu.capture = none ∧ s.lvs.seq.state = .idle ∧ s.atu.record.state ≠ .invalid ∧
      (s.atu.accX + 8) / 16 = 48 ∧ (s.atu.accY + 8) / 16 = 4048 :=
  ⟨quiet_of (by decide +kernel), by decide +kernel⟩

/-- A capture with 3 or 31 samples in a range, or with the block to be skipped. -/
def capturing (samples hi : Nat) (skip : Bool) : State := let s := block 32768 32768
  { s with atu := { s.atu with capture := some { samples := samples, sumX := 2048 * samples, sumY := 2048 * samples
                                                 rangeX := some (2048, hi), rangeY := some (2048, 2048), skip := skip } } }

/-- The skipped block, the fourth sample, and the 32nd with spreads of 8 and of 9 codes. -/
theorem witness_ValidSampleUpdatesAttitude_capture :
    ∀ p ∈ [(3, 2050, true), (3, 2050, false), (31, 2056, false), (31, 2057, false)],
      let s := capturing p.1 p.2.1 p.2.2
      Quiet s ∧ 16 ≤ s.atu.blockCount ∧ s.lvs.seq.state = .idle ∧ s.atu.record.state ≠ .invalid ∧
        (s.atu.accX + 8) / 16 = 2048 ∧ (s.atu.accY + 8) / 16 = 2048 ∧ s.atu.capture.map Capture.skip = some p.2.2 ∧
        s.atu.capture.map Capture.samples = some p.1 ∧ (s.atu.capture.bind Capture.rangeX) = some (2048, p.2.1) := by
  intro p h
  exact ⟨quiet_of (by revert p; decide +kernel), by revert p; decide +kernel⟩

/-- SETTLING since frame 900 with seven samples taken, both histories seven values long, and a block that makes both corrected
values 0 or pitch 120 and roll −30; the corner jacks stand at a position. -/
def checking (level : Bool) (position : Int) (q : LvSeq) : State :=
  let s := levelling .settling 900 []
  let s := s.mapChans fun x => if x.isJack then { x with position := position } else x
  { s with
    lvs := { s.lvs with seq := q }
    atu := { s.atu with
      accX := if level then 32768 else 35328, accY := if level then 32768 else 32128, blockCount := 16
      record := { s.atu.record with
        state := .settled, histP := List.replicate 7 (if level then 0 else 120), histR := List.replicate 7 (if level then 0 else -30) } } }

/-- A sequence in SETTLING with seven samples, some passes and one check before. -/
def settling (option : Bool) (passes misses : Nat) (prev : Int × Int) : LvSeq := { LvSeq.reset with
  state := .settling, phaseStart := some 900, option := option, samples := 7, passes := passes, misses := misses
  prev := some prev, plan := some (List.replicate 4
    { before := 600, height := 0, lift := 0, counts := 0, target := none, clamped := false }) }

/-- Both histories are steady with the sample, and the response check has what it takes. -/
def checkTest (s : State) : Bool :=
  let p := clampTilt (tilt ((s.atu.accX + 8) / 16) s.par.tiltOffsetX s.par.tiltGainX)
  let r := clampTilt (tilt ((s.atu.accY + 8) / 16) s.par.tiltOffsetY s.par.tiltGainY)
  let steady := fun h : List Int => decide (h.length = 8 ∧ ∀ a ∈ h, ∀ b ∈ h, a - b ≤ s.par.settleBand)
  decide (s.running && stillTest s && parkedTest s) && decide (16 ≤ s.atu.blockCount ∧ s.atu.capture = none ∧
    s.atu.record.state = .settled ∧ 7 ≤ s.lvs.seq.samples) && steady (s.atu.record.histP ++ [p]) &&
    steady (s.atu.record.histR ++ [r]) && decide (1000 ≤ s.spreadX ∧ 1000 ≤ s.spreadY ∧ ∀ c ∈ cornerChans, 1 ≤ s.c10 c)

/-- Six samples; then with seven: within tolerance without and with support jacks to drive, the passes used up, a plan, no jack to
drive, a second pass that disagrees, a first that does. -/
theorem witness_ValidSampleUpdatesAttitude_check :
    let six := checking true 600 { settling false 0 0 (0, 0) with samples := 6 }
    let level := checking true 600 (settling false 0 0 (0, 0))
    let support := checking true 600 (settling true 0 0 (0, 0))
    let used := checking false 600 (settling false base.par.levelMaxPasses 0 (120, -30))
    let plan := checking false 600 (settling false 0 0 (0, 0))
    let top := checking false 1100 (settling false 0 0 (0, 0))
    let failed := checking true 600 (settling false 1 1 (1500, 0))
    let missed := checking true 600 (settling false 1 0 (1500, 0))
    (∀ s ∈ [six, level, support, used, plan, top, failed, missed], s.Levelling .settling 900) ∧
    (∀ s ∈ [level, support, used, plan, top, failed, missed], checkTest s = true) ∧
    ¬7 ≤ six.lvs.seq.samples ∧
    (∀ s ∈ [level, support], clampTilt (tilt ((s.atu.accX + 8) / 16) s.par.tiltOffsetX s.par.tiltGainX) = 0) ∧
    (support.populated 4 = true ∧ ∀ c ∈ supportChans, (support.chan c).state = .idle ∧ (support.chan c).motion = none ∧
      (support.chan c).pressure < min 255 ((support.jackPar c).contactThreshold + (support.jackPar c).supportMargin)) ∧
    (used.lvs.seq.passes = used.par.levelMaxPasses ∧ used.disagrees 120 (-30) = false ∧ ¬(120 : Int).natAbs ≤ used.par.levelTolerance) ∧
    (plan.lvs.seq.passes < plan.par.levelMaxPasses ∧ ¬(120 : Int).natAbs ≤ plan.par.levelTolerance ∧
      (∀ c ∈ cornerChans, (plan.chan c).state = .idle ∧ (plan.chan c).motion = none) ∧
      (plan.passPlan 120 (-30)).any (fun e => e.target.isSome) = true) ∧
    (top.passPlan 120 (-30)).any (fun e => e.target.isSome) = false ∧
    failed.disagrees 0 0 = true ∧ missed.disagrees 0 0 = true := by
  refine ⟨fun s h => levelling_of (by revert s; decide +kernel) (by revert s; decide +kernel), by decide +kernel, by decide +kernel,
    by decide +kernel, by decide +kernel, by decide +kernel, by decide +kernel, by decide +kernel, by decide +kernel,
    by decide +kernel⟩

/-- A block on a record that is INVALID, with TILT_RANGE listed as present. -/
def blockInvalid (x : Nat) : State := let s := block x 32768
  { s with atu := { s.atu with record := { s.atu.record with state := .invalid } }, flt := (Flt.reset.raise .tiltRange .coach 9).1 }

/-- The average 47 is not valid, on a record that is not INVALID and on one that is; the average 48 is. -/
theorem witness_InvalidSampleRaisesTiltRange :
    let valid := fun s : State => 48 ≤ (s.atu.accX + 8) / 16 ∧ (s.atu.accX + 8) / 16 ≤ 4048 ∧ 48 ≤ (s.atu.accY + 8) / 16 ∧
      (s.atu.accY + 8) / 16 ≤ 4048
    (let s := block 759 32768;
      Resting s ∧ 16 ≤ s.atu.blockCount ∧ s.atu.capture = none ∧ s.atu.record.state ≠ .invalid ∧ ¬valid s) ∧
    ∀ a ∈ [759, 760], let s := blockInvalid a
      s.RestingBut .tiltRange .coach ∧ 16 ≤ s.atu.blockCount ∧ s.atu.capture = none ∧ s.atu.record.state = .invalid ∧
        (valid s ↔ a = 760) ∧ s.atu.record.histP = [] ∧ s.atu.record.histR = [] ∧ s.flt.entries ≠ [] := by
  refine ⟨⟨resting_of (by decide +kernel), by decide +kernel⟩, fun a h => ?_⟩
  exact ⟨restingBut_of (by revert a; decide +kernel) (by revert a; decide +kernel), by revert a; decide +kernel⟩

/-! ## Witnesses: ends of work and timers -/

/-- Room 1 works for the user. -/
def userRoom : State := working base (.room 1) .user .extend [8]

theorem witness_WorkEndsWhole : (userRoom.unit (.room 1)).state ≠ .idle ∧ 8 ∈ unitSlots (.room 1) ∧
    (userRoom.chan 8).motion ≠ none ∧ (userRoom.chan 8).state ≠ .disabled := by decide +kernel

/-- A deadline is due from its frame on. -/
def due (s : State) (d : Option FrameNo) : Prop := ∃ f, d = some f ∧ (s.frame - f).toNat < 2147483648

/-- Room 1 with its record's deadline at a frame. -/
def attended (f : FrameNo) : State :=
  let s := userRoom
  s.setChan 8 { s.chan 8 with motion := some { s.newMotion 8 .extend .user (some f) with attended := true } }

/-- The record that falls due at frame 1000. -/
def dueMotion : Motion := { userRoom.newMotion 8 .extend .user (some 1000) with attended := true }

/-- Room 1 waits with an entry due now. -/
def waitingRoom (arrival : FrameNo) : State :=
  let s := base.setUnit (.room 1) { state := .waiting, origin := some .user, cls := some .user, claim := some 25, pending :=
    [⟨8, .extend, .toEnd, some 1000⟩] }
  { s with sgu := { s.sgu with queue := [⟨.room 1, .user, 25, arrival⟩] } }

/-- A record due at this frame, an entry due at this frame, and a record due one frame later. -/
theorem witness_AttendanceReleasesTheUnit :
    (Steady (attended 1000) ∧ (attended 1000).frameOver = true ∧ ((attended 1000).unit (.room 1)).state ≠ .idle ∧
      ((attended 1000).unit (.room 1)).origin = some .user ∧ (∀ e ∈ (attended 1000).sgu.queue, e.unit = .room 1)) ∧
    (∃ c ∈ (attended 1000).unitChans (.room 1), ∃ m, ((attended 1000).chan c).motion = some m ∧ m.attended = true ∧
      due (attended 1000) m.deadline) ∧
    (Steady (waitingRoom 900) ∧ (waitingRoom 900).frameOver = true ∧ ((waitingRoom 900).unit (.room 1)).state ≠ .idle ∧
      ((waitingRoom 900).unit (.room 1)).origin = some .user ∧ (∀ e ∈ (waitingRoom 900).sgu.queue, e.unit = .room 1)) ∧
    (∃ p ∈ ((waitingRoom 900).unit (.room 1)).pending, due (waitingRoom 900) p.deadline) ∧
    (Steady (attended 1001) ∧ (attended 1001).frameOver = true ∧ ((attended 1001).unit (.room 1)).state ≠ .idle ∧
      ((attended 1001).unit (.room 1)).origin = some .user) ∧
    ¬((∃ p ∈ ((attended 1001).unit (.room 1)).pending, due (attended 1001) p.deadline) ∨
      ∃ c ∈ (attended 1001).unitChans (.room 1), ∃ m, ((attended 1001).chan c).motion = some m ∧ m.attended = true ∧
        due (attended 1001) m.deadline) := by
  refine ⟨⟨steady_of (by decide +kernel), by decide +kernel⟩,
    ⟨8, by decide +kernel, dueMotion, by decide +kernel, rfl, 1000, rfl, by decide +kernel⟩,
    ⟨steady_of (by decide +kernel), by decide +kernel⟩,
    ⟨_, (by decide +kernel : (⟨8, .extend, .toEnd, some 1000⟩ : Pending) ∈ ((waitingRoom 900).unit (.room 1)).pending), 1000, rfl,
      by decide +kernel⟩,
    ⟨steady_of (by decide +kernel), by decide +kernel⟩, ?_⟩
  have h1 : ((attended 1001).unit (.room 1)).pending = [] := by decide +kernel
  have h2 : ∀ c ∈ (attended 1001).unitChans (.room 1),
      ((attended 1001).chan c).motion.bind Motion.deadline = some 1001 := by decide +kernel
  have h3 : ¬((attended 1001).frame - 1001).toNat < 2147483648 := by decide +kernel
  rintro (⟨p, hp, -⟩ | ⟨c, hc, m, hm, -, f, hf, hd⟩)
  · rw [h1] at hp; exact absurd hp (List.not_mem_nil)
  · have := h2 c hc
    rw [hm] at this
    exact h3 ((Option.some.inj (hf.symm.trans this)) ▸ hd)

/-- Two jacks move for the user, or one; the first is due. -/
def jacking (l : List (Fin 16)) : State :=
  let s := working base .jacks .user .extend l
  s.setChan 0 { s.chan 0 with motion := some (s.newMotion 0 .extend .user (some 1000)) }

theorem witness_AttendanceReleasesAJack :
    let hyp := fun s : State => s.frameOver = true ∧ (s.unit .jacks).state = .active ∧ (s.unit .jacks).origin = some .user ∧
      (s.unit .jacks).pending = [] ∧ 0 ∈ s.unitChans .jacks ∧
      (s.chan 0).motion = some (base.newMotion 0 .extend .user (some 1000)) ∧ reached s.frame 1000 = true
    Steady (jacking [0, 1]) ∧ Steady (jacking [0]) ∧ hyp (jacking [0, 1]) ∧ hyp (jacking [0]) ∧
      (∀ d ∈ (jacking [0, 1]).unitChans .jacks, d ≠ 0 → ∀ k, ((jacking [0, 1]).chan d).motion = some k →
        ∃ g, k.deadline = some g ∧ reached (jacking [0, 1]).frame g = false) ∧
      (∃ d ∈ (jacking [0, 1]).unitChans .jacks, d ≠ 0 ∧ ((jacking [0, 1]).chan d).motion ≠ none) ∧
      (∀ d ∈ (jacking [0]).unitChans .jacks, d ≠ 0 → ((jacking [0]).chan d).motion = none) ∧
      ∀ e ∈ (jacking [0]).sgu.queue, e.unit = .jacks := by
  intro hyp
  refine ⟨steady_of (by decide +kernel), steady_of (by decide +kernel), by decide +kernel, by decide +kernel, ?_,
    by decide +kernel, by decide +kernel, by decide +kernel⟩
  have h : ∀ d ∈ (jacking [0, 1]).unitChans .jacks, d ≠ 0 → ((jacking [0, 1]).chan d).motion = none ∨
      ((jacking [0, 1]).chan d).motion.bind Motion.deadline = some 1060 := by decide +kernel
  intro d hd h0 k hk
  rcases h d hd h0 with e | e
  · rw [hk] at e; cases e
  · rw [hk] at e; exact ⟨1060, e, by decide +kernel⟩

/-- Jack 0 extends for the user at 600 counts to a target or the end, of a stroke of 1100, as the intake of node 0 comes in. -/
def reaching (goal : Target) (count : BitVec 16) (l : List (Fin 16)) : State :=
  let s := jacking (0 :: l)
  (s.modChan 0 fun x => { x with motion := x.motion.map fun m => { m with target := goal } }).modNode 0 fun x =>
    { x with outA := { x.outA with lastCount := some count } }

/-- A target not reached and one reached, the stroke reached with the target far, with another jack under way and alone. -/
theorem witness_AttendanceReleasesAJack_reach :
    ∀ p ∈ [((Target.at 611 : Target), (290 : BitVec 16), false), (.at 610, 290, true), (.toEnd, 65336, true)], ∀ l ∈ [[], [(2 : Fin 16)]],
      let s := reaching p.1 p.2.1 l
      let x := s.intakeChan 0 300 8 0
      Steady s ∧ (s.lvs.seq.state = .idle ∧ (s.node 0).state = .ready ∧
      statusOf 0 (carry 0 (report .normal 300 8 0 0 0)) = some (report .normal 300 8 0 0 0) ∧
      chanA 0 ∈ s.unitChans .jacks ∧ chanB 0 ∈ s.unitChans .jacks ∧ (s.unit .jacks).state = .active ∧
      (s.unit .jacks).origin = some .user ∧ (s.unit .jacks).pending = [] ∧ (s.chan 0).kind = .jack ∧ (s.chan 0).known = true ∧ (s.chan 1).motion = none ∧
      (s.outRec 0).lastCount ≠ none ∧ s.sgu.queue = [] ∧
      ((s.chan 0).motion.map fun m => (m.origin, m.dir, m.target)) = some (.user, .extend, p.1) ∧
      (p.2.2 = true ↔ (match p.1 with | .at k => decide (k ≤ x.position) | .toEnd => false) = true ∨
        ((s.jackPar 0).stroke : Int) ≤ x.position) ∧
      ((∃ d ∈ s.unitChans .jacks, d ≠ 0 ∧ (s.chan d).motion ≠ none) ↔ l ≠ [])) ∧
      PlainReport s (chanA 0) .normal 0 ∧ PlainReport s (chanB 0) .normal 0 := by
  intro p h l k
  exact ⟨steady_of (by revert p l; decide +kernel), by revert p l; decide +kernel, plain_of (by revert p l; decide +kernel),
    plain_of (by revert p l; decide +kernel)⟩

/-- An entry that has waited 2000 frames, and one that has waited 1999. -/
theorem witness_WaitingEntryIsRevoked :
    (Steady (waitingRoom 4294966296) ∧ (waitingRoom 4294966296).sgu.queue = [⟨.room 1, .user, 25, 4294966296⟩] ∧
      2000 ≤ ((waitingRoom 4294966296).frame - 4294966296).toNat) ∧
    (Steady (waitingRoom 4294966297) ∧ (waitingRoom 4294966297).sgu.queue = [⟨.room 1, .user, 25, 4294966297⟩] ∧
      ((waitingRoom 4294966297).frame - 4294966297).toNat < 2000) ∧
    ∀ b : Bool, let s := waitingRoom (if b then 4294966296 else 4294966297)
      s.frameOver = true ∧ (s.unit (.room 1)).state = .waiting ∧ (s.unit (.room 1)).origin = some .user :=
  ⟨⟨steady_of (by decide +kernel), by decide +kernel⟩, ⟨steady_of (by decide +kernel), by decide +kernel⟩,
    by decide +kernel⟩

/-- Overdraw at 200 with two USER grants, and with a STOW grant alone. -/
def overdrawn (l : List GEntry) : State :=
  { userRoom with sgu := { userRoom.sgu with overdraw := 200, grants := l } }

theorem witness_OverdrawRevokesTheYoungest :
    let g : GEntry := ⟨.room 1, .user, 25, 7⟩
    let s := overdrawn [⟨.room 0, .user, 50, 3⟩, g, ⟨.awning, .stow, 12, 9⟩]
    let t := overdrawn [⟨.awning, .stow, 12, 9⟩]
    (Steady s ∧ Steady t) ∧ s.frameOver = true ∧ t.frameOver = true ∧ s.sgu.queue = [] ∧ 200 ≤ s.sgu.overdraw ∧ g ∈ s.sgu.grants ∧ g.cls = .user ∧
      (∀ e ∈ s.sgu.grants, e.cls = .user → e ≠ g → e.order < g.order) ∧ (s.unit g.unit).state ≠ .idle ∧
      (s.unit g.unit).origin = some .user ∧ t.sgu.queue = [] ∧ 200 ≤ t.sgu.overdraw ∧
      ∀ e ∈ t.sgu.grants, e.cls ≠ .user ∧ e.cls ≠ .level :=
  ⟨⟨steady_of (by decide +kernel), steady_of (by decide +kernel)⟩, by decide +kernel⟩

/-- Layout code 5 has no awning, and node 7 is ABSENT. Room 0's window has run some frames, its ends are some counts apart. -/
def rackFrame (start : FrameNo) (skew : Int) : State :=
  let s := baseOn 5
  finish ((s.setRoom 0 { s.room 0 with window := some start }).modChan 6 fun x => { x with position := 600 + skew })

/-- A window at its 32nd frame, with the ends beyond the limit and within it; one at its 33rd; a room that is not twin. -/
theorem witness_RackWindowIsJudged_frame : ∀ p ∈ [((968 : FrameNo), (400 : Int)), (968, 0), (967, 400)],
    Quiet (rackFrame p.1 p.2) ∧ ((rackFrame p.1 p.2).node 7).state = .absent ∧ ((rackFrame p.1 p.2).room 0).type = .twin ∧
      ((rackFrame p.1 p.2).room 0).window = some p.1 ∧ ((rackFrame p.1 p.2).room 1).type ≠ .twin ∧
      ((1 ≤ ((rackFrame p.1 p.2).frame - p.1).toNat ∧ ((rackFrame p.1 p.2).frame - p.1).toNat ≤ 32) ↔ p.1 = 968) ∧
      (((rackFrame p.1 p.2).roomPar 0).rackLimit <
        (((rackFrame p.1 p.2).chan 6).position - ((rackFrame p.1 p.2).chan 7).position).natAbs ↔ p.2 = 400) := by
  intro p h
  exact ⟨quiet_of (by revert p; decide +kernel), by revert p; decide +kernel⟩

/-- The same frame end is one of the overdraw count. -/
theorem witness_OverdrawRevokesTheYoungest_frame : Quiet (rackFrame 968 0) ∧ ((rackFrame 968 0).node 7).state = .absent :=
  ⟨quiet_of (by decide +kernel), by decide +kernel⟩

/-- Twin room 0 works for the user; its window has run 32 frames with a count. -/
def racked (n : Nat) : State :=
  let s := working base (.room 0) .user .extend [6, 7]
  s.setRoom 0 { s.room 0 with window := some 968, overLimit := n }

theorem witness_RackWindowIsJudged : ∀ n ∈ [16, 17], Steady (racked n) ∧ (racked n).frameOver = true ∧ ((racked n).room 0).type = .twin ∧
    ((racked n).room 0).window = some 968 ∧ 32 ≤ ((racked n).frame - 968).toNat ∧ ((racked n).room 0).overLimit = n ∧
    ((racked n).unit (.room 0)).state ≠ .idle ∧ ((racked n).unit (.room 0)).origin = some .user ∧
    ∀ e ∈ (racked n).sgu.queue, e.unit = .room 0 := by
  intro n hn
  refine ⟨steady_of (by revert n; decide +kernel), by revert n; decide +kernel⟩

theorem witness_EndWaitFails : let s := (racked 0).setRoom 0 { (racked 0).room 0 with endWait := some 1000 }
    Steady s ∧ s.frameOver = true ∧ (s.room 0).endWait = some 1000 ∧ (s.frame - 1000).toNat < 2147483648 ∧
      (∃ c ∈ s.unitChans (.room 0), ∃ m, (s.chan c).motion = some m ∧ m.arrived = false) ∧
      (s.unit (.room 0)).state ≠ .idle ∧ (s.unit (.room 0)).origin = some .user ∧
      ∀ e ∈ s.sgu.queue, e.unit = .room 0 :=
  ⟨steady_of (by decide +kernel), by decide +kernel, by decide +kernel, by decide +kernel,
    ⟨6, by decide +kernel, base.newMotion 6 .extend .user (some 1060), by decide +kernel, rfl⟩, by decide +kernel⟩

/-- Twin room 0 retracts within its grace period; the front end's switch has been seen once, and the rear end may have arrived. -/
def arriving (rear : Bool) : State :=
  let s := working base (.room 0) .user .retract [6, 7]
  let m := { s.newMotion 7 .retract .user (some 1060) with arrived := rear }
  (s.modChan 7 fun x => { x with motion := some m }).modNode 3 fun x => { x with outA := { x.outA with candidate := some .limitRet } }

theorem witness_EndWaitFails_arrival : ∀ rear : Bool, let s := arriving rear
    let f := report .limitRet 300 8 0 0 0
    Steady s ∧ (s.lvs.seq.state = .idle ∧ (3 : Fin 8).val = (0 : Fin 4).val + 3 ∧ (s.node 3).state = .ready ∧
      statusOf 3 (carry 3 f) = some f ∧ (s.room 0).type = .twin ∧ s.unitChans (.room 0) = [roomFront 0, roomRear 0] ∧
      (s.chan (roomFront 0)).isMotor = true ∧ (s.chan (roomRear 0)).isMotor = true ∧ (s.unit (.room 0)).state ≠ .idle ∧
      (s.unit (.room 0)).origin = some .user ∧ s.sgu.queue = [] ∧
      (s.chan (roomFront 0)).motion = some (s.newMotion 6 .retract .user (some 1060)) ∧
      (s.chan (roomRear 0)).motion = some { s.newMotion 7 .retract .user (some 1060) with arrived := rear } ∧
      reached s.frame (s.frame + 100) = false ∧ (s.chan (roomFront 0)).cond = .normal ∧
      (s.outRec (roomFront 0)).candidate = some .limitRet) ∧ PlainReport s (roomRear 0) .normal 0 := by
  intro rear
  exact ⟨steady_of (by revert rear; decide +kernel), by revert rear; decide +kernel, plain_of (by revert rear; decide +kernel)⟩

theorem witness_LevelTimeLimitsFail :
    let a := levelling .contact 4294964296 [0, 1]
    let b := levelling .settling 4294966296 []
    let c := levelling .lifting 4294962296 [2]
    let d := levelling .support 4294964296 [4]
    (a.Levelling .contact 4294964296 ∧ b.Levelling .settling 4294966296 ∧ c.Levelling .lifting 4294962296 ∧
      d.Levelling .support 4294964296) ∧
    (∀ s ∈ [a, b, c, d], s.frameOver = true) ∧ 4000 ≤ (a.frame - 4294964296).toNat ∧ (∃ j ∈ cornerChans, (a.chan j).latch = false) ∧
    (∀ j ∈ cornerChans, a.populated j = true) ∧ 2000 ≤ (b.frame - 4294966296).toNat ∧
    6000 ≤ (c.frame - 4294962296).toNat ∧ (cornerChans.filter fun j => (c.chan j).movesFor .level) ≠ [] ∧
    (∀ j ∈ cornerChans, c.populated j = true) ∧ 4000 ≤ (d.frame - 4294964296).toNat ∧
    (supportChans.filter fun j => (d.chan j).movesFor .level) ≠ [] ∧ ∀ j ∈ supportChans, d.populated j = true :=
  ⟨⟨levelling_of (by decide +kernel) (by decide +kernel), levelling_of (by decide +kernel) (by decide +kernel),
    levelling_of (by decide +kernel) (by decide +kernel), levelling_of (by decide +kernel) (by decide +kernel)⟩,
    by decide +kernel⟩

/-- One frame short of each limit. -/
theorem witness_LevelTimeLimitsFail_short :
    ∀ p ∈ [(LvState.contact, (4294964297 : FrameNo), 4000), (.settling, 4294966297, 2000), (.lifting, 4294962297, 6000),
        (.support, 4294964297, 4000)],
      (levelling p.1 p.2.1 [0, 4]).Levelling p.1 p.2.1 ∧ ((levelling p.1 p.2.1 [0, 4]).frame - p.2.1).toNat < p.2.2 := by
  intro p h
  exact ⟨levelling_of (by revert p; decide +kernel) (by revert p; decide +kernel), by revert p; decide +kernel⟩

/-- A jack of output A moves in a phase at 600 counts; the other jacks listed move too, and the others' latches are set. -/
def phased (st : LvState) (c : Fin 16) (goal : Target) (l : List (Fin 16)) : State :=
  let s := levelling st 990 (c :: l)
  let s := s.mapChans fun x => if x.isJack then { x with latch := true } else x
  let s := s.modChan c fun x => { x with latch := decide (st ≠ .contact), motion := x.motion.map fun m => { m with target := goal } }
  { s with
    flt := if st = LvState.contact then (Flt.reset.raise .groundLost (.chan c) 9).1 else .reset
    lvs := { s.lvs with seq := { s.lvs.seq with pending := some .level, prev := some (3, 4) } } }.modNode (nodeOf c) fun x =>
    { x with outA := { x.outA with lastCount := some 290 } }

/-- What an intake into a phase takes, of output A at a pressure. -/
def phaseTest (s : State) (c : Fin 16) (n : Fin 8) (p : Nat) : Bool :=
  let f := { report .normal 300 8 p 0 0 with pressureB := 20 }
  decide ((s.node n).state = .ready ∧ statusOf n (carry n f) = some f ∧ chanA n = c ∧ s.populated c = true ∧
    s.populated (chanB n) = true ∧ (s.chan c).kind = .jack ∧ (s.chan c).cond = .normal ∧ (s.chan (chanB n)).motion = none ∧
    ((s.chan c).motion.map fun m => (m.dir, m.origin)) = some (.extend, .level) ∧ (s.outRec c).lastCount ≠ none ∧
    (s.intakeChan c 300 8 p).position < (s.jackPar c).stroke) && plainTest s (chanB n) .normal 20

/-- CONTACT under and at the threshold, LIFTING under and at its target, SUPPORT under and at its level, each with and without
another jack under way. -/
theorem witness_AttendanceReleasesAJack_phase : ∀ l ∈ [[], [(2 : Fin 16)]],
    (∀ p ∈ [11, 12], let s := phased .contact 0 .toEnd l
      s.Levelling .contact 990 ∧ phaseTest s 0 0 p = true ∧ (s.chan 0).latch = false ∧ 
        (s.flt.entries.filter fun e => decide (e.kind = .groundLost ∧ e.subject = .chan 0)).length = 1 ∧
        (p < (s.jackPar 0).contactThreshold ↔ p = 11) ∧
        ((∀ d ∈ cornerChans, d ≠ 0 → (s.chan d).latch = true ∧ (s.chan d).motion = none) ↔ l = [])) ∧
    (∀ k ∈ [610, 611], let s := phased .lifting 0 (.at k) l
      s.Levelling .lifting 990 ∧ phaseTest s 0 0 9 = true ∧ PlainReport s 0 .normal 9 ∧ (s.chan 0).known = true ∧
        (k ≤ (s.intakeChan 0 300 8 9).position ↔ k = 610) ∧
        ((∀ d ∈ cornerChans, d ≠ 0 → (s.chan d).motion = none) ↔ l = [])) := by
  intro l h
  refine ⟨fun p hp => ?_, fun k hk => ?_⟩
  · exact ⟨levelling_of (by revert l; decide +kernel) (by revert l; decide +kernel), by revert l p; decide +kernel,
      by revert l; decide +kernel, by revert l; decide +kernel, by revert l p; decide +kernel,
      by revert l; decide +kernel⟩
  · exact ⟨levelling_of (by revert l k; decide +kernel) (by revert l k; decide +kernel), by revert l k; decide +kernel,
      plain_of (by revert l k; decide +kernel), by revert l k; decide +kernel, by revert l k; decide +kernel, by revert l k; decide +kernel⟩

theorem witness_AttendanceReleasesAJack_support : ∀ p ∈ [26, 27], let s := phased .support 4 .toEnd []
    s.Levelling .support 990 ∧ phaseTest s 4 2 p = true ∧ PlainReport s 4 .normal p ∧ 4 ∈ supportChans ∧
      (min 255 ((s.jackPar 4).contactThreshold + (s.jackPar 4).supportMargin) ≤ p ↔ p = 27) ∧
      (∀ d ∈ jackChans, d ≠ 4 → (s.chan d).motion = none ∧ (s.chan d).state ≠ .waiting) ∧ s.lvs.seq.pending = some .level ∧
      s.lvs.seq.prev = some (3, 4) := by
  intro p h
  exact ⟨levelling_of (by decide +kernel) (by decide +kernel), by revert p; decide +kernel, plain_of (by revert p; decide +kernel),
    by decide +kernel, by revert p; decide +kernel, by decide +kernel, by decide +kernel, by decide +kernel⟩

/-- The AWNING step of a stow has waited for the awning since a frame. -/
def stowing (f : FrameNo) : State :=
  let s := working base .awning .stow .retract [14]
  { s with ciu := { s.ciu with stow :=
    { state := .awning, trigger := some .request, stepStart := some f, awaited := [.awning] } } }

/-- A step at its time and one frame before it. -/
theorem witness_StowStepTimesOut : ∀ b : Bool, let f : FrameNo := 1000 - BitVec.ofNat 32 (base.par.stowStepTime / 5) + (if b then 0 else 1)
    let s := stowing f
    Steady s ∧ s.frameOver = true ∧ s.sgu.queue = [] ∧ s.wgd.retract ≠ .covered ∧ s.ciu.stow.state ≠ .idle ∧
      s.ciu.stow.stepStart = some f ∧ (s.par.stowStepTime / 5 ≤ (s.frame - f).toNat ↔ b = true) ∧
      (s.unit .awning).origin = some .stow ∧ (s.unit .awning).state ≠ .idle := by
  intro b
  cases b <;> exact ⟨steady_of (by decide +kernel), by decide +kernel⟩

/-! ## Witnesses: inputs, wind, link silence and the store -/

theorem newLevel_of {x : Input} {l : Bool} (h : decide ((x.sampled l).run = 4 ∧ x.accepted ≠ some l) = true) :
    x.newLevel l := by rw [decide_eq_true_eq] at h; exact h

/-- An input that has held a level for three samples. -/
def held (accepted : Option Bool) (level : Bool) : Input := { accepted := accepted, last := level, run := 3, changed := false }

def withIgn (x : Input) : State := finish { base with ciu := { base.ciu with ign := x } }

/-- IGN at its third and fourth sample, without and with an accepted level. -/
theorem witness_InputIsFiltered : (Quiet base ∧ ∀ i, ¬(base.input i).newLevel true) ∧
    (∀ a, Quiet (withIgn (held a true)) ∧ (withIgn (held a true)).par.autoStow = false) ∧
    (∀ a, a ≠ some true → (withIgn (held a true)).ciu.ign.newLevel true) := by
  refine ⟨⟨base_meets.1, fun i h => ?_⟩, fun a => ?_, fun a => ?_⟩
  · exact absurd h.1 (by cases i <;> decide +kernel)
  · rcases a with _ | _ | _ <;> exact ⟨quiet_of (by decide +kernel), by decide +kernel⟩
  · rcases a with _ | _ | _ <;> intro h <;> first | exact newLevel_of (by decide +kernel) | exact absurd rfl h

/-- Every channel home. -/
def home : State := base.mapChans fun x => if x.kind = .none then x else { x with position := 0, cond := .limitRet }

/-- IGN comes on with auto-stow on, PARK and a supply state as given. -/
def igniting (h : State) (park : Bool) (supply : Supply) : State :=
  { h with
    ciu := { h.ciu with ign := held (some false) true, park := { h.ciu.park with accepted := some park } }
    sgu := { h.sgu with supply := supply }
    sst := { h.sst with
      phase := if park then .run else .discover
      params := { h.sst.params with coach := { h.sst.params.coach with autoStow := true } } } }

/-- Not able to; in CUTOFF; with every channel home; with the awning out. -/
theorem witness_InputIsFiltered_autoStow :
    (∀ s ∈ [igniting base false .normal, igniting base true .cutoff, igniting home true .normal, igniting base true .low],
      Resting s ∧ s.ciu.ign.newLevel true ∧ s.ciu.ign.accepted = some false ∧ s.par.autoStow = true) ∧
    ¬((igniting base false .normal).ciu.park.accepted = some true ∧ (igniting base false .normal).sst.phase = .run) ∧
    (∀ c, (igniting home true .normal).populated c = true → (igniting home true .normal).rest c = .stowed) ∧
    let s := igniting base true .low
    s.ciu.park.accepted = some true ∧ s.sst.phase = .run ∧ s.populated 14 = true ∧ s.rest 14 ≠ .stowed ∧
      (s.chan 14).state = .idle ∧ (s.chan 14).cond ≠ .limitRet ∧ (s.node 7).state = .ready ∧ (s.motorPar 14).claim ≤ s.sgu.budget := by
  refine ⟨fun s h => ⟨resting_of (by revert s; decide +kernel), newLevel_of (by revert s; decide +kernel),
    by revert s; decide +kernel, by revert s; decide +kernel⟩, by decide +kernel⟩

/-- The engine starts, and stops. -/
theorem witness_EngineSetsTheBudget : ∀ level : Bool,
    let s : State := { base with ciu := { base.ciu with eng := held (some !level) level } }
    Resting s ∧ s.par.pumpNeedsEngine = false ∧ s.ciu.eng.newLevel level ∧ s.ciu.eng.accepted = some !level := by
  intro level
  cases level <;>
    exact ⟨resting_of (by decide +kernel), by decide +kernel, newLevel_of (by decide +kernel), by decide +kernel⟩

/-- The engine stops while three units work under USER grants; budget-battery is 120. -/
def overBudget : State :=
  let s := working base (.room 0) .user .extend [6, 7]
  let s := s.setUnit .awning (s.unit (.room 0))
  let s := s.setUnit (.room 1) (s.unit (.room 0))
  { s with
    ciu := { s.ciu with eng := held (some true) false }
    sgu := { s.sgu with budget := 220, grants := [⟨.room 0, .user, 60, 1⟩, ⟨.awning, .user, 61, 3⟩, ⟨.room 1, .user, 30, 2⟩] } }

/-- The engine stops with pump-needs-engine on. -/
def engineLost (s : State) : State := { s with
  ciu := { s.ciu with eng := held (some true) false }
  sst := { s.sst with params := { s.sst.params with coach := { s.sst.params.coach with pumpNeedsEngine := true } } } }

/-- Jacks 0 and 1 move for the user, and a level sequence lifts jack 2. -/
theorem witness_EngineSetsTheBudget_pump :
    (∀ s ∈ [engineLost (working base .jacks .user .extend [0, 1]), engineLost (levelling .lifting 990 [2])],
      Steady s ∧ s.ciu.eng.newLevel false ∧ s.par.pumpNeedsEngine = true ∧ s.ciu.eng.accepted = some true ∧ s.sgu.queue = [] ∧
      ((s.sgu.grants.filter fun g => decide (g.unit ≠ .jacks)).map GEntry.claim).sum ≤ s.par.budgetBattery) ∧
    ((engineLost (working base .jacks .user .extend [0, 1])).unit .jacks).state ≠ .idle ∧
    ((engineLost (working base .jacks .user .extend [0, 1])).unit .jacks).origin = some .user ∧
    (engineLost (levelling .lifting 990 [2])).Levelling .lifting 990 :=
  ⟨fun s h => ⟨steady_of (by revert s; decide +kernel), newLevel_of (by revert s; decide +kernel), by revert s; decide +kernel⟩,
    by decide +kernel, by decide +kernel, levelling_of (by decide +kernel) (by decide +kernel)⟩

theorem witness_EngineSetsTheBudget_fall : Steady overBudget ∧ overBudget.ciu.eng.newLevel false ∧
    overBudget.par.pumpNeedsEngine = false ∧ overBudget.ciu.eng.accepted = some true ∧ overBudget.sgu.queue = [] ∧
    (∀ g ∈ overBudget.sgu.grants, g.cls = .user ∧ (overBudget.unit g.unit).state ≠ .idle ∧
      (overBudget.unit g.unit).origin = some .user) ∧
    (overBudget.sgu.grants.map GEntry.unit).Nodup ∧ (overBudget.sgu.grants.map GEntry.order).Nodup ∧
    overBudget.par.budgetBattery < overBudget.sgu.budget ∧ overBudget.par.budgetBattery < 60 + 61 + 30 ∧
    ¬overBudget.par.budgetBattery < 60 :=
  ⟨steady_of (by decide +kernel), newLevel_of (by decide +kernel), by decide +kernel⟩

theorem witness_ParkReleaseIsJudged : ∀ b : Bool,
    let h := if b then home else base
    let s : State := { h with ciu := { h.ciu with park := held (some true) false } }
    Resting s ∧ s.sst.phase = .run ∧ s.ciu.park.newLevel false ∧ s.ciu.park.accepted = some true ∧
      ((∀ c, s.populated c = true → s.rest c = .stowed) ↔ b = true) := by
  intro b
  cases b <;> refine ⟨resting_of (by decide +kernel), by decide +kernel, newLevel_of (by decide +kernel), by decide +kernel, ?_⟩ <;>
    decide +kernel

/-- Room 1 extends for the user as PARK is released. -/
theorem witness_ParkReleaseIsJudged_room :
    let s := finish { working base (.room 1) .user .extend [8] with ciu := { base.ciu with park := held (some true) false } }
    Steady s ∧ s.ciu.park.newLevel false ∧ s.sst.phase = .run ∧ s.ciu.park.accepted = some true ∧
      (s.unit (.room 1)).state ≠ .idle ∧ (s.unit (.room 1)).origin = some .user ∧ s.sgu.queue = [] ∧ 8 ∈ s.unitChans (.room 1) ∧
      (s.chan 8).motion.map Motion.dir = some .extend ∧ (∀ c, c ∉ unitSlots (.room 1) → (s.chan c).motion = none) ∧
      s.lvs.seq.state = .idle ∧ s.ciu.travel = false ∧ s.populated 8 = true ∧ s.rest 8 ≠ .stowed :=
  ⟨steady_of (by decide +kernel), newLevel_of (by decide +kernel), by decide +kernel⟩

/-- Room 1 extends for the user over corner jacks on the ground, and node 0 reports jack 0 at 7, below 12 less 4. -/
theorem witness_ParkReleaseIsJudged_latch :
    let s := finish (cornerChans.foldl (fun s c => s.modChan c fun x => { x with latch := true }) userRoom)
    let f := { report .normal 300 8 7 0 0 with pressureB := 20 }
    Steady s ∧ PlainReport s (chanB 0) f.condB f.pressureB ∧ (s.node 0).state = .ready ∧ statusOf 0 (carry 0 f) = some f ∧
      s.lvs.seq.state = .idle ∧ s.par.slidesNeedJacks = true ∧ (s.unit (.room 1)).state ≠ .idle ∧
      (s.unit (.room 1)).origin = some .user ∧ s.sgu.queue = [] ∧ 8 ∈ s.unitChans (.room 1) ∧
      (s.chan 8).motion.map Motion.dir = some .extend ∧ (∀ e, e ∉ unitSlots (.room 1) → (s.chan e).motion = none) ∧
      chanA 0 ∈ cornerChans ∧ (s.chan 0).kind = .jack ∧ (s.chan 0).latch = true ∧
      (f.pressureA : Int) < ((s.jackPar 0).contactThreshold : Int) - (s.jackPar 0).contactHysteresis ∧
      f.condA = (s.chan 0).cond ∧ ((s.chan 0).cond = .limitRet → (s.chan 0).known = true) ∧ s.populated 1 = true :=
  ⟨steady_of (by decide +kernel), plain_of (by decide +kernel), by decide +kernel⟩

/-- Jacks 0 and 1 retract for the user with every other channel home, and node 4 reports room 1's end NORMAL for the second time. -/
theorem witness_ParkReleaseIsJudged_roomOut :
    let s := finish ((working (([0, 1] : List (Fin 16)).foldl (fun s c => s.modChan c fun x => { x with position := 600, cond := .normal })
      home) .jacks .user .retract [0, 1]).modNode 4 fun x => { x with outA := { x.outA with candidate := some .normal } })
    let f := report .normal 0 8 0 0 0
    Steady s ∧ nodeOf (roomFront 1) = 4 ∧ (s.node 4).state = .ready ∧ statusOf 4 (carry 4 f) = some f ∧ s.lvs.seq.state = .idle ∧
      (s.unit .jacks).state ≠ .idle ∧ (s.unit .jacks).origin = some .user ∧ s.sgu.queue = [] ∧
      (s.chan 0).motion.map Motion.dir = some .retract ∧ (∀ e, e ∉ jackChans → (s.chan e).motion = none) ∧
      s.roomUsed 1 = true ∧ (s.chan 8).kind = .roomEnd ∧ (s.chan 8).known = true ∧ (s.chan 8).cond = .limitRet ∧
      (s.outRec 8).candidate = some .normal ∧ f.condA = .normal ∧ s.populated (roomRear 1) = false :=
  ⟨steady_of (by decide +kernel), by decide +kernel⟩

/-- The guard with its last edge at 5000 µs, a count, and a calm timer that is due. -/
def windy (factor trips : Nat) (edge : Option Nat) : State := finish { base with
  wgd := { base.wgd with lastEdge := edge, calmStart := some 500, trips := trips }
  sst := { base.sst with params := { base.sst.params with coach := { base.sst.params.coach with windFactor := factor } } } }

/-- A first edge; an edge 1999 µs after the last; edges 2000 µs and 74111 µs after it; calm after 500 frames. -/
theorem witness_EdgesMeasureTheWind :
    let a := windy 6670000 1 none
    let b := windy 100000 1 (some 5000)
    let c := windy 6670000 1 (some 5000)
    (Quiet a ∧ Quiet b ∧ Quiet c) ∧ (∀ s ∈ [a, b, c], s.restartFrame = false) ∧ c.frameOver = true ∧ (a.wgd.state = .armed ∧ b.wgd.state = .armed ∧ c.wgd.state = .armed) ∧
    a.wgd.lastEdge = none ∧ b.wgd.lastEdge = some 5000 ∧ c.wgd.lastEdge = some 5000 ∧ 6999 < 5000 + 2000 ∧ 5000 + 2000 ≤ 7000 ∧
    min 600 (roundDiv b.par.windFactor 2000).toNat = 50 ∧ (50 : Int) < roundDiv (b.par.windTrip * 3) 2 ∧ ¬b.par.windTrip ≤ 50 ∧
    min 600 (roundDiv c.par.windFactor 74111).toNat = 90 ∧ (90 : Int) < roundDiv (c.par.windTrip * 3) 2 ∧ c.par.windTrip ≤ 90 ∧
    c.wgd.trips ≤ 1 ∧ c.wgd.calmStart = some 500 ∧ 500 ≤ (c.frame - 500).toNat ∧ 0 < c.par.windTrip :=
  ⟨⟨quiet_of (by decide +kernel), quiet_of (by decide +kernel), quiet_of (by decide +kernel)⟩, by decide +kernel⟩

/-- A state with the guard at a third measurement of 90 or more. -/
def gusty (s : State) : State := { s with wgd := { s.wgd with lastEdge := some 5000, calmStart := some 990, trips := 2 } }

/-- The edge at a time trips the guard, and its speed. -/
def tripTest (s : State) (time speed : Nat) : Bool :=
  decide (s.restartFrame = false ∧ s.wgd.state = .armed ∧ s.wgd.lastEdge = some 5000 ∧ 5000 + 2000 ≤ time ∧
    min 600 (roundDiv s.par.windFactor (time - 5000)).toNat = speed ∧
    ((s.par.windTrip ≤ speed ∧ 2 ≤ s.wgd.trips) ∨ roundDiv (s.par.windTrip * 3) 2 ≤ (speed : Int)))

/-- A third measurement of 90, and one of 135 at once, with the awning home, out, and on a layout without one. -/
theorem witness_TripBringsTheAwningHome :
    let a := gusty base
    let h := gusty (finish (base.setChan 14 { base.chan 14 with position := 0, cond := .limitRet }))
    let n := gusty (baseOn 5)
    (Resting a ∧ Resting h ∧ Resting n) ∧ (∀ s ∈ [a, h, n], tripTest s (5000 + 74111) 90 = true ∧ tripTest s (5000 + 49407) 135 = true) ∧
      h.rest 14 = .stowed ∧ n.populated 14 = false ∧ a.populated 14 = true ∧ a.rest 14 ≠ .stowed ∧ a.sst.phase = .run ∧
      (a.chan 14).state = .idle ∧ (a.chan 14).cond ≠ .limitRet ∧ (a.node 7).state = .ready ∧ a.sgu.supply ≠ .cutoff ∧
      (a.motorPar 14).claim ≤ a.sgu.budget :=
  ⟨⟨resting_of (by decide +kernel), resting_of (by decide +kernel), resting_of (by decide +kernel)⟩, by decide +kernel⟩

/-- Before RUN; a stow works; a user's retract; node 7 is LOST; a user's extend; a room holds all but 3 of B. -/
def trips (k : Fin 6) : State := gusty (match k with
  | 0 => { base with sst := { base.sst with phase := .discover } }
  | 1 => working base .awning .stow .retract [14]
  | 2 => working base .awning .user .retract [14]
  | 3 => base.modNode 7 fun x => { x with state := .lost }
  | 4 => working base .awning .user .extend [14]
  | 5 =>
    let s := working base (.room 1) .user .extend [8]
    { s with sgu := { s.sgu with grants := [⟨.room 1, .user, s.sgu.budget - 3, 1⟩] } })

theorem witness_TripBringsTheAwningHome_cases :
    (∀ k, Steady (trips k) ∧ tripTest (trips k) (5000 + 74111) 90 = true ∧ (trips k).populated 14 = true ∧
      (trips k).rest 14 ≠ .stowed ∧ (trips k).pli.resetPending = false ∧ (k ≠ 0 → (trips k).sst.phase = .run) ∧
      (trips k).sgu.queue = [] ∧ (trips k).sgu.supply ≠ .cutoff ∧ (trips k).claimOf .awning ≤ (trips k).sgu.budget ∧
      ((trips k).chan 14).lock = none ∧ ((trips k).chan 14).cond ≠ .limitRet ∧
      (k ≠ 3 → ((trips k).chan 14).state ≠ .faulted ∧ ((trips k).chan 14).state ≠ .disabled ∧ ((trips k).node 7).state = .ready)) ∧
    (∀ k ∈ [0, 3], ((trips k).unit .awning).state = .idle ∧ ((trips k).unit .awning).origin = none) ∧
    (trips 0).sst.phase ≠ .run ∧ ((trips 1).unit .awning).state ≠ .idle ∧ ((trips 1).unit .awning).origin = some .stow ∧
    (∀ k ∈ [2, 4], ((trips k).unit .awning).state = .active ∧ ((trips k).unit .awning).origin = some .user ∧
      ∀ g ∈ (trips k).sgu.grants, g.unit = .awning) ∧
    ((trips 2).chan 14).motion.map Motion.dir = some .retract ∧ ((trips 4).chan 14).motion.map Motion.dir = some .extend ∧
    ((trips 3).node 7).state ≠ .ready ∧
    let s := trips 5
    s.unit .awning = .reset ∧ (s.chan 14).state = .idle ∧ (s.chan 14).motion = none ∧
      s.sgu.grants = [⟨.room 1, .user, s.sgu.budget - 3, 1⟩] ∧ (s.unit (.room 1)).state ≠ .idle ∧
      (s.unit (.room 1)).origin = some .user ∧ s.sgu.budget < s.sgu.budget - 3 + s.claimOf .awning :=
  ⟨fun k => ⟨steady_of (by revert k; decide +kernel), by revert k; decide +kernel⟩, by decide +kernel⟩

/-- A user's retract that waits; a user's extend from STOWED; CUTOFF; a budget under the awning's claim. -/
def tripsMore (k : Fin 4) : State := gusty (match k with
  | 0 =>
    let s := base.setUnit .awning { state := .waiting, origin := some .user, cls := some .user, claim := some (base.claimOf .awning), pending :=
      [⟨14, .retract, .toEnd, some 1060⟩] }
    let s := s.modChan 14 fun x => { x with state := .waiting }
    { s with sgu := { s.sgu with queue := [⟨.awning, .user, base.claimOf .awning, 990⟩] } }
  | 1 => working (base.setChan 14 { base.chan 14 with position := 0, cond := .limitRet }) .awning .user .extend [14]
  | 2 => { base with sgu := { base.sgu with supply := .cutoff } }
  | 3 => { base with sgu := { base.sgu with budget := base.claimOf .awning - 1 } })

theorem witness_TripBringsTheAwningHome_more :
    (∀ k, Steady (tripsMore k) ∧ tripTest (tripsMore k) (5000 + 74111) 90 = true ∧ (tripsMore k).populated 14 = true ∧
      (tripsMore k).pli.resetPending = false ∧ (tripsMore k).sst.phase = .run ∧ (k ≠ 1 → (tripsMore k).rest 14 ≠ .stowed) ∧
      ((tripsMore k).chan 14).state ≠ .faulted ∧ ((tripsMore k).chan 14).state ≠ .disabled ∧
      ((tripsMore k).node 7).state = .ready) ∧
    (∀ k ∈ [0, 1], ((tripsMore k).unit .awning).origin = some .user ∧ ((tripsMore k).chan 14).lock = none ∧
      (tripsMore k).sgu.supply ≠ .cutoff ∧ (tripsMore k).claimOf .awning ≤ (tripsMore k).sgu.budget ∧
      (∀ e ∈ (tripsMore k).sgu.queue, e.unit = .awning) ∧ ∀ g ∈ (tripsMore k).sgu.grants, g.unit = .awning) ∧
    ((tripsMore 0).unit .awning).state = .waiting ∧ ((tripsMore 0).chan 14).state = .waiting ∧
    ((tripsMore 0).chan 14).motion = none ∧ ((tripsMore 0).chan 14).cond ≠ .limitRet ∧
    (tripsMore 1).rest 14 = .stowed ∧ ((tripsMore 1).unit .awning).state = .active ∧ (tripsMore 1).ciu.stow.state = .idle ∧
    ((tripsMore 1).chan 14).motion.map Motion.dir = some .extend ∧
    (∀ k ∈ [2, 3], ((tripsMore k).unit .awning).state = .idle ∧ ((tripsMore k).unit .awning).origin = none) ∧
    (tripsMore 2).sgu.supply = .cutoff ∧ (tripsMore 3).sgu.budget < (tripsMore 3).claimOf .awning :=
  ⟨fun k => ⟨steady_of (by revert k; decide +kernel), by revert k; decide +kernel⟩, by decide +kernel⟩

/-- A user's awning extend and, waiting behind it for the whole of B, a retract of room 1. -/
def crowded : State :=
  let s := gusty (working base .awning .user .extend [14])
  let s1 := s.setUnit (.room 1) { state := .waiting, origin := some .user, cls := some .user, claim := some (s.claimOf .awning), pending :=
    [⟨8, .retract, .toEnd, some 1060⟩] }
  { s1 with sgu := { s1.sgu with queue := [⟨.room 1, .user, s.claimOf .awning, 990⟩], budget := s.claimOf .awning } }

def crowdedTest : Host.Outcome State Fault Refusal → Bool
  | .next t => decide (t.sgu.queue = []) && decide (t.sgu.grants.map GEntry.order = [crowded.sgu.nextOrder + 2]) &&
      decide (t.sgu.grants.map GEntry.unit = [.awning]) && decide ((t.unit (.room 1)).state = .idle)
  | .fault _ => false
  | .refused _ => false

/-- R67, R135, R136, R69 by hand: the release of the ended extend is examined first and grants the room that waits; the WIND entry
then preempts it. An examination made only after the WIND entry would leave the room WAITING. -/
theorem test_trip_release_is_examined_first : crowdedTest (exec (.windEdge (5000 + 74111)) crowded) = true := by decide +kernel

/-- A list with WIND_TRIP and AWNING_EXPOSED standing. -/
def exposed : Flt := ((Flt.reset.raise .windTrip .coach 9).1.raise .awningExposed (.unit .awning) 9).1

def guarded (w : Wgd) (f : Flt) : State := finish { base with wgd := w, flt := f }

theorem single_of {f : Flt} {k : FaultKind} {sj : Subject}
    (h : (f.entries.filter fun e => decide (e.kind = k ∧ e.subject = sj)).length ≤ 1) : f.single k sj := h

/-- A hold-off that ends now; a tripped guard with the speed at 74 (below the reset level of 75) and at 75; an ARMED one. -/
theorem witness_GuardIsArmed :
    let w := { base.wgd with state := GuardState.holdOff, holdOff := some 1000 }
    let s := guarded w exposed
    let t := guarded { base.wgd with state := .tripped, speed := 74 } exposed
    let u := guarded { base.wgd with state := .tripped, speed := 75 } exposed
    (Quiet s ∧ Quiet t ∧ Quiet u ∧ Quiet base) ∧ (Hears t ∧ Hears u ∧ Hears base) ∧
    (s.flt.single .windTrip .coach ∧ s.flt.single .awningExposed (.unit .awning) ∧ t.flt.single .windTrip .coach ∧
      t.flt.single .awningExposed (.unit .awning)) ∧
    s.frameOver = true ∧ s.wgd.state = .holdOff ∧ s.wgd.holdOff = some 1000 ∧ reached s.frame 1000 = true ∧ t.wgd.state ≠ .armed ∧
    t.wgd.speed < t.par.windTrip - t.par.windHysteresis ∧ base.wgd.state = .armed ∧ u.wgd.state ≠ .armed ∧
    u.par.windTrip - u.par.windHysteresis ≤ u.wgd.speed := by
  refine ⟨⟨quiet_of (by decide +kernel), quiet_of (by decide +kernel), quiet_of (by decide +kernel), base_meets.1⟩,
    ⟨hears_of (by decide +kernel), hears_of (by decide +kernel), base_meets.2.2.2⟩,
    ⟨single_of (by decide +kernel), single_of (by decide +kernel), single_of (by decide +kernel), single_of (by decide +kernel)⟩,
    by decide +kernel⟩

/-- A guard in a state with its last edge at 5000 µs, in FOLLOW mode, with the awning home. -/
def following (st : GuardState) : State :=
  finish { home with
    wgd := { home.wgd with state := st, holdOff := if st = .holdOff then some 1001 else none, lastEdge := some 5000 }
    sst := { home.sst with params := { home.sst.params with coach := { home.sst.params.coach with windMode := .follow } } } }

/-- Edges that measure 74, under the reset level of 75, and 75, in FOLLOW mode, with the guard TRIPPED and in HOLD_OFF; a hold-off
that goes on. -/
theorem witness_GuardIsArmed_follow : (∀ st ∈ [GuardState.tripped, .holdOff], let s := following st
      Quiet s ∧ s.restartFrame = false ∧ s.wgd.lastEdge = some 5000 ∧ s.wgd.state = st ∧ s.par.windMode = .follow ∧
        min 600 (roundDiv s.par.windFactor 90135).toNat = 74 ∧ min 600 (roundDiv s.par.windFactor 88933).toNat = 75 ∧
        s.par.windTrip - s.par.windHysteresis = 75 ∧ s.rest 14 = .stowed ∧ s.flt.entries = []) ∧
    (following .holdOff).frameOver = true ∧ (following .holdOff).wgd.holdOff = some 1001 ∧
    reached (following .holdOff).frame 1001 = false :=
  ⟨fun st h => ⟨quiet_of (by revert st; decide +kernel), by revert st; decide +kernel⟩, by decide +kernel⟩

/-- The silence timer is due. -/
def silent (s : State) : State := { s with pli := { s.pli with silenceStart := some 600 } }

/-- With nothing working; with a room at work and the awning waiting for the user; with JACKS at work for a level sequence. -/
theorem witness_SilenceEndsTheWork :
    let busy := silent (supplyBusy .normal .zero [] true)
    let level := silent (levelling .lifting 990 [2])
    (∀ s ∈ [silent base, busy, level], s.frameOver = true ∧ s.pli.silenceStart = some 600 ∧ 400 ≤ (s.frame - 600).toNat) ∧
    (Steady (silent base) ∧ ∀ u ∈ allUnits, ((silent base).unit u).origin = none) ∧
    (Steady busy ∧ (∀ u ∈ allUnits, (busy.unit u).origin ≠ some .level) ∧
      (∀ e ∈ busy.sgu.queue, (busy.unit e.unit).origin = some .user ∧ (busy.unit e.unit).state ≠ .idle) ∧
      (busy.unit (.room 1)).origin = some .user ∧ busy.sgu.queue ≠ []) ∧
    level.Levelling .lifting 990 := by
  refine ⟨by decide +kernel, ⟨steady_of (by decide +kernel), by decide +kernel⟩, ⟨steady_of (by decide +kernel), by decide +kernel⟩,
    levelling_of (by decide +kernel) (by decide +kernel)⟩

/-- A commit at a frame end, or inside a frame. -/
def committing (start : FrameNo) (ended : Bool) : State :=
  { base with frameOver := ended, sst := { base.sst with commit := some { copy := .defaults, layout := 7, start := start } } }

/-- At its 39th, 40th and 41st frame end, and in the frames after them. -/
theorem witness_CommitEnds : ∀ p ∈ [((961 : FrameNo), 39), (960, 40), (959, 41)], ∀ ended : Bool, Steady (committing p.1 ended) ∧
    (committing p.1 ended).frameOver = ended ∧
    (committing p.1 ended).sst.commit = some { copy := .defaults, layout := 7, start := p.1 } ∧
    ((committing p.1 ended).frame - p.1).toNat = p.2 := by
  intro p h ended
  exact ⟨steady_of (by revert p ended; decide +kernel), by revert p ended; decide +kernel⟩

/-! ## Witnesses: the panel line -/

/-- The receiver in a state, with a length and bytes taken, the last at a frame. -/
def receiving (r : RxState) (len : Nat) (l : List Byte) (gap : FrameNo) : State :=
  { base with pli := { base.pli with rx := r, rxLen := len, rxBytes := l, gapStart := some gap } }

/-- HUNT; LENGTH, and BODY before the last byte of a frame of LEN 2, with a gap of 4 frames and of 3. -/
theorem witness_ReceiverFollowsTheTable : (Quiet base ∧ base.pli.rx = .hunt) ∧
    ∀ p ∈ [(RxState.length, (996 : FrameNo)), (.length, 997), (.body, 996), (.body, 997)],
      let s := receiving p.1 2 [1, 2, 3] p.2
      Quiet s ∧ s.pli.rx = p.1 ∧ s.frameOver = true ∧ s.pli.gapStart = some p.2 ∧ s.pli.rxBytes.length < s.pli.rxLen + 2 ∧
        (4 ≤ (s.frame - p.2).toNat ↔ p.2 = 996) :=
  ⟨⟨base_meets.1, by decide +kernel⟩, fun p h => ⟨quiet_of (by revert p; decide +kernel), by revert p; decide +kernel⟩⟩

/-- The CRC of a STATUS request of TAG 7. -/
def statusCrc : BitVec 16 := crc16 [2, 1, 7]

/-- With its CRC and with a wrong low byte. -/
theorem witness_CompleteFrameIsJudged : ∀ b : Bool,
    let hi := statusCrc.extractLsb' 8 8
    let lo := statusCrc.extractLsb' 0 8 ^^^ (if b then 0 else 1)
    let s := receiving .body 2 [1, 7, hi, lo] 1000
    Quiet s ∧ s.pli.rx = .body ∧ s.pli.rxLen = ([] : List Byte).length + 2 ∧ s.pli.rxBytes = (1 : Byte) :: 7 :: [] ++ [hi, lo] ∧
      (crc16 (u8 s.pli.rxLen ++ (1 : Byte) :: 7 :: []) = hi ++ lo ↔ b = true) := by
  intro b
  cases b <;> exact ⟨quiet_of (by decide +kernel), by decide +kernel⟩

/-- The reply or a notice goes out; nothing is held, or a LEVEL_ABORT. -/
def transmitting (reply : Bool) (l : List Frame) : State :=
  { base with pli := { base.pli with tx := some ⟨reply, [1]⟩, holding := l, slot := if reply then some ⟨0x81, 4, [0]⟩ else none } }

theorem witness_TransmissionEnds : (∀ r : Bool, ∀ l ∈ [[], [(⟨0x08, 9, []⟩ : Frame)]],
      (transmitting r l).running = true ∧ linesTest (transmitting r l) = true ∧ stillTest (transmitting r l) = true ∧
      (transmitting r l).pli.tx = some ⟨r, [1]⟩ ∧ (transmitting r l).pli.holding = l ∧
      (if r then none else (transmitting r l).pli.slot) = none) ∧
    ∀ r : Bool, (transmitting r [⟨0x08, 9, []⟩]).pli.resetPending = false ∧
      (transmitting r [⟨0x08, 9, []⟩]).sst.phase ≠ .load ∧ (transmitting r [⟨0x08, 9, []⟩]).lvs.seq.state = .idle := by
  decide +kernel

/-- A CHANNEL request held, which is only answered, and a LEVEL_ABORT with a STATUS after it; a RESET is due. -/
theorem witness_TransmissionEnds_held : let s := transmitting true [⟨0x02, 9, [5]⟩]
    let sent := { s.pli with tx := none, slot := none, holding := [] }
    let w := ({ s with pli := sent } : State)
    let t := transmitting false [⟨0x08, 9, []⟩, ⟨0x01, 8, []⟩]
    let u := { transmitting true [⟨0x02, 9, [5]⟩] with pli := { (transmitting true [⟨0x02, 9, [5]⟩]).pli with resetPending := true } }
    (Quiet s ∧ Quiet t ∧ Quiet u) ∧ (serve (decodeRequest ⟨0x02, 9, [5]⟩) w).st = w ∧
      (serve (decodeRequest ⟨0x02, 9, [5]⟩) w).acts.length = 0 ∧ s.pli.resetPending = false ∧ s.sst.phase ≠ .load ∧
      t.pli.slot = none ∧ t.pli.resetPending = false ∧ t.sst.phase ≠ .load ∧ t.lvs.seq.state = .idle ∧ u.pli.resetPending = true :=
  ⟨⟨quiet_of (by decide +kernel), quiet_of (by decide +kernel), quiet_of (by decide +kernel)⟩, by decide +kernel⟩

/-- One request held, and two. -/
theorem witness_RequestIsHeld : let f : Frame := ⟨0x01, 9, []⟩
    let s := transmitting true [f]
    let t := transmitting true [f, f]
    (Quiet s ∧ Quiet t) ∧ encodeRequest (.status 9) = some f ∧ s.pli.slot ≠ none ∧ s.pli.silent = false ∧
      s.pli.holding.length < 2 ∧ t.pli.slot ≠ none ∧ t.pli.silent = false ∧ 2 ≤ t.pli.holding.length :=
  ⟨⟨quiet_of (by decide +kernel), quiet_of (by decide +kernel)⟩, by decide +kernel⟩

/-! ## Witnesses: requests -/

theorem witness_ReadsAnswer : Quiet base ∧ Hears base ∧ 16 ≤ (16 : Byte).toNat ∧ 8 ≤ (8 : Byte).toNat ∧ 4 < (5 : Byte).toNat ∧
    (31 : Byte).toNat ≤ 31 ∧ 31 < (32 : Byte).toNat ∧ isUnknown 0x14 9 [] = true :=
  ⟨base_meets.1, base_meets.2.2.2, by decide +kernel⟩

/-- Parameter 22 of the coach, with a set to compare with and with none. -/
theorem witness_ParamGetAnswers : let s : State := { base with sst := { base.sst with ref := none } }
    let t : State := { base with sst := { base.sst with ref := some .defaults } }
    (Quiet s ∧ Hears s ∧ Quiet t ∧ Hears t) ∧ paramRow (255 : Byte).toNat = none ∧
    (∃ row, paramRow (22 : Byte).toNat = some row ∧ s.paramSubject row.scope 0xFF = none ∧
      s.paramSubject row.scope 0 = some .coach ∧ t.paramSubject row.scope 0 = some .coach) ∧
    s.sst.ref = none ∧ t.sst.ref = some .defaults ∧ ∀ k, ∃ u, exec (.powerOn k) s = .next u :=
  ⟨⟨quiet_of (by decide +kernel), hears_of (by decide +kernel), quiet_of (by decide +kernel), hears_of (by decide +kernel)⟩,
    by decide +kernel, ⟨(paramRow 22).getD (rangeRow .coach 0 0), by decide +kernel⟩, by decide +kernel, rfl, fun k => ⟨_, rfl⟩⟩

/-- Two parameters of the coach, the notice mask, and one of channel 8. -/
theorem witness_ParamSetStores : (Resting base ∧ Hears base ∧ base.sst.phase = .run ∧ base.sst.commit = none) ∧
    ∀ p ∈ [((7 : Byte), (0 : Byte), Subject.coach), (1, 0, .coach), (27, 0, .coach), (41, 0x28, .chan 8)], ∃ row, paramRow p.1.toNat = some row ∧
      base.paramSubject row.scope p.2.1 = some p.2.2 ∧ base.atu.capture = none ∧ row.values = [] := by
  refine ⟨⟨base_meets.2.1, base_meets.2.2.2, by decide +kernel⟩, fun p hp => ⟨(paramRow p.1.toNat).getD (rangeRow .coach 0 0), ?_⟩⟩
  revert p; decide +kernel

/-- The tilt offset X, 2048, set to itself and to another value: before the first sample, after one, and with the record
INVALID. -/
theorem witness_ParamSetStores_tilt :
    let u := { base with atu := { base.atu with record := { base.atu.record with state := .unsettled, rawX := 0, rawY := 0 } } };
    let w := { base with atu := { base.atu with record := { base.atu.record with state := .settled, rawX := 2210, rawY := 0 } } };
    let v := { base with atu := { base.atu with record := { base.atu.record with state := .invalid } } };
    (∀ s ∈ [base, u, w, v], Resting s ∧ Hears s ∧ s.sst.phase = .run ∧ s.sst.commit = none ∧ s.atu.capture = none ∧
      s.paramSubject .coach 0 = some .coach) ∧ (paramRow 11).map (fun r => (r.scope, r.values)) = some (.coach, []) ∧
    (∀ s ∈ [u, w], s.atu.record.state ≠ .invalid) ∧ (u.atu.record.rawX = 0 ∧ u.atu.record.rawY = 0) ∧
    w.atu.record.rawX ≠ 0 ∧ v.atu.record.state = .invalid ∧ base.sst.params.get 11 .coach = 2048 := by
  refine ⟨fun s h => ⟨resting_of (by revert s; decide +kernel), hears_of (by revert s; decide +kernel),
    by revert s; decide +kernel⟩, by decide +kernel⟩

theorem witness_CommitResetAndReferenceStart : Quiet base ∧ Hears base ∧ base.sst.phase = .run ∧ base.sst.commit = none ∧
    base.atu.capture = none ∧ base.lvs.seq.state = .idle ∧ base.atu.record.state ≠ .invalid :=
  ⟨base_meets.1, base_meets.2.2.2, by decide +kernel⟩

/-- A part that meets one of the reasons. -/
def refusing (k : Fin 7) : State :=
  match k with
  | 0 => discovering false
  | 1 => { base with ciu := { base.ciu with stow := { state := .rooms, trigger := some .request, stepStart := some 999, awaited := [] } } }
  | 2 => { base with sgu := { base.sgu with supply := .cutoff } }
  | 3 => committing 990 true
  | 4 => { base with atu := { base.atu with
      capture := some { samples := 0, sumX := 0, sumY := 0, rangeX := none, rangeY := none, skip := false } } }
  | 5 => { base with lvs := { base.lvs with seq := { base.lvs.seq with state := .settling } } }
  | 6 => { base with wgd := { base.wgd with state := .tripped } }

theorem witness_RefusalsChangeNothing : (∀ k, Quiet (refusing k) ∧ Hears (refusing k)) ∧
    (dirOf 2 = none ∨ dirOf 3 = none) ∧ (unitOf 0x44 = none ∨ unitOf 0x46 = none) ∧ isJackByte 0x46 = false ∧
    (dirOf 1).isSome = true ∧ (refusing 0).sst.phase ≠ .run ∧ (∀ k, k ≠ 0 → (refusing k).sst.phase = .run) ∧
    (refusing 1).ciu.stow.state ≠ .idle ∧ (refusing 1).configured (.room 1) = true ∧ (refusing 2).ciu.stow.state = .idle ∧
    (refusing 2).sgu.supply = .cutoff ∧ (refusing 3).sst.commit ≠ none ∧ (refusing 4).atu.capture ≠ none ∧
    (refusing 5).lvs.seq.state ≠ .idle ∧ (refusing 6).wgd.state ≠ .armed ∧ (refusing 6).configured .awning = true ∧
    (refusing 6).ciu.stow.state = .idle ∧ ((refusing 6).unit .awning).state = .idle ∧ ((refusing 6).chan 14).state = .idle ∧
    ((refusing 6).node 7).state = .ready := by
  refine ⟨fun k => ⟨quiet_of (by revert k; decide +kernel), hears_of (by revert k; decide +kernel)⟩, by decide +kernel⟩

/-- A part in RUN, NORMAL, with every unit idle and sound, under a permit that fails: nothing out of place but clear latches and
rooms that are out; the alarm; the pump's engine off, rooms in; the attitude INVALID; a corner jack not homed. -/
def barring (k : Fin 5) : State :=
  match k with
  | 0 => base
  | 1 => { base with ciu := { base.ciu with alarm := true } }
  | 2 => finish { home with sst := { home.sst with params := home.sst.params.put 10 .coach 1 } }
  | 3 => { base with atu := { base.atu with record := { base.atu.record with state := .invalid } } }
  | 4 => base.modChan 0 fun x => { x with known := false }

/-- The premises of a MOVE and of a LEVEL up to the permits, and each permit failing in turn. -/
theorem witness_RefusalsChangeNothing_permits :
    (∀ k, Quiet (barring k) ∧ Hears (barring k)) ∧
    (∀ k, let s := barring k
      s.sst.phase = .run ∧ s.ciu.stow.state = .idle ∧ s.sgu.supply = .normal ∧ s.lvs.seq.state = .idle ∧ s.atu.capture = none ∧
      s.geometryOk = true ∧ s.wgd.state = .armed ∧ ∀ u ∈ allUnits, (s.unit u).state = .idle ∧ s.claimOf u ≤ s.sgu.budget ∧
        ∀ c ∈ s.unitChans u, (s.chan c).state = .idle ∧ (s.node (nodeOf c)).state = .ready) ∧
    (base.configured (.room 1) = true ∧ base.configured .awning = true ∧ base.configured .jacks = true ∧ base.populated 5 = true) ∧
    (base.par.slidesNeedJacks = true ∧ (base.chan 0).latch = false ∧ base.roomUsed 1 = true ∧ base.roomRest 1 ≠ .stowed ∧
      base.rest 0 ≠ .down ∧ base.par.pumpNeedsEngine = false ∧ (∀ c ∈ cornerChans, (base.chan c).known = true)) ∧
    (barring 1).ciu.alarm = true ∧
    ((barring 2).par.pumpNeedsEngine = true ∧ (barring 2).ciu.eng.accepted ≠ some true ∧ (barring 2).ciu.alarm = false ∧
      (barring 2).ciu.park.accepted = some true ∧ (∀ c ∈ cornerChans, ((barring 2).chan c).known = true) ∧
      ∀ r, (barring 2).roomUsed r = true → (barring 2).roomRest r = .stowed) ∧
    (barring 3).atu.record.state = .invalid ∧ (∀ k, k ≠ 3 → (barring k).atu.record.state ≠ .invalid) ∧
    ((barring 4).chan 0).known = false := by
  refine ⟨fun k => ⟨quiet_of (by revert k; decide +kernel), hears_of (by revert k; decide +kernel)⟩, by decide +kernel⟩

/-- Channels, nodes, supply and geometry that refuse a MOVE or a LEVEL before the permits; a unit that works for the wind; a jack
that may join JACKS. -/
theorem witness_RefusalsChangeNothing_checks :
    let faulted := finish (base.modChan 3 fun x => { x with state := .faulted })
    let gone := finish (base.modNode 1 fun x => { x with state := .lost })
    let poor := { base with sgu := { base.sgu with budget := 11 } }
    let flat := { base with sst := { base.sst with params := { base.sst.params with
      jacks := Vector.replicate 16 {} } } }
    let wind := finish (working base .awning .wind .retract [14])
    let user := finish (working base .jacks .user .extend [1])
    (∀ s ∈ [faulted, gone, poor, flat, wind, user], Quiet s ∧ Hears s ∧ s.sst.phase = .run ∧ s.ciu.stow.state = .idle) ∧
    ((faulted.chan 3).state = .faulted ∧ faulted.configured .jacks = true ∧ (faulted.unit .jacks).state = .idle) ∧
    ((gone.node (nodeOf 3)).state ≠ .ready ∧ (∀ c ∈ gone.unitChans .jacks, (gone.chan c).state = .idle)) ∧
    (∀ u ∈ allUnits, poor.configured u = true → poor.sgu.budget < poor.claimOf u) ∧ flat.geometryOk = false ∧
    ((wind.unit .awning).state ≠ .idle ∧ (wind.unit .awning).origin = some .wind) ∧
    ((user.unit .jacks).origin = some .user ∧ (user.unit .jacks).state ≠ .idle ∧ (user.chan 0).motion = none ∧
      (user.unit .jacks).pending = [] ∧ user.ciu.alarm = false ∧ user.sgu.supply = .normal) := by
  refine ⟨fun s h => ⟨quiet_of ?_, hears_of ?_, ?_⟩, by decide +kernel⟩ <;> (revert s; decide +kernel)

/-- An id that is none, a value that is none, a subject of another scope, a commit in flight, and each busy condition. -/
theorem witness_RefusalsChangeNothing_settings :
    paramRow 63 = none ∧ (paramRow 10).map (fun r => (r.scope, decide ((2 : Int) ∈ r.values))) = some (.coach, false) ∧
    base.paramSubject .coach 0x30 = none ∧ base.paramSubject .motor 0x20 = none ∧
    ((refusing 3).sst.commit ≠ none ∧ (refusing 4).atu.capture ≠ none ∧ (refusing 5).lvs.seq.state ≠ .idle ∧
      (refusing 6).wgd.state ≠ .armed ∧ (refusing 1).ciu.stow.state ≠ .idle) ∧
    (∀ s ∈ [finish (working base .jacks .user .extend [1]), finish userRoom], Quiet s ∧ Hears s) ∧
    ((working base .jacks .user .extend [1]).unit .jacks).state ≠ .idle ∧ (userRoom.unit (.room 1)).state ≠ .idle ∧
    userRoom.paramSubject .motor 0x28 = some (.chan 8) ∧ 8 ∈ unitSlots (.room 1) ∧
    userRoom.paramSubject .room 0x31 = some (.room 1) := by
  refine ⟨by decide +kernel, by decide +kernel, by decide +kernel, by decide +kernel, by decide +kernel,
    fun s h => ⟨quiet_of ?_, hears_of ?_⟩, by decide +kernel⟩ <;> (revert s; decide +kernel)

/-- TABLE 1-7, TABLE 9-3: clear corner latches bar a room's extend, rooms that are out bar a jack's retract. -/
theorem test_refusals_name_the_permit :
    (after (exec (.move 9 0x42 1) base)).pli.slot = some (replyTo 0x05 9 [7, 2]) ∧
    (after (exec (.moveJack 9 2 2) base)).pli.slot = some (replyTo 0x05 9 [7, 5]) := by decide +kernel

/-- The corner jacks stand on the ground. -/
def grounded : State := finish (cornerChans.foldl (fun s c => s.modChan c fun x => { x with latch := true }) base)

/-- The same with every channel on its closed retract switch. -/
def groundedHome : State := finish (cornerChans.foldl (fun s c => s.modChan c fun x => { x with latch := true }) home)

/-- Every unit of the layout and every jack extends, from open and from closed switches; the rooms and the awning retract, and
with the rooms in, the jacks. -/
theorem witness_MoveStarts :
    let able := fun (s : State) (d : Dir) c =>
      (s.chan c).state = .idle ∧ (d = .retract → (s.chan c).cond ≠ .limitRet) ∧ (s.node (nodeOf c)).state = .ready
    let jacksOut := finish (jackChans.foldl (fun s c => s.modChan c fun x => { x with position := 600, cond := .normal }) home)
    (∀ p ∈ [((1 : Byte), Dir.extend, grounded, [UnitId.jacks, .room 0, .room 1, .awning]),
        (1, .extend, groundedHome, [.jacks, .room 0, .room 1, .awning]), (2, .retract, base, [.room 0, .room 1, .awning]),
        (2, .retract, jacksOut, [.jacks])],
      let s := p.2.2.1
      Resting s ∧ Hears s ∧ s.sst.phase = .run ∧ s.sgu.supply = .normal ∧ dirOf p.1 = some p.2.1 ∧
      ∀ u ∈ p.2.2.2, s.configured u = true ∧ (∀ c ∈ s.unitChans u, s.populated c = true ∧ able s p.2.1 c) ∧
        s.failedPermit u p.2.1 = none ∧ s.claimOf u ≤ s.sgu.budget) := by
  intro able jacksOut p h
  exact ⟨resting_of (by revert p; decide +kernel), hears_of (by revert p; decide +kernel), by revert p; decide +kernel,
    by revert p; decide +kernel, by revert p; decide +kernel, by revert p; decide +kernel⟩

/-- Room 1 and jacks 0 and 1 extend for the user. -/
theorem witness_MoveRefreshesOrStops :
    (Steady userRoom ∧ Hears userRoom ∧ userRoom.sst.phase = .run ∧ userRoom.ciu.stow.state = .idle) ∧
    (userRoom.configured (.room 1) = true ∧ (userRoom.unit (.room 1)).state = .active ∧
      (userRoom.unit (.room 1)).origin = some .user ∧ (userRoom.unit (.room 1)).pending = []) ∧
    (∀ c ∈ userRoom.unitChans (.room 1), ∃ m, (userRoom.chan c).motion = some m ∧ m.dir = .extend ∧ m.attended = true) ∧
    userRoom.queueOnly (.room 1) ∧
    let t := working base .jacks .user .extend [0, 1]
    (Steady t ∧ Hears t ∧ t.sst.phase = .run ∧ t.ciu.stow.state = .idle) ∧
    ((t.unit .jacks).state = .active ∧ (t.unit .jacks).origin = some .user ∧ (t.unit .jacks).pending = [] ∧
      t.populated 0 = true ∧ (t.chan 0).kind = .jack) ∧
    (∃ m, (t.chan 0).motion = some m ∧ m.origin = .user ∧ m.attended = true ∧ m.dir = .extend) ∧
    ∃ e ∈ t.unitChans .jacks, e ≠ 0 ∧ (t.chan e).motion ≠ none := by
  have q : userRoom.sgu.queue = [] := by decide +kernel
  have h : ∀ c ∈ userRoom.unitChans (.room 1), (userRoom.chan c).motion = some (base.newMotion c .extend .user (some 1060)) := by
    decide +kernel
  exact ⟨⟨steady_of (by decide +kernel), hears_of (by decide +kernel), by decide +kernel⟩, by decide +kernel,
    fun c hc => ⟨_, h c hc, rfl, rfl⟩, fun e he => absurd (q ▸ he) (List.not_mem_nil),
    ⟨steady_of (by decide +kernel), hears_of (by decide +kernel), by decide +kernel⟩, by decide +kernel,
    ⟨base.newMotion 0 .extend .user (some 1060), by decide +kernel⟩, by decide +kernel⟩

/-- Room 1 idle, and working for the user. -/
theorem witness_StopsEndTheWork : (Steady base ∧ Hears base ∧ base.configured (.room 1) = true ∧
      (base.unit (.room 1)).state = .idle) ∧
    (Steady userRoom ∧ Hears userRoom ∧ userRoom.configured (.room 1) = true ∧
      (userRoom.unit (.room 1)).origin = some .user ∧ userRoom.queueOnly (.room 1)) ∧
    userRoom.lvs.seq.state = .idle ∧ userRoom.ciu.stow.state = .idle ∧
    ∀ v ∈ allUnits, v ≠ .room 1 → (userRoom.unit v).state = .idle := by
  have q : userRoom.sgu.queue = [] := by decide +kernel
  exact ⟨⟨base_meets.2.2.1, base_meets.2.2.2, by decide +kernel⟩, ⟨steady_of (by decide +kernel), hears_of (by decide +kernel),
    by decide +kernel, by decide +kernel, fun e he => absurd (q ▸ he) (List.not_mem_nil)⟩, by decide +kernel⟩

/-- A wind retract under a TRIPPED guard. -/
def windWork : State := let s := working base .awning .wind .retract [14]
  { s with wgd := { s.wgd with state := .tripped, retract := .requested } }

/-- A level sequence; the AWNING step of a stow; a wind retract. -/
theorem witness_StopsEndTheWork_others :
    ((levelling .lifting 990 [2]).Levelling .lifting 990 ∧ Hears (levelling .lifting 990 [2]) ∧
      (levelling .lifting 990 [2]).configured .jacks = true ∧ (levelling .lifting 990 [2]).ciu.stow.state = .idle) ∧
    (∀ s ∈ [stowing 990, windWork], Steady s ∧ Hears s ∧ s.configured .awning = true ∧ (s.unit .awning).state ≠ .idle ∧
      s.sgu.queue = []) ∧
    ((stowing 990).unit .awning).origin = some .stow ∧ (stowing 990).ciu.stow.state ≠ .idle ∧
    .awning ∈ (stowing 990).ciu.stow.awaited ∧ (stowing 990).wgd.retract ≠ .covered ∧
    (windWork.unit .awning).origin = some .wind ∧ windWork.wgd.state = .tripped ∧ windWork.ciu.stow.state = .idle :=
  ⟨⟨levelling_of (by decide +kernel) (by decide +kernel), hears_of (by decide +kernel), by decide +kernel⟩,
    fun s h => ⟨steady_of (by revert s; decide +kernel), hears_of (by revert s; decide +kernel), by revert s; decide +kernel⟩,
    by decide +kernel⟩

theorem witness_LevelStartsAndAborts :
    (Resting home ∧ Hears home ∧ home.sst.phase = .run ∧ home.atu.capture = none ∧ home.sgu.supply = .normal ∧
      home.claimOf .jacks ≤ home.sgu.budget ∧ home.atu.record.state ≠ .invalid ∧ home.geometryOk = true) ∧
    (∀ o, ∀ c ∈ home.levelJacks o, (home.chan c).state = .idle ∧ (home.node (nodeOf c)).state = .ready) ∧
    (∀ c ∈ cornerChans, (home.chan c).known = true ∧ (home.chan c).kind = .jack) ∧ home.levelPermit = true ∧
    home.engineOk = true ∧ (∃ c ∈ cornerChans, (home.chan c).latch = false) ∧ Quiet base ∧ base.lvs.seq.state = .idle ∧
    (levelling .lifting 990 [2]).Levelling .lifting 990 ∧ Hears (levelling .lifting 990 [2]) :=
  ⟨⟨resting_of (by decide +kernel), hears_of (by decide +kernel), by decide +kernel⟩, by decide +kernel, by decide +kernel, by decide +kernel,
    by decide +kernel, by decide +kernel, base_meets.1, by decide +kernel, levelling_of (by decide +kernel) (by decide +kernel),
    hears_of (by decide +kernel)⟩

theorem witness_StowRuns : (Resting home ∧ Hears home ∧ home.sst.phase = .run ∧ home.sgu.supply ≠ .cutoff ∧
      ∀ c, home.populated c = true → home.rest c = .stowed) ∧
    (Resting base ∧ Hears base ∧ base.sst.phase = .run ∧ base.sgu.supply ≠ .cutoff) ∧ base.populated 14 = true ∧
    base.rest 14 ≠ .stowed ∧ (base.chan 14).state = .idle ∧ (base.chan 14).cond ≠ .limitRet ∧ (base.node 7).state = .ready ∧
    (base.motorPar 14).claim ≤ base.sgu.budget :=
  ⟨⟨resting_of (by decide +kernel), hears_of (by decide +kernel), by decide +kernel⟩,
    ⟨base_meets.2.1, base_meets.2.2.2, by decide +kernel⟩, by decide +kernel⟩

/-- Everything in but room 1, or but the jacks. -/
def partlyHome (jacks : Bool) : State :=
  finish ((if jacks then jackChans else [8]).foldl (fun s c => s.modChan c fun x => { x with position := 600, cond := .normal }) home)

theorem witness_StowRuns_later :
    let able := fun (s : State) c => (s.chan c).state = .idle ∧ (s.chan c).cond ≠ .limitRet ∧ (s.node (nodeOf c)).state = .ready
    let isIn := fun (s : State) r => s.roomUsed r = true → s.roomRest r = .stowed
    (∀ j, Resting (partlyHome j) ∧ Hears (partlyHome j) ∧ (partlyHome j).sst.phase = .run ∧ (partlyHome j).sgu.supply ≠ .cutoff ∧
      (partlyHome j).rest 14 = .stowed) ∧
    (let s := partlyHome false;
      s.roomUsed 1 = true ∧ s.roomRest 1 ≠ .stowed ∧ (∀ q, q ≠ 1 → isIn s q) ∧ (∀ c ∈ s.unitChans (.room 1), able s c) ∧
      s.claimOf (.room 1) ≤ s.sgu.budget) ∧
    let s := partlyHome true
    (∀ r, isIn s r) ∧ (∃ c ∈ s.unitChans .jacks, s.rest c ≠ .stowed) ∧
      (∀ c ∈ s.unitChans .jacks, s.rest c ≠ .stowed → able s c) ∧ s.engineOk = true ∧ s.claimOf .jacks ≤ s.sgu.budget := by
  refine ⟨fun j => ⟨resting_of (by revert j; decide +kernel), hears_of (by revert j; decide +kernel), by revert j; decide +kernel⟩,
    by decide +kernel, by decide +kernel⟩

/-- The JACKS step of a stow retracts the corner jacks of node 0, of node 1, or of both; every other channel is home, and the nodes
have missed two slots. -/
def stowingJacks (l : List (Fin 16)) : State :=
  let s := working (l.foldl (fun s c => s.modChan c fun x => { x with position := 600, cond := .normal }) home) .jacks .stow .retract l
  finish (({ s with ciu := { s.ciu with stow :=
    { state := .jacks, trigger := some .request, stepStart := some 990, awaited := [.jacks] } } } : State).mapNodes fun x =>
      { x with misses := 2 })

/-- R35, R156: node 1 is lost, none of whose jacks the step moves, which ends JACKS and fails no step; then one of whose jacks it
moves. -/
theorem test_stow_fails_for_a_moved_jack_only :
    (let t := after (exec (.slotIntake 1 .silent) (stowingJacks [0, 1]))
     t.ciu.stow.state = .jacks ∧ t.ciu.stow.awaited = [.jacks] ∧ (t.unit .jacks).state = .idle ∧ (t.chan 0).state = .idle) ∧
    let t := after (exec (.slotIntake 1 .silent) (stowingJacks [0, 1, 2]))
    t.ciu.result.cause = .fault .nodeLost ∧ t.ciu.result.subject = some (.node 1) ∧ (t.chan 0).state = .idle := by
  decide +kernel

/-- A node whose jacks the step moves, one whose jacks it does not move, and one that serves no jack. -/
theorem witness_ThirdMissLosesTheNode_stow : ∀ p ∈ [(([0, 1, 2] : List (Fin 16)), (1 : Fin 8)), ([0, 1], 1), ([0, 1], 3)],
    let s := stowingJacks p.1
    let n := p.2
    Steady s ∧ statusOf n .silent = none ∧ (s.node n).state = .ready ∧ (s.node n).misses = 2 ∧ s.lvs.seq.state = .idle ∧
      s.ciu.stow.state = .jacks ∧ .jacks ∈ s.ciu.stow.awaited ∧ (s.unit .jacks).state ≠ .idle ∧
      (s.unit .jacks).origin = some .stow ∧ s.sgu.queue = [] ∧ (∀ u ∈ allUnits, u ≠ .jacks → (s.unit u).state = .idle) ∧
      ((∃ c ∈ s.unitChans .jacks, nodeOf c = n ∧ ((s.chan c).motion ≠ none ∨ ∃ p ∈ (s.unit .jacks).pending, p.chan = c)) ↔
        p.1 = [0, 1, 2]) ∧ ((∃ c ∈ s.unitChans .jacks, nodeOf c = n) ↔ n = 1) := by
  intro p h
  exact ⟨steady_of (by revert p; decide +kernel), by revert p; decide +kernel⟩

/-- Channel 8 locked by STALL and listed; the supply LOW; node 3 in MISMATCH with DESC_MISMATCH listed
as present. -/
theorem witness_FaultClearRemoves :
    let s := { base with flt := (base.flt.raise .stall (.chan 8) 990).1 }.setChan 8 { base.chan 8 with
      lock := some .stall, state := .faulted }
    let t := supplied .low .zero
    let n := finish ({ base with flt := (base.flt.raise .descMismatch (.node 3) 990).1 }.modNode 3 fun x =>
      { x with state := .mismatch, cause := some .kind })
    (Steady s ∧ Hears s ∧ s.validSubject .stall (.chan 8) = true ∧ s.stands .stall (.chan 8) = false) ∧
    (Quiet t ∧ Hears t ∧ t.validSubject .supplyLow .coach = true ∧ t.stands .supplyLow .coach = true) ∧
    (n.flt.entries.map FaultEntry.present = [true] ∧ n.RestingBut .descMismatch (.node 3)) ∧ Hears n ∧ n.validSubject .descMismatch (.node 3) = true ∧ (n.node 3).state = .mismatch :=
  ⟨⟨steady_of (by decide +kernel), hears_of (by decide +kernel), by decide +kernel⟩,
    ⟨quiet_of (by decide +kernel), hears_of (by decide +kernel), by decide +kernel⟩,
    ⟨by decide +kernel, restingBut_of (by decide +kernel) (by decide +kernel)⟩, hears_of (by decide +kernel), by decide +kernel⟩

/-! ## Witnesses: the whole machine -/

theorem witness_RequestsRoundTrip : (Instr.paramSet 9 57 0x22 5).wellFormed = true ∧
    encodeRequest (.paramSet 9 57 0x22 5) = some ⟨0x0F, 9, [57, 0x22, 0, 0, 0, 5]⟩ := by decide

theorem witness_FramesAreReceived : (⟨0x14, 9, List.replicate 58 1⟩ : Frame).payload.length ≤ 58 ∧ base.pli.rx = .hunt ∧
    (0 : Byte) ≠ (⟨0x01, 7, []⟩ : Frame).bytes.getLastD 0 := by decide +kernel

/-- Room 1 works, and a third node slot goes silent. -/
def stepping : State := { userRoom with pending := [.slotIntake 4 .silent] }.modNode 4 fun x => { x with misses := 2 }

theorem stepping_next : step (finish stepping) = .next (after (step (finish stepping))) := by
  have h : (finish stepping).pending = [.slotIntake 4 .silent] := by decide +kernel
  refine next_after ?_
  rw [step, h]
  simp only [exec, execSlotIntake]
  split <;> exact ⟨_, rfl⟩

theorem witness_StepsKeepTheLines : Lines (finish stepping) ∧ step (finish stepping) = .next (after (step (finish stepping))) ∧
    (after (step (finish stepping))).chan 8 ≠ (finish stepping).chan 8 :=
  ⟨lines_of (by decide +kernel), stepping_next, by decide +kernel⟩

theorem witness_StepsKeepTheBounds : Bounded (finish stepping) ∧
    step (finish stepping) = .next (after (step (finish stepping))) ∧
    (after (step (finish stepping))).flt ≠ (finish stepping).flt := by
  refine ⟨⟨⟨by decide +kernel, by decide +kernel, by decide +kernel, by decide +kernel, by decide +kernel⟩, by decide +kernel,
    by decide +kernel, by decide +kernel, by decide +kernel, by decide +kernel, by decide +kernel⟩,
    stepping_next, by decide +kernel⟩

theorem witness_StepsKeepTheBounds_grants : GrantLaw (finish stepping) ∧ (finish stepping).sgu.grants ≠ [] ∧
    (after (step (finish stepping))).sgu.grants = [] := by
  have h : ∀ u ∈ allUnits, ((finish stepping).unit u).state ≠ .idle →
      u ∈ (finish stepping).sgu.queue.map QEntry.unit ++ (finish stepping).sgu.grants.map GEntry.unit := by decide +kernel
  exact ⟨⟨by decide +kernel, by decide +kernel, by decide +kernel, fun u => h u (mem_allUnits u), by decide +kernel,
    by decide +kernel⟩, by decide +kernel⟩

/-- JACKS holds a grant and two jacks move, and the last of them is stopped; RESETn is held; a RESET has been answered. -/
theorem witness_PumpFollowsTheGrant :
    let s := finish (working base .jacks .user .extend [0, 1])
    let t := State.blank .lineReset .line .erased [] 0
    (s.sgu.pump = true ∧ (∃ g ∈ s.sgu.grants, g.unit = .jacks) ∧
      ∃ j ∈ jackChans, (s.chan j).kind = .jack ∧ (s.chan j).state = .moving) ∧
    (after (exec (.stop 1 0x40) s)).sgu.pump = false ∧ s.mode ≠ .off ∧ t.mode = .lineReset ∧
    resetting.mode = .running ∧ resetting.pli.resetPending = true ∧ resetting.pli.slot = none ∧ resetting.sst.commit = none := by
  decide +kernel

end Sys2Proof.Tests
end

section
/-! SUPPORT. What each command can do, said once: every command but a reset, a slot, the entry of RUN, the soft reset and the end of a
commit is an event whose own effect changes nothing of `Same`. -/

namespace Sys2Proof.Machine

/-! ## What the effects of events leave as it was -/

theorem same_captureSample (s : State) (c : Capture) (x y : Nat) : Same s (s.captureSample c x y).st := by
  unfold State.captureSample
  simp only []
  split
  · exact same_of rfl rfl rfl rfl rfl rfl rfl rfl rfl
  · split
    · exact same_of rfl rfl rfl rfl rfl rfl rfl rfl rfl
    · split
      · exact (same_params s _).trans ((same_attApply _).trans (same_captureDone _ _ _))
      · exact same_captureDone s _ _

theorem same_attitudeSample (s : State) : Same s s.attitudeSample.st := by
  have hrec : ∀ a : Atu, Same s { s with atu := a } := fun a => same_of rfl rfl rfl rfl rfl rfl rfl rfl rfl
  unfold State.attitudeSample
  simp only []
  split
  · exact Same.refl s
  · split
    · split
      · exact (hrec _).trans (same_captureSample _ _ _ _)
      · exact hrec _
    · split
      · exact (hrec _).trans (same_captureDone _ _ _)
      · exact hrec _

theorem same_supplyEnter (s : State) (new : Supply) : Same s (s.supplyEnter new).st := by
  show Same s (actEndUnits _ _).st
  refine Same.trans ?_ (same_endUnits _ _)
  exact same_of rfl rfl rfl rfl rfl rfl rfl rfl rfl

theorem same_windowEnd (s : State) (c : Fin 16) : Same s (s.windowEnd c).st := by
  unfold State.windowEnd
  simp only []
  repeat' split
  all_goals first | exact Same.refl s | exact same_setChan s c _ rfl rfl

theorem same_autoStow (s : State) : Same s s.autoStow.st := by
  unfold State.autoStow
  repeat' split
  all_goals first | exact Same.refl s | exact same_of rfl rfl rfl rfl rfl rfl rfl rfl rfl

theorem same_setInput (s : State) (i : InputId) (x : Input) : Same s (s.setInput i x) := by
  cases i <;> exact same_of rfl rfl rfl rfl rfl rfl rfl rfl rfl

theorem same_inputUses (s : State) (i : InputId) (level change : Bool) : Same s (inputUses s i level change).st := by
  cases i with
  | ign =>
    unfold inputUses
    simp only []
    split
    · exact same_autoStow s
    · exact Same.refl s
  | park => exact Same.refl s
  | eng => exact Same.refl s

theorem same_sampleInput (s : State) (i : InputId) (level : Bool) : Same s (s.sampleInput i level).st := by
  unfold State.sampleInput
  simp only []
  split
  · split
    · exact (same_setInput s i _).trans (same_inputUses _ _ _ _)
    · exact ((same_setInput s i _).trans (same_offer _ _)).trans (same_inputUses _ _ _ _)
  · exact same_setInput s i _

theorem same_windEdge (s : State) (time : Nat) : Same s (s.windEdge time).st := by
  unfold State.windEdge
  repeat' split
  all_goals first | exact Same.refl s | exact same_of rfl rfl rfl rfl rfl rfl rfl rfl rfl

theorem same_calm (s : State) : Same s s.calm.st := by
  unfold State.calm
  split
  · exact same_of rfl rfl rfl rfl rfl rfl rfl rfl rfl
  · exact Same.refl s

theorem same_silence (s : State) : Same s s.silence.st := by
  unfold State.silence
  split
  · exact same_of rfl rfl rfl rfl rfl rfl rfl rfl rfl
  · exact Same.refl s

theorem same_pli (s : State) (p : Pli) : Same s { s with pli := p } := same_of rfl rfl rfl rfl rfl rfl rfl rfl rfl

theorem same_judgeFrame (s : State) : Same s s.judgeFrame.st := by
  unfold State.judgeFrame
  split
  · exact same_pli s _
  · exact Same.refl s

theorem same_phaseFail (s : State) (k : FaultKind) (l : List (Fin 16)) : Same s (s.phaseFail k l).st := same_setSeq s _

theorem same_countRack (s : State) (r : Fin 4) : Same s (s.countRack r) := by
  unfold State.countRack
  simp only []
  repeat' split
  all_goals first | exact Same.refl s | exact same_setRoom s r _ rfl

/-- The mark of the frame end, set before or after a change that leaves it alone. -/
theorem same_mark {s t : State} (h : Same s t) : Same { s with frameOver := true } { t with frameOver := true } :=
  ⟨h.mode, h.frame, h.frameFresh, rfl, h.restartFrame, h.pending, h.layout, h.phase, h.image, h.outcome, h.chans, h.rooms⟩

/-- The end of a frame moves the mark of the frame end alone (R24). -/
theorem same_frameEnd (s : State) : Same { s with frameOver := true } s.frameEnd := by
  have hrack := same_foldl State.countRack same_countRack allRooms s
  have hdraw : ∀ t : State, Same t t.countOverdraw := fun t => same_of rfl rfl rfl rfl rfl rfl rfl rfl rfl
  exact same_mark (hrack.trans (hdraw _))

/-! ## The effect of a command -/

/-- The rows of the node link's slots, which move the frame number and the mark of the frame end (R24). -/
def slotRow : Instr → Bool
  | .nodeCommandSlot _ | .slotIntake _ _ => true
  | _ => false

/-- What a command answers, by what its own effect may change. -/
inductive Effect (s : State) : Instr → Host.Outcome State Fault Refusal → Prop
  /-- POWER_ON (R188). -/
  | powerOn (k : BitVec 4) : Effect s (.powerOn k) (.next (s.boot .power k))
  /-- RESETN_RELEASE with RESETn held low (R24, R188). -/
  | release (k : BitVec 4) (h : s.mode = .lineReset) : Effect s (.resetnRelease k) (.next (s.boot .line k))
  /-- POWER_LOSS (R187). -/
  | powerLoss : Effect s .powerLoss (.next (s.blanked .off .power))
  /-- RESETN_ASSERT of a part with power (R24). -/
  | resetnAssert (h : s.mode ≠ .off) : Effect s .resetnAssert (.next (s.blanked .lineReset .line))
  /-- A row of RESETn in a mode that does not fit changes nothing (log entry 11). -/
  | ignored {c : Instr} (hc : slotRow c = false) : Effect s c (.next s)
  /-- NODE_COMMAND_SLOT (R24, R26). -/
  | slot (n : Fin 8) : Effect s (.nodeCommandSlot n) (execNodeCommandSlot n s)
  /-- SLOT_INTAKE (R24, R29). -/
  | intake (n : Fin 8) (r : SlotReply) : Effect s (.slotIntake n r) (execSlotIntake n r s)
  /-- START_UP_RUN that is due (R188). -/
  | enterRun : Effect s .startUpRun (event s s.enterRun)
  /-- SOFT_RESET that is due (R190). -/
  | softReset : Effect s .softReset (event s s.softReset)
  /-- COMMIT_COMPLETE and COMMIT_TIMEOUT (R187). -/
  | commitEnd {c : Instr} (ok : Bool) (h : c = .commitTimeout ∨ ∃ a, c = .commitComplete a) : Effect s c (event s (s.commitEnd ok))
  /-- Every other event. -/
  | same {c : Instr} (o : Out) (hc : slotRow c = false) (h : Same s o.st) : Effect s c (event s o)

/-- A timer's row: before the frame end its event is empty (R1). -/
theorem effect_expiry {s : State} {c : Instr} (hc : slotRow c = false) {o : Out} (h : Same s o.st) : Effect s c (expiry s o) := by
  cases hf : s.frameOver with
  | true => rw [expiry_over hf]; exact .same o hc h
  | false => rw [expiry_early hf]; exact .same _ hc (Same.refl s)

/-- A timer's row whose effect is conditional. -/
theorem effect_expiry_if {s : State} {c : Instr} (hc : slotRow c = false) {p : Prop} [Decidable p] {o : Out} (h : Same s o.st) :
    Effect s c (expiry s (if p then o else .done s)) := by
  refine effect_expiry hc ?_
  split
  · exact h
  · exact Same.refl s

/-- A request row is an event that hands its frame on (R171, R173). -/
theorem effect_request {s : State} {i : Instr} (hi : slotRow i = false) {f : Frame} (hf : encodeRequest i = some f) :
    Effect s i (request i s) := by
  rw [request_event hf]
  exact .same _ hi (Same.refl s)

/-- Every command has one of these effects, in every state. -/
theorem exec_effect (c : Instr) (s : State) : Effect s c (exec c s) := by
  cases c with
  | powerOn k => exact .powerOn k
  | powerLoss => exact .powerLoss
  | resetnAssert =>
    simp only [exec, execResetnAssert]
    split
    · exact .ignored rfl
    · exact .resetnAssert ‹_›
  | resetnRelease k =>
    simp only [exec, execResetnRelease]
    split
    · exact .release k ‹_›
    · exact .ignored rfl
  | nodeCommandSlot n => exact .slot n
  | slotIntake n r => exact .intake n r
  | startUpRun =>
    simp only [exec, execStartUpRun]
    split
    · cases hf : s.frameOver with
      | true => rw [expiry_over hf]; exact .enterRun
      | false => rw [expiry_early hf]; exact .same _ rfl (Same.refl s)
    · exact effect_expiry rfl (Same.refl s)
  | softReset =>
    simp only [exec, execSoftReset]
    split
    · exact .softReset
    · exact .same _ rfl (Same.refl s)
  | commitComplete agrees =>
    simp only [exec, execCommitComplete]
    cases hf : s.frameOver with
    | true => rw [expiry_over hf]; exact .commitEnd _ (.inr ⟨agrees, rfl⟩)
    | false => rw [expiry_early hf]; exact .same _ rfl (Same.refl s)
  | commitTimeout =>
    simp only [exec, execCommitTimeout]
    split
    · cases hf : s.frameOver with
      | true => rw [expiry_over hf]; exact .commitEnd _ (.inl rfl)
      | false => rw [expiry_early hf]; exact .same _ rfl (Same.refl s)
    · exact effect_expiry rfl (Same.refl s)
  | conversionScan tx ty vbat =>
    exact .same _ rfl ((same_attitudeSample s).trans (same_of rfl rfl rfl rfl rfl rfl rfl rfl rfl))
  | supplyStateChange =>
    refine .same _ rfl ?_
    split
    · exact same_supplyEnter s _
    · exact Same.refl s
  | attitudeSample => exact .same _ rfl (same_attitudeSample s)
  | inputAccept i level => exact .same _ rfl (same_sampleInput s i level)
  | windEdge time => exact .same _ rfl (same_windEdge s time)
  | panelByteReceive b => exact .same _ rfl ((same_judgeFrame s).trans (same_pli _ _))
  | panelFrameReceive => exact .same _ rfl (same_judgeFrame s)
  | panelGapTimeout =>
    simp only [exec, execPanelGapTimeout]
    split
    · exact .same _ rfl (same_judgeFrame s)
    · exact effect_expiry_if rfl (same_pli s _)
  | transmitDone => exact .same _ rfl (same_pli s _)
  | speedWindowEnd c => exact effect_expiry_if rfl (same_windowEnd s c)
  | overdrawExpiry => exact effect_expiry_if rfl (same_of rfl rfl rfl rfl rfl rfl rfl rfl rfl)
  | rackWindowEnd r =>
    refine effect_expiry_if rfl ?_
    split
    · exact Same.refl s
    · exact same_setRoom s r _ rfl
  | contactTimeout => exact effect_expiry_if rfl (same_phaseFail s _ _)
  | settleTimeout => exact effect_expiry_if rfl (Same.refl s)
  | liftPassTimeout => exact effect_expiry_if rfl (same_phaseFail s _ _)
  | supportTimeout => exact effect_expiry_if rfl (same_phaseFail s _ _)
  | stowStepTimeout => exact effect_expiry_if rfl (Same.refl s)
  | calmExpiry => exact effect_expiry rfl (same_calm s)
  | linkSilenceTimeout => exact effect_expiry rfl (same_silence s)
  | attendanceExpiry _ | grantWaitExpiry _ | endWaitExpiry _ | holdOffExpiry => exact effect_expiry rfl (Same.refl s)
  | unknownRequest _ _ _ | status _ | channel _ _ | nodes _ _ | inputs _ | move _ _ _ | moveJack _ _ _ | stop _ _ | stopAll _
  | level _ _ | levelAbort _ | levelResult _ _ | reference _ | stow _ | stowResult _ | guardReset _ | paramGet _ _ _
  | paramSet _ _ _ _ | commit _ | faults _ _ | faultClear _ _ _ | reset _ => exact effect_request rfl rfl

end Sys2Proof.Machine
end

section
/-! SUPPORT. The frame and the queue under every command (R1, R24): the step, completion, and what moves the frame number. -/

namespace Sys2Proof.Machine

/-! ## The step (log entry 1) -/

theorem step_cons {c : Instr} {rest : List Instr} {s : State} (h : s.pending = c :: rest) :
    step s = exec c { s with pending := rest } := by unfold step; rw [h]

theorem step_nil {s : State} (h : s.pending = []) : step s = .next s := by unfold step; rw [h]

/-! ## The part stays in its frame -/

/-- From s to t the part stays in the same frame, on the same side of its end, with the same commands waiting. -/
structure Within (s t : State) : Prop where
  frame : t.frame = s.frame
  frameOver : t.frameOver = s.frameOver
  pending : t.pending = s.pending

theorem Same.within {s t : State} (h : Same s t) : Within s t := ⟨h.frame, h.frameOver, h.pending⟩

theorem Within.refl (s : State) : Within s s := (Same.refl s).within

theorem Within.trans {s t u : State} (h : Within s t) (k : Within t u) : Within s u :=
  ⟨k.frame.trans h.frame, k.frameOver.trans h.frameOver, k.pending.trans h.pending⟩

theorem within_enterRun (s : State) : Within s s.enterRun.st := ⟨rfl, rfl, rfl⟩

theorem within_commitEnd (s : State) (ok : Bool) : Within s (s.commitEnd ok).st := by
  unfold State.commitEnd
  split
  · exact Within.refl s
  · exact ⟨rfl, rfl, rfl⟩

/-- The soft reset does not move the frame number: the next frame is frame 0 (R24, R190). -/
theorem within_softReset (s : State) : Within s s.softReset.st := by
  have hforget := same_foldl State.forgetMotors same_forgetMotors (allNodes.filter fun n => decide ((s.node n).state = .mismatch)) s
  exact ⟨hforget.frame, hforget.frameOver, hforget.pending⟩

/-- An event answers a next state: the state it found, of a stopped part, or one that its own effect leads to by acts. -/
theorem event_answers (s : State) (o : Out) : ∃ t, event s o = .next t ∧ (t = s ∨ Same o.st t) := by
  by_cases hr : s.mode = .running
  · exact ⟨_, event_running hr o, .inr (commit_same _ _)⟩
  · exact ⟨s, event_stopped hr o, .inl rfl⟩

theorem event_within {s : State} {o : Out} (h : Within s o.st) : ∃ t, event s o = .next t ∧ Within s t := by
  obtain ⟨t, ht, hs | hs⟩ := event_answers s o
  · exact ⟨t, ht, hs ▸ Within.refl s⟩
  · exact ⟨t, ht, h.trans hs.within⟩

/-! ## The slots (R24) -/

/-- The start of a frame: the frame number and the mark of the frame end (R24; log entry 3). -/
theorem frameStart_marks (s : State) : s.frameStart.pending = s.pending ∧ s.frameStart.frameOver = false ∧
    s.frameStart.frame = if s.frameFresh then s.frame else if s.restartFrame then 0 else s.frame + 1 := by
  cases hfresh : s.frameFresh with
  | true => simp [State.frameStart, hfresh]
  | false => cases hrestart : s.restartFrame <;> simp [State.frameStart, hfresh, hrestart]

/-- The start of slot 0 in a running part. -/
theorem slot_zero_marks {s t : State} (hr : s.mode = .running) (h : execNodeCommandSlot 0 s = .next t) : t.frameOver = false ∧
    t.frame = if s.frameFresh then s.frame else if s.restartFrame then 0 else s.frame + 1 := by
  obtain ⟨-, hover, hframe⟩ := frameStart_marks s
  simp only [execNodeCommandSlot, event_running hr, Host.Outcome.next.injEq] at h
  have hsame := h ▸ commit_same _ _
  exact ⟨hsame.frameOver.trans hover, hsame.frame.trans hframe⟩

theorem slot_pending (n : Fin 8) (s : State) : ∃ t, execNodeCommandSlot n s = .next t ∧ t.pending = s.pending := by
  obtain ⟨t, ht, hs | hs⟩ := event_answers s
    { st := (if n = 0 then s.frameStart else s).openSlot n, acts := if n = 0 ∧ s.restartFrame = true then [.take] else [] }
  · exact ⟨t, ht, hs ▸ rfl⟩
  · refine ⟨t, ht, hs.pending.trans ?_⟩
    show (if n = 0 then s.frameStart else s).pending = s.pending
    split
    · exact (frameStart_marks s).1
    · rfl

/-- The start of any other slot stays in the frame. -/
theorem slot_within {n : Fin 8} (hn : n ≠ 0) (s : State) : ∃ t, execNodeCommandSlot n s = .next t ∧ Within s t := by
  have h := event_within (s := s) (o := { st := s.openSlot n, acts := [] }) ⟨rfl, rfl, rfl⟩
  simpa [execNodeCommandSlot, hn] using h

/-- The intake of slot 7 ends the frame; every other intake stays in it (R24). -/
theorem intake_running {s : State} (hr : s.mode = .running) (n : Fin 8) (r : SlotReply) :
    ∃ t, execSlotIntake n r s = .next t ∧ Same { s with frameOver := decide (n = 7) || s.frameOver } t := by
  have hclose : Same s s.closeSlot := same_of rfl rfl rfl rfl rfl rfl rfl rfl rfl
  have hevent := hclose.trans (commit_same s.closeSlot (s.slotActs n r))
  refine ⟨_, by simp only [execSlotIntake, running_of hr, if_true]; rfl, ?_⟩
  by_cases hn : n = 7
  · simp only [hn, decide_true, Bool.true_or, if_true]
    exact (same_mark (hn ▸ hevent)).trans (same_frameEnd _)
  · simpa only [hn, decide_false, Bool.false_or, if_false] using hevent

theorem intake_stopped {s : State} (hr : s.mode ≠ .running) (n : Fin 8) (r : SlotReply) : execSlotIntake n r s = .next s := by
  simp [execSlotIntake, State.running, hr]

/-! ## Every command -/

/-- The first event of a part that starts leaves the waiting commands alone (R188). -/
theorem boot_pending (s : State) (cause : ResetCause) (k : BitVec 4) : (s.boot cause k).pending = s.pending :=
  (commit_same _ _).pending

/-- Every effect is a next state with the same commands waiting. -/
theorem Effect.completes {s : State} {c : Instr} {r : Host.Outcome State Fault Refusal} (h : Effect s c r) :
    ∃ t, r = .next t ∧ t.pending = s.pending := by
  have hevent : ∀ o : Out, Within s o.st → ∃ t, event s o = .next t ∧ t.pending = s.pending := fun o ho =>
    (event_within ho).imp fun t ht => ⟨ht.1, ht.2.pending⟩
  cases h with
  | powerOn k => exact ⟨_, rfl, boot_pending s _ k⟩
  | release k _ => exact ⟨_, rfl, boot_pending s _ k⟩
  | powerLoss => exact ⟨_, rfl, rfl⟩
  | resetnAssert _ => exact ⟨_, rfl, rfl⟩
  | ignored _ => exact ⟨s, rfl, rfl⟩
  | slot n => exact slot_pending n s
  | intake n r =>
    by_cases hr : s.mode = .running
    · exact (intake_running hr n r).imp fun t ht => ⟨ht.1, ht.2.pending⟩
    · exact ⟨s, intake_stopped hr n r, rfl⟩
  | enterRun => exact hevent _ (within_enterRun s)
  | softReset => exact hevent _ (within_softReset s)
  | commitEnd ok _ => exact hevent _ (within_commitEnd s ok)
  | same o _ ho => exact hevent o ho.within

/-- A running part that goes on running stays in its frame under every command but POWER_ON and the rows of the slots. -/
theorem Effect.within {s t : State} {c : Instr} (h : Effect s c (.next t)) (hr : s.mode = .running) (ht : t.mode = .running)
    (hp : ∀ k, c ≠ .powerOn k) (hc : slotRow c = false) : Within s t := by
  have hevent : ∀ o : Out, Within s o.st → event s o = .next t → Within s t := fun o ho he => by
    obtain ⟨u, hu, hw⟩ := event_within ho
    rw [he] at hu
    cases hu
    exact hw
  generalize hres : Host.Outcome.next t = r at h
  cases h with
  | powerOn k => exact absurd rfl (hp k)
  | release k hm => rw [hr] at hm; cases hm
  | powerLoss => cases hres; cases ht
  | resetnAssert _ => cases hres; cases ht
  | ignored _ => cases hres; exact Within.refl s
  | slot n => cases hc
  | intake n r => cases hc
  | enterRun => exact hevent _ (within_enterRun s) hres.symm
  | softReset => exact hevent _ (within_softReset s) hres.symm
  | commitEnd ok _ => exact hevent _ (within_commitEnd s ok) hres.symm
  | same o _ ho => exact hevent o ho.within hres.symm

/-- A command is the row of a slot's start, of a slot's end, or of no slot. -/
theorem slotRow_cases (c : Instr) : (∃ n, c = .nodeCommandSlot n) ∨ (∃ n r, c = .slotIntake n r) ∨ slotRow c = false := by
  unfold slotRow
  split
  · exact .inl ⟨_, rfl⟩
  · exact .inr (.inl ⟨_, _, rfl⟩)
  · exact .inr (.inr rfl)

/-! ## The timers' rows (R1) -/

/-- Before the frame end a timer's row only lets an idle transmitter take its next frame (log entry 49). -/
theorem expiry_early_quiet {s : State} (h : Quiet s) (ho : s.frameOver = false) (o : Out) : expiry s o = .next s.sending := by
  rw [expiry_early ho, event_quiet h.running h]

end Sys2Proof.Machine

namespace Sys2Proof

open Machine

/-- Settles O1, by the two cases of the queue. -/
theorem stepRunsFront : Obligations.StepRunsFront := ⟨fun _ _ _ => step_cons, fun _ => step_nil⟩

/-- Settles O2, by the effect of each command. -/
theorem everyCommandCompletes : Obligations.EveryCommandCompletes := fun c s => (exec_effect c s).completes

/-- Settles O8: of the slots' rows only slot 0 starts a frame and only the intake of slot 7 ends one, and no other command leaves its
frame; the timers' rows are expiries. -/
theorem frameNumbersCountFrames : Obligations.FrameNumbersCountFrames := by
  refine ⟨fun c s t hr he ht => ?_, fun c s hq ho hc => ?_⟩
  · rcases slotRow_cases c with ⟨n, rfl⟩ | ⟨n, r, rfl⟩ | hslot
    · refine ⟨fun h => ?_, fun h _ => ?_⟩
      · cases h
        exact slot_zero_marks hr he
      · obtain ⟨u, hu, hw⟩ := slot_within (n := n) (fun hn => h (hn ▸ rfl)) s
        cases he.symm.trans hu
        exact ⟨hw.frame, nofun, fun _ => hw.frameOver⟩
    · obtain ⟨u, hu, hs⟩ := intake_running hr n r
      cases he.symm.trans hu
      refine ⟨nofun, fun _ _ => ⟨hs.frame, fun ⟨q, h⟩ => ?_, fun h => ?_⟩⟩
      · cases h
        exact hs.frameOver
      · have hn : n ≠ 7 := fun hn => h r (hn ▸ rfl)
        simpa [hn] using hs.frameOver
    · refine ⟨fun h => (by subst h; cases hslot), fun _ hp => ?_⟩
      have hw := Effect.within (he ▸ exec_effect c s) hr ht hp hslot
      exact ⟨hw.frame, fun ⟨q, h⟩ => (by subst h; cases hslot), fun _ => hw.frameOver⟩
  · rcases hc with hc | ⟨d, rfl⟩ | ⟨u, rfl | rfl⟩ | ⟨r, rfl | rfl⟩
    · simp only [List.mem_cons, List.not_mem_nil, or_false] at hc
      rcases hc with rfl | rfl | rfl | rfl | rfl | rfl | rfl | rfl | rfl | rfl | rfl <;> exact expiry_early_quiet hq ho _
    all_goals exact expiry_early_quiet hq ho _

end Sys2Proof
end

section
/-! SUPPORT. The speed windows of channels without a motion record (R42, R43). -/

namespace Sys2Proof.Machine

theorem windowEnd_idle_due {s : State} {c : Fin 16} (hm : (s.chan c).motion = none)
    (h : s.par.speedWindow ≤ elapsed s.frame (s.chan c).idleStart) :
    s.windowEnd c = .done (s.setChan c { s.chan c with
      speed := roundDiv (((s.chan c).position - (s.chan c).idlePos) * 200) (elapsed s.frame (s.chan c).idleStart)
      idleStart := s.frame, idlePos := (s.chan c).position }) := by
  unfold State.windowEnd
  simp only [hm, h, if_true]
  rfl

theorem windowEnd_idle_early {s : State} {c : Fin 16} (hm : (s.chan c).motion = none)
    (h : elapsed s.frame (s.chan c).idleStart < s.par.speedWindow) : s.windowEnd c = .done s := by
  unfold State.windowEnd
  simp only [hm, Nat.not_le.mpr h, if_false]

/-- At the frame end the row of a populated channel's window is the event of that window. -/
theorem exec_speedWindowEnd {s : State} {c : Fin 16} (ho : s.frameOver = true) (hc : s.populated c = true) :
    exec (.speedWindowEnd c) s = event s (s.windowEnd c) := by
  simp only [exec, execSpeedWindowEnd, hc, if_true, expiry_over ho]

end Sys2Proof.Machine

namespace Sys2Proof

open Machine

/-- Settles O15: the window's record changes neither rest positions nor motion records, so the event ends with it. -/
theorem idleWindowGivesSpeed : Obligations.IdleWindowGivesSpeed := by
  intro c s hs ho hc hm
  rw [exec_speedWindowEnd ho hc]
  refine ⟨fun hdue => ?_, fun hearly => ?_⟩
  · rw [windowEnd_idle_due hm hdue]
    exact event_done hs.running (still_setChan hs.still ⟨rfl, rfl, rfl, rfl, rfl, rfl⟩ id) (parked_setChan hs.parked c _)
  · rw [windowEnd_idle_early hm hearly]
    exact event_done hs.running hs.still hs.parked

end Sys2Proof
end

section
/-! SUPPORT. The panel receiver between complete frames: one byte, one gap (R170). -/

namespace Sys2Proof.Machine

theorem complete_of_not_body {p : Pli} (h : p.rx ≠ .body) : p.complete = false := by simp [Pli.complete, h]

theorem complete_of_short {p : Pli} (h : p.rxBytes.length < p.rxLen + 2) : p.complete = false := by
  simp [Pli.complete]
  omega

/-- A partial frame that is discarded is counted, and the receiver hunts (R170). -/
theorem broken_eq (p : Pli) : p.broken =
    { p with rx := .hunt, rxLen := 0, rxBytes := [], gapStart := none, brokenFrames := min 65535 (p.brokenFrames + 1) } := by
  simp only [Pli.broken, Pli.hunt, sat_min]

/-! ## One byte -/

theorem byte_hunt {p : Pli} (h : p.rx = .hunt) (now : FrameNo) (v : Byte) (e : Bool) :
    p.byte now ⟨v, e⟩ = if v = 0xA5#8 ∧ e = false then { p with rx := .length, gapStart := some now } else p := by
  simp only [Pli.byte, h]

theorem byte_length {p : Pli} (h : p.rx = .length) (now : FrameNo) (v : Byte) :
    p.byte now ⟨v, false⟩ = if 2 ≤ v.toNat ∧ v.toNat ≤ 60 then
        { p with rx := .body, rxLen := v.toNat, rxBytes := [], gapStart := some now }
      else { p with rx := .hunt, rxLen := 0, rxBytes := [], gapStart := none, lengthErrors := min 65535 (p.lengthErrors + 1) } := by
  simp only [Pli.byte, h, Bool.false_eq_true, if_false, Pli.hunt, sat_min]

theorem byte_body {p : Pli} (h : p.rx = .body) (now : FrameNo) (v : Byte) :
    p.byte now ⟨v, false⟩ = { p with rxBytes := p.rxBytes ++ [v], gapStart := some now } := by
  simp only [Pli.byte, h, Bool.false_eq_true, if_false]

/-- A framing error inside a frame discards it (R170). -/
theorem byte_framing {p : Pli} (h : p.rx ≠ .hunt) (now : FrameNo) (v : Byte) : p.byte now ⟨v, true⟩ = p.broken := by
  cases hx : p.rx with
  | hunt => exact absurd hx h
  | length => simp only [Pli.byte, hx, if_true]
  | body => simp only [Pli.byte, hx, if_true]

/-- A byte with no complete frame outstanding is examined, and nothing else happens. -/
theorem exec_byte {s : State} (hq : Quiet s) (hc : s.pli.complete = false) {b : RxByte} {q : Pli} (hb : s.pli.byte s.frame b = q) :
    exec (.panelByteReceive b) s = .next (State.sending { s with pli := q }) := by
  have hj : s.judgeFrame = .done s := by simp [State.judgeFrame, hc]
  simp only [exec, execPanelByteReceive, hj]
  exact hb ▸ event_pli hq _

/-! ## The gap -/

/-- The gap timer of a partial frame has run: 20 ms are 4 frames (R1). -/
theorem gapDue_iff {p : Pli} (h : p.rx ≠ .hunt) (now : FrameNo) :
    p.gapDue now = true ↔ ∃ f, p.gapStart = some f ∧ 4 ≤ (now - f).toNat := by
  cases hg : p.gapStart with
  | none => simp [Pli.gapDue, hg]
  | some f =>
    have hdue : p.gapDue now = decide (framesOf 20 ≤ elapsed now f) := by
      simp only [Pli.gapDue, hg, ne_eq, h, not_false_eq_true, decide_true, Bool.true_and]
    rw [hdue, decide_eq_true_iff]
    simp [framesOf, elapsed]

theorem gapDue_hunt {p : Pli} (h : p.rx = .hunt) (now : FrameNo) : p.gapDue now = false := by simp [Pli.gapDue, h]

/-- The row of the gap timer with no complete frame outstanding. -/
theorem exec_gap {s : State} (hq : Quiet s) (hc : s.pli.complete = false) {q : Pli}
    (hg : (if s.frameOver && s.pli.gapDue s.frame then s.pli.broken else s.pli) = q) :
    exec .panelGapTimeout s = .next (State.sending { s with pli := q }) := by
  subst hg
  simp only [exec, execPanelGapTimeout, hc, Bool.false_eq_true, if_false]
  by_cases ho : s.frameOver = true
  · have hdue : (s.frameOver && s.pli.gapDue s.frame) = s.pli.gapDue s.frame := by rw [ho, Bool.true_and]
    rw [expiry_over ho, hdue]
    split
    · exact event_pli hq s.pli.broken
    · exact event_pli hq s.pli
  · have ho : s.frameOver = false := Bool.eq_false_iff.mpr ho
    rw [expiry_early_quiet hq ho, if_neg (by simp [ho])]

end Sys2Proof.Machine

namespace Sys2Proof

open Machine

/-- Settles O39, row by row of the table of R170. -/
theorem receiverFollowsTheTable : Obligations.ReceiverFollowsTheTable := by
  intro s hq
  have hnotBody : s.pli.rx = .hunt ∨ s.pli.rx = .length → s.pli.complete = false := fun h =>
    complete_of_not_body (by rcases h with h | h <;> simp [h])
  refine ⟨fun hx v e => ?hunt, fun hx => ⟨fun v => ?lengthBroken, fun v => ?length⟩,
    fun hx hl => ⟨fun v => ?bodyBroken, fun v => ?body⟩, fun hx => ?gapHunt, fun hx => ?gap⟩
  case hunt => exact exec_byte hq (hnotBody (.inl hx)) (byte_hunt hx _ v e)
  case lengthBroken => exact exec_byte hq (hnotBody (.inr hx)) ((byte_framing (by simp [hx]) _ v).trans (broken_eq _))
  case length => exact exec_byte hq (hnotBody (.inr hx)) (byte_length hx _ v)
  case bodyBroken => exact exec_byte hq (complete_of_short hl) ((byte_framing (by simp [hx]) _ v).trans (broken_eq _))
  case body => exact exec_byte hq (complete_of_short hl) (byte_body hx _ v)
  case gapHunt => exact exec_gap hq (hnotBody (.inl hx)) (by rw [gapDue_hunt hx, Bool.and_false]; rfl)
  case gap =>
    have hpartial : s.pli.complete = false := hx.elim (fun h => hnotBody (.inr h)) fun h => complete_of_short h.2
    have hhunt : s.pli.rx ≠ .hunt := by rcases hx with h | ⟨h, -⟩ <;> simp [h]
    have hdue : (s.frameOver && s.pli.gapDue s.frame) = true ↔
        s.frameOver = true ∧ ∃ f, s.pli.gapStart = some f ∧ 4 ≤ (s.frame - f).toNat := by
      rw [Bool.and_eq_true, gapDue_iff hhunt]
    exact ⟨fun h => exec_gap hq hpartial ((if_pos (hdue.mpr h)).trans (broken_eq _)),
      fun h => exec_gap hq hpartial (if_neg (mt hdue.mp h))⟩

end Sys2Proof
end

section
/-! SUPPORT. The lines and command images that follow the records (R22, R26, R72, R117, R147): `finish` brings them in step, and
what an image may then drive. -/

namespace Sys2Proof.Machine

/-! ## What the lines depend on -/

theorem skewOf_chans {s t : State} (hc : t.chc.chans = s.chc.chans) (r : Fin 4) : t.skewOf r = s.skewOf r := by
  simp only [State.skewOf, State.chan, hc]

theorem skewValidOf_chans {s t : State} (hc : t.chc.chans = s.chc.chans) (r : Fin 4) : t.skewValidOf r = s.skewValidOf r := by
  simp only [State.skewValidOf, State.chan, hc]

theorem driveOf_rooms {s t : State} (hc : t.chc.chans = s.chc.chans) (hp : t.sst = s.sst)
    (hr : ∀ r, (t.room r).type = (s.room r).type) (c : Fin 16) : t.driveOf c = s.driveOf c := by
  unfold State.driveOf
  simp only [State.chan, State.motorPar, hc, hp, motorDuty_rooms hc hp hr]

/-- A command image depends on no command image. -/
theorem imageRule_nodes {s t : State} (hc : t.chc.chans = s.chc.chans) (hp : t.sst = s.sst)
    (hr : ∀ r, (t.room r).type = (s.room r).type) {n : Fin 8} {i : CmdImage} (hn : t.node n = { s.node n with image := i }) :
    t.imageRule n = s.imageRule n := by
  unfold State.imageRule
  simp only [hn, driveOf_rooms hc hp hr]
  rfl

theorem withSkew_idem {s t : State} (hc : t.chc.chans = s.chc.chans) {r : Fin 4} (hr : t.room r = s.withSkew r) :
    t.withSkew r = t.room r := by
  unfold State.withSkew
  simp only [hr, withSkew_type, skewOf_chans hc, skewValidOf_chans hc]
  by_cases h : (s.room r).type = .twin <;> simp [State.withSkew, h]

/-- The end of an event brings the lines and the images in step with the records. -/
theorem lines_finish (s : State) : Lines (finish s) where
  skew r := withSkew_idem (s := s) (t := finish s) rfl (finish_room s r)
  pump := rfl
  travel := rfl
  images n := by
    have hrule := imageRule_nodes (s := s) (t := finish s) rfl rfl (fun r => by rw [finish_room, withSkew_type]) (finish_node s n)
    rw [hrule, finish_node]

theorem lines_commit (s : State) (l : List Act) : Lines (commit s l) := lines_finish _

theorem lines_event {s t : State} {o : Out} (h : Lines s) (he : event s o = .next t) : Lines t := by
  unfold event at he
  split at he <;> cases he
  · exact lines_commit _ _
  · exact h

/-- A part with nothing populated drives nothing. -/
theorem lines_blank (m : Mode) (c : ResetCause) (im : Image) (p : List Instr) (n : Nat) : Lines (State.blank m c im p n) where
  skew r := by simp [State.withSkew, State.room, State.blank, Vector.get_eq_getElem, Room.reset]
  pump := rfl
  travel := rfl
  images k := by simp [State.imageRule, State.node, State.blank, Vector.get_eq_getElem, Node.reset]

/-! ## The end of a frame (R74, R120) -/

/-- A state that differs in the counts of its rooms' windows and in the overdraw count alone. -/
theorem lines_counts {s t : State} (h : Lines s) (hroom : ∀ r, ∃ k o, t.room r = { s.room r with counted := k, overLimit := o })
    (ht : t = { s with chc := { s.chc with rooms := t.chc.rooms }, frameOver := t.frameOver
                       sgu := { s.sgu with overdraw := t.sgu.overdraw } }) : Lines t := by
  have hc : t.chc.chans = s.chc.chans := by rw [ht]
  have hu : t.chc.units = s.chc.units := by rw [ht]
  have hp : t.sst = s.sst := by rw [ht]
  have hn : t.nlc = s.nlc := by rw [ht]
  have htype : ∀ r, (t.room r).type = (s.room r).type := fun r => by obtain ⟨k, o, e⟩ := hroom r; rw [e]
  refine ⟨fun r => ?_, ?_, ?_, fun n => ?_⟩
  · obtain ⟨k, o, e⟩ := hroom r
    have := h.skew r
    unfold State.withSkew at this ⊢
    rw [e, skewOf_chans hc, skewValidOf_chans hc]
    by_cases htw : (s.room r).type = .twin
    · simp only [htw, if_true] at this ⊢
      rw [← this]
    · simp only [htw, if_false]
  · rw [ht]; exact h.pump
  · rw [ht]; exact h.travel
  · rw [imageRule_rooms hc hp hn htype, State.node, hn]; exact h.images n

theorem countRack_room (s : State) (q r : Fin 4) : ∃ k o, (s.countRack q).room r = { s.room r with counted := k, overLimit := o } := by
  have hsame : ∃ k o, s.room r = { s.room r with counted := k, overLimit := o } := ⟨_, _, rfl⟩
  unfold State.countRack
  simp only []
  split
  · exact hsame
  · split
    · rw [State.setRoom_room]
      split
      · rename_i e; subst e; exact ⟨_, _, rfl⟩
      · exact hsame
    · exact hsame

theorem countRack_eq (s : State) (q : Fin 4) :
    s.countRack q = { s with chc := { s.chc with rooms := (s.countRack q).chc.rooms } } := by
  unfold State.countRack
  simp only []
  repeat' split
  all_goals rfl

theorem lines_countRack {s : State} (h : Lines s) (q : Fin 4) : Lines (s.countRack q) :=
  lines_counts h (countRack_room s q) (by rw [countRack_eq])

theorem lines_countRacks : ∀ (l : List (Fin 4)) {s : State}, Lines s → Lines (l.foldl State.countRack s)
  | [], _, h => h
  | q :: l, _, h => lines_countRacks l (lines_countRack h q)

theorem lines_mark {s : State} (h : Lines s) (n : Nat) :
    Lines { s with sgu := { s.sgu with overdraw := n }, frameOver := true } :=
  lines_counts h (fun _ => ⟨_, _, rfl⟩) rfl

theorem lines_frameEnd {s : State} (h : Lines s) : Lines s.frameEnd := by
  have hrack := lines_countRacks allRooms h
  unfold State.frameEnd State.countOverdraw
  generalize allRooms.foldl State.countRack s = t at hrack ⊢
  exact lines_mark hrack _

/-! ## Every step -/

theorem lines_intake {s t : State} (h : Lines s) {n : Fin 8} {r : SlotReply} (he : execSlotIntake n r s = .next t) : Lines t := by
  unfold execSlotIntake at he
  split at he <;> cases he
  · split
    · exact lines_frameEnd (lines_commit _ _)
    · exact lines_commit _ _
  · exact h

theorem Effect.lines {s t : State} {c : Instr} (h : Effect s c (.next t)) (hs : Lines s) : Lines t := by
  generalize hres : Host.Outcome.next t = r at h
  cases h with
  | powerOn k => cases hres; exact lines_commit _ _
  | release k _ => cases hres; exact lines_commit _ _
  | powerLoss => cases hres; exact lines_blank _ _ _ _ _
  | resetnAssert _ => cases hres; exact lines_blank _ _ _ _ _
  | ignored _ => cases hres; exact hs
  | slot n => exact lines_event hs hres.symm
  | intake n r => exact lines_intake hs hres.symm
  | enterRun => exact lines_event hs hres.symm
  | softReset => exact lines_event hs hres.symm
  | commitEnd ok _ => exact lines_event hs hres.symm
  | same o _ _ => exact lines_event hs hres.symm

theorem lines_pending {s : State} (h : Lines s) (l : List Instr) : Lines { s with pending := l } :=
  ⟨h.skew, h.pump, h.travel, h.images⟩

theorem step_lines {s t : State} (h : Lines s) (he : step s = .next t) : Lines t := by
  cases hp : s.pending with
  | nil => rw [step_nil hp] at he; cases he; exact h
  | cons c rest =>
    rw [step_cons hp] at he
    exact Effect.lines (he ▸ exec_effect c _) (lines_pending h rest)

/-! ## What an output may do (R22) -/

/-- What a command image may give the output of a channel (R22). -/
structure State.Drives (s : State) (o : OutCmd) (c : Fin 16) : Prop where
  duty : o.duty ≤ (s.motorPar c).runDuty
  moving : o.drive = .extend ∨ o.drive = .retract → (s.chan c).state = .moving

/-- An output that is OFF or in HOLD has no duty and drives nothing (TABLE 1-9). -/
theorem drives_still {s : State} {c : Fin 16} {d : Drive} (h : d = .off ∨ d = .hold) : s.Drives { drive := d, duty := 0 } c :=
  ⟨Nat.zero_le _, fun k => by rcases h with rfl | rfl <;> simp at k⟩

theorem driveOf_drives (s : State) (c : Fin 16) : s.Drives (s.driveOf c) c := by
  have off : s.Drives .off c := drives_still (.inl rfl)
  have hold : s.Drives { drive := .hold, duty := 0 } c := drives_still (.inr rfl)
  unfold State.driveOf
  simp only []
  cases hk : (s.chan c).kind <;> cases hst : (s.chan c).state <;> cases hm : (s.chan c).motion <;>
    simp only [] <;> first | exact off | exact hold | skip
  case jack.moving.some m => exact ⟨Nat.zero_le _, fun _ => hst⟩
  all_goals
    split
    · exact hold
    · exact ⟨Nat.min_le_right _ _, fun _ => hst⟩

theorem imageRule_drives (s : State) (n : Fin 8) :
    s.Drives (s.imageRule n).outA (chanA n) ∧ s.Drives (s.imageRule n).outB (chanB n) := by
  have off : ∀ c, s.Drives OutCmd.off c := fun c => drives_still (.inl rfl)
  unfold State.imageRule
  simp only []
  split
  · exact ⟨driveOf_drives s _, driveOf_drives s _⟩
  all_goals exact ⟨off _, off _⟩

end Sys2Proof.Machine

namespace Sys2Proof

open Machine

/-- Settles O56: every event ends in `finish`, which sets the lines and images from the records, and the end of a frame changes
counts alone; TABLE 1-9 gives a duty to a MOVING motor channel only. -/
theorem stepsKeepTheLines : Obligations.StepsKeepTheLines := by
  refine ⟨fun s t h he => step_lines h he, fun s n h => ?_⟩
  have hd := imageRule_drives s n
  rw [← h.images n] at hd
  exact ⟨⟨hd.1.duty, hd.1.moving⟩, ⟨hd.2.duty, hd.2.moving⟩⟩

end Sys2Proof
end

section
/-! SUPPORT. The part as LOAD starts it: population from the straps, parameters from the image (R3, R33, R182, R186, R188). -/

namespace Sys2Proof.Machine

/-- The part as LOAD leaves it, before STORE_INVALID is raised. -/
def State.loaded (s : State) (cause : ResetCause) (straps : BitVec 4) : State := ((s.blanked .running cause).load straps).st

section
variable (s : State) (cause : ResetCause) (straps : BitVec 4)

theorem loaded_chan (c : Fin 16) : (s.loaded cause straps).chan c = Channel.populate straps c := by
  simp [State.chan, State.loaded, State.load, Vector.get_eq_getElem]

theorem loaded_room (r : Fin 4) : (s.loaded cause straps).room r = Room.populate straps r := by
  simp [State.room, State.loaded, State.load, Vector.get_eq_getElem]

theorem loaded_node (n : Fin 8) : (s.loaded cause straps).node n = Node.populate straps n := by
  simp [State.node, State.loaded, State.load, Vector.get_eq_getElem]

theorem loaded_unit (u : UnitId) : (s.loaded cause straps).unit u = .reset := by
  simp [State.unit, State.loaded, State.load, State.blanked, State.blank, Vector.get_eq_getElem]

/-- No position is known after LOAD, so the awning does not read STOWED (R6). -/
theorem loaded_awning : (s.loaded cause straps).awningStowed = false := by
  have hjack : (Channel.populate straps 14).isJack = false := by
    simp only [Channel.isJack, Channel.populate, layoutChan]
    by_cases h : straps[1] = true <;> simp [roomOf, h]
  have hrest : (s.loaded cause straps).rest 14 = .unknown := by
    unfold State.rest Channel.rest
    rw [loaded_chan, hjack, (populate_facts straps 14).2.1]
    rfl
  simp [State.awningStowed, hrest]

theorem loaded_still : Still (s.loaded cause straps) :=
  still_of_none (loaded_awning s cause straps) fun c => by rw [loaded_chan]; exact (populate_facts straps c).1

theorem loaded_parked : Parked (s.loaded cause straps) := ⟨fun _ => rfl, rfl⟩

/-- Frame 0 begins with what LOAD leaves, and with STORE_INVALID when the image's CRC is bad (R186, R188). -/
theorem boot_eq : s.boot cause straps = finish (if s.keptImage.crcGood then s.loaded cause straps
    else (s.loaded cause straps).raised .storeInvalid .coach) := by
  have hacts : ((s.blanked .running cause).load straps).acts = if s.keptImage.crcGood then [] else [.raise .storeInvalid .coach] := rfl
  have hstill := loaded_still s cause straps
  have hparked := loaded_parked s cause straps
  show commit (s.loaded cause straps) ((s.blanked .running cause).load straps).acts = _
  rw [hacts]
  split
  · exact commit_parked hstill hparked
  · exact commit_does (does_raise_warn rfl) (by omega) (still_raised hstill (by decide) _) (parked_raised hparked _ _) nofun

/-- A populated room's skew fields are those of ends at position 0 that are not known (R117). -/
theorem populate_withSkew {t : State} {straps : BitVec 4} (hc : ∀ c, t.chan c = Channel.populate straps c)
    (hr : ∀ r, t.room r = Room.populate straps r) (r : Fin 4) : t.withSkew r = Room.populate straps r := by
  have hskew : t.skewOf r = 0 := by simp [State.skewOf, hc, Channel.populate, Channel.reset]
  have hvalid : t.skewValidOf r = false := by simp [State.skewValidOf, hc, (populate_facts straps _).2.1]
  unfold State.withSkew
  rw [hr, hskew, hvalid]
  simp only []
  split <;> rfl

/-- A node that the layout uses is asked for its descriptor's first byte; the others are sent nothing (R33, R37). -/
theorem populate_image {t : State} {straps : BitVec 4} {n : Fin 8} (hn : t.node n = Node.populate straps n) :
    t.imageRule n = if (Node.populate straps n).state = .discovering then { CmdImage.off with ctl := .reqDesc } else .off := by
  unfold State.imageRule
  rw [hn]
  unfold Node.populate
  split <;> rfl

/-- The part as started, from a fault list and a link that LOAD may have moved. -/
theorem started_finish {f : Flt} {p : Pli} (hf : f = if s.keptImage.crcGood then .reset else (Flt.reset.raise .storeInvalid .coach 0).1)
    (hcause : p.resetCause = cause ∧ p.restartCause = cause)
    (hlink : p.rx = .hunt ∧ p.holding = [] ∧ p.slot = none ∧ p.silenceStart = none ∧ p.silent = false ∧
      p.crcErrors = 0 ∧ p.lengthErrors = 0 ∧ p.brokenFrames = 0 ∧ p.overruns = 0) :
    Started s.keptImage cause straps (finish { s.loaded cause straps with flt := f, pli := p }) where
  mode := rfl
  frame := rfl
  phase := rfl
  layout := rfl
  params := rfl
  outcome := rfl
  image := rfl
  commit := rfl
  chans c := loaded_chan s cause straps c
  rooms r := (finish_room _ r).trans (populate_withSkew (loaded_chan s cause straps) (loaded_room s cause straps) r)
  units u := loaded_unit s cause straps u
  nodes n := by
    rw [finish_node]
    have hnode : ({ s.loaded cause straps with flt := f, pli := p } : State).node n = _ := loaded_node s cause straps n
    simp only [hnode, and_self]
  images n := by
    rw [finish_node]
    exact populate_image (loaded_node s cause straps n)
  supply := rfl
  attitude := rfl
  level := rfl
  guard := rfl
  inputs := rfl
  faults := hf
  causes := by simpa only [finish_pli, transmitted_resetCause, transmitted_restartCause] using hcause
  link := by
    simpa only [finish_pli, transmitted_rx, transmitted_holding, transmitted_slot, transmitted_silenceStart, transmitted_silent,
      transmitted_crcErrors, transmitted_lengthErrors, transmitted_brokenFrames, transmitted_overruns] using hlink

theorem boot_started : Started s.keptImage cause straps (s.boot cause straps) ∧ (s.boot cause straps).freeCount = s.freeCount := by
  rw [boot_eq]
  split
  · rename_i hgood
    refine ⟨started_finish s cause straps (f := .reset) (p := .reset cause) (by rw [if_pos hgood]) ⟨rfl, rfl⟩ ?_, rfl⟩
    exact ⟨rfl, rfl, rfl, rfl, rfl, rfl, rfl, rfl, rfl⟩
  · rename_i hbad
    refine ⟨started_finish s cause straps (f := (Flt.reset.raise .storeInvalid .coach 0).1)
      (p := ((s.loaded cause straps).raised .storeInvalid .coach).pli) (by rw [if_neg hbad]) ?_ ?_, rfl⟩
    · simp only [raised_resetCause, raised_restartCause]
      exact ⟨rfl, rfl⟩
    · simp only [raised_rx, raised_holding, raised_slot, raised_silenceStart, raised_silent, raised_crcErrors, raised_lengthErrors,
        raised_brokenFrames, raised_overruns]
      exact ⟨rfl, rfl, rfl, rfl, rfl, rfl, rfl, rfl, rfl⟩
end

end Sys2Proof.Machine

namespace Sys2Proof

open Machine

/-- Settles O4: both resets boot, and the first event of a part that boots only raises STORE_INVALID where the CRC is bad. -/
theorem resetsStartThePart : Obligations.ResetsStartThePart := by
  intro straps s
  refine ⟨⟨_, rfl, boot_started s .power straps⟩, fun hm => ⟨_, ?_, boot_started s .line straps⟩⟩
  simp only [exec, execResetnRelease, hm, if_true]

end Sys2Proof
end

section
/-! SUPPORT. What the layout populates under every command (R3, R182, R190). -/

namespace Sys2Proof.Machine

/-- From s to t the layout code and what the layout populates are as they were. -/
structure LayoutKept (s t : State) : Prop where
  code : t.sst.layoutCode = s.sst.layoutCode
  chans : ∀ c, (t.chan c).kind = (s.chan c).kind ∧ (t.chan c).role = (s.chan c).role
  rooms : ∀ r, (t.room r).type = (s.room r).type

theorem Same.layoutKept {s t : State} (h : Same s t) : LayoutKept s t := ⟨h.layout, h.chans, h.rooms⟩

theorem LayoutKept.refl (s : State) : LayoutKept s s := (Same.refl s).layoutKept

theorem LayoutKept.trans {s t u : State} (h : LayoutKept s t) (k : LayoutKept t u) : LayoutKept s u :=
  ⟨k.code.trans h.code, fun c => ⟨(k.chans c).1.trans (h.chans c).1, (k.chans c).2.trans (h.chans c).2⟩,
    fun r => (k.rooms r).trans (h.rooms r)⟩

/-- A change of every channel record that leaves kind and role. -/
theorem layoutKept_mapChans (s : State) (f : Channel → Channel) (h : ∀ x, (f x).kind = x.kind ∧ (f x).role = x.role) :
    LayoutKept s (s.mapChans f) :=
  ⟨rfl, fun c => by rw [State.mapChans_chan]; exact h _, fun _ => rfl⟩

theorem layoutKept_event {s t : State} {o : Out} (h : LayoutKept s o.st) (he : event s o = .next t) : LayoutKept s t := by
  obtain ⟨u, hu, hs | hs⟩ := event_answers s o
  · cases he.symm.trans hu
    exact hs ▸ LayoutKept.refl s
  · cases he.symm.trans hu
    exact h.trans hs.layoutKept

theorem layoutKept_frameStart (s : State) : LayoutKept s s.frameStart := by
  have hsame : ∀ t : State, t.sst.layoutCode = s.sst.layoutCode → t.chc = s.chc → LayoutKept s t := fun t hcode hchc =>
    ⟨hcode, fun c => by simp [State.chan, hchc], fun r => by simp [State.room, hchc]⟩
  unfold State.frameStart
  simp only []
  split
  · exact hsame _ rfl rfl
  · split
    · refine LayoutKept.trans ?_ (layoutKept_mapChans _ _ ?_)
      · exact hsame _ rfl rfl
      · exact fun x => ⟨rfl, rfl⟩
    · exact hsame _ rfl rfl

theorem layoutKept_openSlot (s : State) (n : Fin 8) : LayoutKept s (s.openSlot n) := ⟨rfl, fun _ => ⟨rfl, rfl⟩, fun _ => rfl⟩

theorem layoutKept_slot {s t : State} {n : Fin 8} (he : execNodeCommandSlot n s = .next t) : LayoutKept s t := by
  refine layoutKept_event ?_ he
  refine LayoutKept.trans ?_ (layoutKept_openSlot _ n)
  split
  · exact layoutKept_frameStart s
  · exact LayoutKept.refl s

theorem layoutKept_intake {s t : State} {n : Fin 8} {r : SlotReply} (he : execSlotIntake n r s = .next t) : LayoutKept s t := by
  by_cases hr : s.mode = .running
  · obtain ⟨u, hu, hs⟩ := intake_running hr n r
    cases he.symm.trans hu
    exact ⟨hs.layout, hs.chans, hs.rooms⟩
  · cases he.symm.trans (intake_stopped hr n r)
    exact LayoutKept.refl s

theorem layoutKept_commitEnd (s : State) (ok : Bool) : LayoutKept s (s.commitEnd ok).st := by
  unfold State.commitEnd
  split
  · exact LayoutKept.refl s
  · exact ⟨rfl, fun _ => ⟨rfl, rfl⟩, fun _ => rfl⟩

/-- The soft reset keeps the layout code and the population (R190, TABLE 1-2, TABLE 7-2). -/
theorem layoutKept_softReset (s : State) : LayoutKept s s.softReset.st := by
  let forgotten := (allNodes.filter fun n => decide ((s.node n).state = .mismatch)).foldl State.forgetMotors s
  have hforget : LayoutKept s forgotten := (same_foldl State.forgetMotors same_forgetMotors _ s).layoutKept
  have hchans : LayoutKept forgotten (forgotten.mapChans (Channel.softReset s.frame)) :=
    layoutKept_mapChans _ _ fun x => ⟨rfl, rfl⟩
  have hroom : ∀ r, s.softReset.st.room r = (forgotten.room r).endWork := fun r =>
    State.mapRooms_room ((forgotten.mapChans (Channel.softReset s.frame)).mapNodes Node.softReset) Room.endWork r
  exact (hforget.trans hchans).trans ⟨rfl, fun _ => ⟨rfl, rfl⟩, fun r => by rw [hroom]; rfl⟩

/-- A running part that goes on running keeps its layout under every command but POWER_ON. -/
theorem Effect.layoutKept {s t : State} {c : Instr} (h : Effect s c (.next t)) (hr : s.mode = .running) (ht : t.mode = .running)
    (hp : ∀ k, c ≠ .powerOn k) : LayoutKept s t := by
  generalize hres : Host.Outcome.next t = r at h
  cases h with
  | powerOn k => exact absurd rfl (hp k)
  | release k hm => rw [hr] at hm; cases hm
  | powerLoss => cases hres; cases ht
  | resetnAssert _ => cases hres; cases ht
  | ignored _ => cases hres; exact LayoutKept.refl s
  | slot n => exact layoutKept_slot hres.symm
  | intake n r => exact layoutKept_intake hres.symm
  | enterRun => exact layoutKept_event (o := s.enterRun) ⟨rfl, fun _ => ⟨rfl, rfl⟩, fun _ => rfl⟩ hres.symm
  | softReset => exact layoutKept_event (layoutKept_softReset s) hres.symm
  | commitEnd ok _ => exact layoutKept_event (layoutKept_commitEnd s ok) hres.symm
  | same o _ ho => exact layoutKept_event ho.layoutKept hres.symm

end Sys2Proof.Machine

namespace Sys2Proof

open Machine

/-- Settles O9, by the effect of each command: no act changes the layout, and of the effects only the resets populate. -/
theorem layoutStands : Obligations.LayoutStands := by
  intro c s t hr he ht hp
  have hkept := Effect.layoutKept (he ▸ exec_effect c s) hr ht hp
  exact ⟨hkept.code, hkept.chans, hkept.rooms⟩

end Sys2Proof
end

section
/-! SUPPORT. The end of a unit's work, whole, and the attendance deadline that ends a room's or the awning's (R15, R19, R20, R71). -/

namespace Sys2Proof.Machine

/-- The end of the motion of a channel that is not DISABLED (R19, R43). -/
theorem endMotion_moving {x : Channel} (hm : x.motion ≠ none) (hd : x.state ≠ .disabled) (now : FrameNo) :
    (x.endMotion now).unwait = { x with
      motion := none, state := if x.lock = none then .idle else .faulted, idleStart := now, idlePos := x.position } := by
  obtain ⟨m, hm⟩ := Option.ne_none_iff_exists'.mp hm
  unfold Channel.endMotion Channel.unwait
  simp only [hm, if_neg hd]
  cases x.lock <;> simp

/-- A deadline that has come, as a test and as the statements write it (R24). -/
theorem reached_iff (now d : FrameNo) : reached now d = true ↔ (now - d).toNat < 2147483648 := decide_eq_true_iff

/-- What expires at a room's or the awning's deadline (R15). -/
def State.expired (s : State) (u : UnitId) : Prop :=
  (∃ p ∈ (s.unit u).pending, ∃ f, p.deadline = some f ∧ (s.frame - f).toNat < 2147483648) ∨
    ∃ c ∈ s.unitChans u, ∃ m, (s.chan c).motion = some m ∧ m.attended = true ∧
      ∃ f, m.deadline = some f ∧ (s.frame - f).toNat < 2147483648

open Classical in
theorem expire_unit {s : State} {u : UnitId} (hu : u ≠ .jacks) (ho : (s.unit u).origin = some .user) :
    s.expire u = if s.expired u then [.endUnits [ending u .released .none]] else [] := by
  have hdue : ∀ d : Option FrameNo, (match d with | some f => reached s.frame f | none => false) = true ↔
      ∃ f, d = some f ∧ (s.frame - f).toNat < 2147483648 := fun d => by cases d <;> simp [reached_iff]
  have hmoves : ∀ c, (match (s.chan c).motion with
      | some m => m.attended && (match m.deadline with | some f => reached s.frame f | none => false)
      | none => false) = true ↔ ∃ m, (s.chan c).motion = some m ∧ m.attended = true ∧
        ∃ f, m.deadline = some f ∧ (s.frame - f).toNat < 2147483648 := fun c => by
    cases hm : (s.chan c).motion with
    | none => simp
    | some m => simp [hdue]
  have htest : ∀ (l : List Pending) (k : List (Fin 16)), _ := fun l k =>
    or_congr (exists_congr fun p => and_congr_right fun (_ : p ∈ l) => hdue p.deadline)
      (exists_congr fun c => and_congr_right fun (_ : c ∈ k) => hmoves c)
  unfold State.expire
  simp only [ho, if_true]
  cases u with
  | jacks => exact absurd rfl hu
  | room r => exact if_congr (by rw [Bool.or_eq_true, List.any_eq_true, List.any_eq_true]; exact htest _ _) rfl rfl
  | awning => exact if_congr (by rw [Bool.or_eq_true, List.any_eq_true, List.any_eq_true]; exact htest _ _) rfl rfl

/-- At the frame end the row of a unit's attendance is the event of what expires. -/
theorem exec_attendanceExpiry {s : State} (ho : s.frameOver = true) (u : UnitId) :
    exec (.attendanceExpiry u) s = event s { st := s, acts := s.expire u } := by
  simp only [exec, execAttendanceExpiry, expiry_over ho]

end Sys2Proof.Machine

namespace Sys2Proof

open Machine

/-- Settles O22: the equation of `endUnit`, with what the end of a motion leaves of a channel. -/
theorem workEndsWhole : Obligations.WorkEndsWhole := by
  intro u why s hw
  have hended := endUnit_ended hw why
  obtain ⟨v, w, heq, -, -, hrooms⟩ := endUnit_eq hw why
  refine ⟨hended, by rw [heq]; rfl, fun c hc hm hd => ?_, fun r => ?_, by rw [heq]; rfl⟩
  · rw [hended.chans c hc]
    exact endMotion_moving hm hd s.frame
  · rw [heq]
    exact hrooms r

/-- Settles O23: what expires is one end of the unit's work, or nothing. -/
theorem attendanceReleasesTheUnit : Obligations.AttendanceReleasesTheUnit := by
  intro u s hs hover hu hw ho
  rw [exec_attendanceExpiry hover, expire_unit hu ho]
  refine ⟨fun (hexp : s.expired u) hq => ?_, fun (hexp : ¬s.expired u) => ?_⟩
  · rw [if_pos hexp]
    exact event_endUser hs hw ho hq
  · rw [if_neg hexp]
    exact event_done hs.running hs.still hs.parked

end Sys2Proof
end

section
/-! SUPPORT. Requests that their owner only answers (R173), and the bytes of the reading replies (chapter 13). -/

namespace Sys2Proof.Machine

/-! ## Requests that are only answered -/

/-- A request whose owner leaves state t heard and answers: the answer is the whole event. -/
theorem exec_answers {s t : State} {i j : Instr} {kind tag : Byte} {payload l : List Byte} (hh : Hears s) (hr : s.mode = .running)
    (hq : Quiet t) (he : exec i s = request i s) (hf : encodeRequest i = some ⟨kind, tag, payload⟩)
    (hj : decodeRequest ⟨kind, tag, payload⟩ = j) (hv : serve j s.heard = answer t.heard l) :
    exec i s = .next (t.answered kind tag l) := by
  subst hj
  exact he.trans (request_answer hr hh hf hv rfl (quiet_heard hq))

/-- A request whose owner leaves the state as it is. -/
theorem exec_answered {s : State} {i : Instr} (j : Instr) {kind tag : Byte} {payload l : List Byte} (hh : Hears s) (hq : Quiet s)
    (he : exec i s = request i s) (hf : encodeRequest i = some ⟨kind, tag, payload⟩) (hj : decodeRequest ⟨kind, tag, payload⟩ = j)
    (hv : serve j s.heard = answer s.heard l) : exec i s = .next (s.answered kind tag l) :=
  exec_answers hh hq.running hq he hf hj hv

/-! ## Optional fields and frames left (R191) -/

theorem okReply_cons (l : List Byte) : okReply l = 0 :: l := rfl

theorem optU8_getD (v : Option Nat) : optU8 v = u8 (v.getD 0xFF) := by cases v <;> rfl
theorem optU32_getD (v : Option Nat) : optU32 v = u32 (v.getD 0xFFFFFFFF) := by cases v <;> rfl
theorem optI32_getD (v : Option Int) : optI32 v = i32 (v.getD (-2147483648)) := by cases v <;> rfl
theorem optSubject_getD (v : Option Subject) : optSubject v = u8 ((v.map subjectCode).getD 0xFF) := by cases v <;> rfl

theorem framesLeft_eq (now : FrameNo) :
    framesLeft now = fun d => if (now - d).toNat < 2147483648 then 0 else (d - now).toNat := by
  funext d
  simp [framesLeft, reached]

/-! ## The records of a channel (R23, R128, R140) -/

theorem motionFields_eq (now : FrameNo) (v : Option Motion) : motionFields now v = match v with
    | none => u8 0xFF ++ i32 (-2147483648) ++ u8 0xFF ++ u8 0xFF ++ u32 0xFFFFFFFF
    | some m => u8 m.dir.code ++ i32 (match m.target with | .toEnd => 2147483647 | .at k => k) ++ u8 m.origin.code
        ++ flag m.attended ++ u32 ((m.deadline.map fun d => if (now - d).toNat < 2147483648 then 0 else (d - now).toNat).getD
          0xFFFFFFFF) := by
  cases v with
  | none => rfl
  | some m =>
    cases htarget : m.target <;> simp only [motionFields, htarget, optU32_getD, framesLeft_eq]
    rfl

theorem roomFields_eq (s : State) (r : Fin 4) : s.roomFields r =
    let left := fun d : FrameNo => if (s.frame - d).toNat < 2147483648 then 0 else (d - s.frame).toNat
    let y := s.room r
    u8 r.val ++ u8 y.type.code ++ u8 (s.roomRest r).code ++ (if y.type = .twin then i32 y.skew ++ flag y.skewValid
      ++ u8 y.overLimit ++ u8 y.counted ++ u8 ((y.firstArrival.map RoomEnd.code).getD 0xFF)
      ++ u32 ((y.endWait.map left).getD 0xFFFFFFFF) else []) := by
  simp only [State.roomFields, optU8_getD, optU32_getD, framesLeft_eq]

theorem guardFields_eq (s : State) : s.guardFields =
    let left := fun d : FrameNo => if (s.frame - d).toNat < 2147483648 then 0 else (d - s.frame).toNat
    let g := s.wgd
    u8 g.state.code ++ u8 s.par.windMode.code ++ u8 g.trips ++ u16 g.speed ++ u32 (g.lastPeriod.getD 0xFFFFFFFF)
      ++ u32 ((g.calmStart.map fun f => 500 - (s.frame - f).toNat).getD 0xFFFFFFFF)
      ++ u32 ((g.holdOff.map left).getD 0xFFFFFFFF) ++ u8 g.retract.code ++ flag g.bypassed := by
  simp only [State.guardFields, optU32_getD, framesLeft_eq, elapsed]

theorem unitFields_eq (s : State) (c : Fin 16) : s.unitFields c =
    let u := s.unit (unitOfChan c)
    if s.populated c then u8 u.state.code ++ u8 ((u.origin.map Origin.code).getD 0xFF) else u8 0xFF ++ u8 0xFF := by
  simp only [State.unitFields, optU8_getD]
  rfl

/-- The room record follows in the reply of a room end alone (R128). -/
theorem roomPart_eq (s : State) (c : Fin 16) :
    (match (s.chan c).kind, roomOf c with | .roomEnd, some r => s.roomFields r | _, _ => [])
      = if (s.chan c).kind = .roomEnd then ((roomOf c).map s.roomFields).getD [] else [] := by
  cases (s.chan c).kind <;> cases roomOf c <;> rfl

theorem channelReply_parts (s : State) (c : Fin 16) : s.channelReply c =
    0 :: (u8 (s.chan c).kind.code ++ u8 (((s.chan c).role.map Role.code).getD 0xFF) ++ u8 (s.chan c).state.code ++ i32 (s.chan c).position ++ flag (s.chan c).known
      ++ i32 (s.chan c).speed ++ u8 (s.chan c).current ++ u8 (s.chan c).pressure ++ u8 (s.chan c).cond.code ++ flag (s.chan c).latch ++ flag (s.chan c).extendEnd ++ u8 (s.rest c).code
      ++ u8 (((s.chan c).lock.map FaultKind.code).getD 0xFF) ++ u16 (s.chan c).dragCount ++ motionFields s.frame (s.chan c).motion ++ s.unitFields c
      ++ (if (s.chan c).kind = .roomEnd then ((roomOf c).map s.roomFields).getD [] else []) ++ (if c = 14 then s.guardFields else [])) := by
  simp only [State.channelReply, optU8_getD, okReply_cons, ← roomPart_eq] <;> rfl

/-! ## The fault list's entries (R166) -/

theorem drop_zipIdx {α : Type} : ∀ (n i : Nat) (l : List α), (l.zipIdx i).drop n = (l.drop n).zipIdx (i + n)
  | 0, _, _ => rfl
  | _ + 1, _, [] => rfl
  | n + 1, i, _ :: l => by rw [List.zipIdx_cons, List.drop_succ_cons, List.drop_succ_cons, drop_zipIdx, Nat.add_right_comm]; rfl

theorem take_zipIdx {α : Type} : ∀ (n i : Nat) (l : List α), (l.zipIdx i).take n = (l.take n).zipIdx i
  | 0, _, _ => rfl
  | _ + 1, _, [] => rfl
  | n + 1, i, _ :: l => by
    rw [List.zipIdx_cons, List.take_succ_cons, List.take_succ_cons, List.zipIdx_cons, take_zipIdx]

theorem faultFields_eq : ∀ (i : Nat) (l : List FaultEntry), faultFields i l = (l.zipIdx i).flatMap fun p => p.1.fields p.2
  | _, [] => rfl
  | i, e :: l => by rw [faultFields, faultFields_eq (i + 1) l, List.zipIdx_cons, List.flatMap_cons]

theorem shown_zipIdx (l : List FaultEntry) (n : Nat) : (l.zipIdx.drop n).take 4 = ((l.drop n).take 4).zipIdx n := by
  rw [drop_zipIdx, take_zipIdx, Nat.zero_add]

/-! ## Bytes as operands -/

theorem byte_fin {n : Nat} (hn : n ≤ 256) (i : Fin n) : (BitVec.ofNat 8 i.val).toNat = i.val := by
  rw [BitVec.toNat_ofNat, Nat.mod_eq_of_lt (by omega)]

theorem serveChannel_fin (s : State) (c : Fin 16) : serveChannel s (BitVec.ofNat 8 c.val) = answer s (s.channelReply c) := by
  have hc := byte_fin (by omega) c
  unfold serveChannel
  rw [dif_pos (by omega)]
  simp only [hc]

theorem serveNodes_fin (s : State) (n : Fin 8) : serveNodes s (BitVec.ofNat 8 n.val) = answer s (s.nodesReply n) := by
  have hn := byte_fin (by omega) n
  unfold serveNodes
  rw [dif_pos (by omega)]
  simp only [hn]

theorem serveLevelResult_part (s : State) (i : Fin 4) :
    serveLevelResult s (BitVec.ofNat 8 (i.val + 1)) = answer s (okReply (s.levelPart i.val)) := by
  fin_cases i <;> rfl

/-! ## The reading replies, byte by byte (TABLE 13-2, TABLE 13-5) -/

theorem levelPart0_eq (s : State) : s.levelPart0 =
    let r := s.lvs.result
    let q := s.lvs.seq
    u8 r.outcome.code ++ u8 r.cause.code ++ u8 ((r.endedIn.map LvState.code).getD 0xFF) ++ u8 r.passes ++ i16 r.pitch ++ i16 r.roll
      ++ flag r.clamped ++ ((jackChans.filter s.populated).flatMap fun c => i32 ((r.positions.lookup c).getD (-2147483648)))
      ++ u8 q.state.code ++ u8 (if q.state = .idle then 0xFF else q.passes) := by
  have hpasses : (if s.lvs.seq.state = .idle then none else some s.lvs.seq.passes : Option Nat).getD 0xFF
      = if s.lvs.seq.state = .idle then 0xFF else s.lvs.seq.passes := by split <;> rfl
  simp only [State.levelPart0, optU8_getD, optI32_getD, hpasses]

theorem stowReply_eq (s : State) : s.stowReply =
    let r := s.ciu.result
    let q := s.ciu.stow
    0 :: (u8 r.outcome.code ++ u8 ((r.trigger.map Trigger.code).getD 0xFF) ++ u8 ((r.step.map StowState.stepCode).getD 0xFF)
      ++ u8 r.cause.code ++ u8 ((r.subject.map subjectCode).getD 0xFF) ++ u8 q.state.code
      ++ u8 ((q.trigger.map Trigger.code).getD 0xFF)
      ++ u32 ((q.stepStart.map fun f => s.par.stowStepTime / 5 - (s.frame - f).toNat).getD 0xFFFFFFFF)) := by
  simp only [State.stowReply, optU8_getD, optU32_getD, optSubject_getD, okReply_cons]
  rfl

theorem faultsReply_eq (s : State) (n : Nat) : s.faultsReply n =
    let shown := (s.flt.entries.zipIdx.drop n).take 4
    0 :: (u8 s.flt.entries.length ++ flag s.flt.lost ++ u8 shown.length ++ shown.flatMap fun p =>
      u8 p.2 ++ u8 p.1.kind.code ++ u8 (subjectCode p.1.subject) ++ u8 (p.1.severity.code * 16 + if p.1.present then 1 else 0)
        ++ u32 p.1.first.toNat ++ u32 p.1.last.toNat ++ u8 p.1.count) := by
  simp only [State.faultsReply, shown_zipIdx, List.length_zipIdx, faultFields_eq, okReply_cons]
  rfl

theorem statusReply_eq (s : State) : s.statusReply =
    let a := s.atu.record
    let unit := fun u => u8 ((s.unit u).state.code * 16 + ((s.unit u).origin.map Origin.code).getD 15)
    0 :: (u8 s.pli.resetCause.code ++ u8 s.sst.phase.code ++ u8 s.sgu.supply.code ++ u16 s.sgu.batAvg
      ++ u8 a.state.code ++ i16 a.pitch ++ i16 a.roll ++ flag a.clamped ++ u16 a.rawX ++ u16 a.rawY
      ++ flag s.atu.capture.isSome ++ unit .jacks ++ unit (.room 0) ++ unit (.room 1) ++ unit (.room 2) ++ unit (.room 3)
      ++ unit .awning ++ u8 s.lvs.seq.state.code ++ u8 s.ciu.stow.state.code ++ u8 s.wgd.state.code ++ u16 s.wgd.speed
      ++ flag s.ciu.travel ++ flag s.ciu.alarm ++ u8 s.flt.entries.length ++ flag s.flt.lost ++ flag s.pli.lost
      ++ u8 s.pli.notices.length ++ flag s.sst.commit.isSome ++ u16 s.pli.crcErrors ++ u16 s.pli.lengthErrors
      ++ u16 s.pli.brokenFrames ++ u16 s.pli.overruns) := by
  have hunits : (allUnits.flatMap fun u => (s.unit u).statusByte) = (s.unit .jacks).statusByte ++ ((s.unit (.room 0)).statusByte
      ++ ((s.unit (.room 1)).statusByte ++ ((s.unit (.room 2)).statusByte ++ ((s.unit (.room 3)).statusByte
      ++ (s.unit .awning).statusByte)))) := by simp only [allUnits, List.flatMap_cons, List.flatMap_nil, List.append_nil]
  unfold State.statusReply
  simp only [hunits, okReply_cons, List.append_assoc]
  rfl

theorem inputsReply_eq (s : State) : s.inputsReply =
    0 :: ([s.ciu.ign, s.ciu.park, s.ciu.eng].flatMap (fun i => u8 ((i.accepted.map fun b => if b then 1 else 0).getD 0xFF)
        ++ flag i.last ++ flag i.changed)
      ++ flag s.motionAny ++ flag s.slideExtend ++ flag s.awningExtend ++ flag s.levelPermit ++ flag s.jackRetract
      ++ flag s.ciu.travel ++ flag s.ciu.alarm) := by
  simp only [State.inputsReply, Input.fields, optU8_getD, List.flatMap_cons, List.flatMap_nil, List.append_nil, okReply_cons,
    List.append_assoc]

theorem nodesReply_eq (s : State) (n : Fin 8) : s.nodesReply n =
    let x := s.node n
    0 :: (u8 x.state.code ++ u8 x.misses ++ u8 x.good ++ u8 x.retry ++ u8 (x.cursor.getD 0xFF) ++ u16 x.missTotal
      ++ flag x.desc.isSome ++ x.desc.getD (List.replicate 10 0xFF#8) ++ u8 ((x.cause.map MismatchCause.code).getD 0xFF)
      ++ flag (decide (x.state ≠ .absent))) := by
  simp only [State.nodesReply, optU8_getD, okReply_cons]

theorem levelPart_eq (s : State) (i : Nat) : okReply (s.levelPart i) = 0 :: (match s.lvs.seq.plan.bind fun l => l[i]? with
    | none => [0]
    | some e => 1 :: (i32 e.before ++ i32 e.height ++ i32 e.lift ++ i32 e.counts ++ i32 (e.target.getD (-2147483648))
        ++ flag e.target.isNone ++ flag e.clamped)) := by
  unfold State.levelPart
  cases s.lvs.seq.plan.bind fun l => l[i]? with
  | none => rfl
  | some e => simp only [PlanEntry.fields, optI32_getD]; rfl

/-- A frame that TABLE 13-4 does not give decodes to UNKNOWN_REQUEST. -/
theorem unknown_decodes {kind tag : Byte} {payload : List Byte} (h : isUnknown kind tag payload = true) :
    ∃ k g p, decodeRequest ⟨kind, tag, payload⟩ = .unknownRequest k g p := by
  unfold isUnknown at h
  split at h
  · exact ⟨_, _, _, ‹_›⟩
  · cases h

/-- Hearing a frame and clearing what STATUS clears do not touch each other (R178, R181). -/
theorem heard_status (s : State) :
    ({ s.heard with pli := { s.heard.pli with resetCause := .none, lost := false } } : State)
      = State.heard { s with pli := { s.pli with resetCause := .none, lost := false } } := by
  simp only [State.heard, Pli.heard]
  split <;> rfl

theorem statusReply_heard (s : State) : s.heard.statusReply = s.statusReply := by
  simp only [State.statusReply, State.heard, Pli.heard]
  split <;> rfl

end Sys2Proof.Machine

namespace Sys2Proof

open Machine

/-- Settles O43, request by request: each is only answered, and its payload is the record byte by byte. -/
theorem readsAnswer : Obligations.ReadsAnswer := by
  intro tag s hq hh
  have hr := hq.running
  refine ⟨fun c => ?channel, fun b hb => ?noChannel, fun n => ?nodes, fun b hb => ?noNode, ⟨?part0, fun i => ?part⟩,
    fun b hb => ?noPart, ?stowResult, fun b hb => ?faults, fun b hb => ?noFaults, fun kind payload hu => ?unknown, ?status, ?inputs⟩
  case channel =>
    refine exec_answered (.channel tag _) hh hq rfl rfl rfl ((serveChannel_fin s.heard c).trans (congrArg (answer _) ?_))
    show s.channelReply c = _
    rw [channelReply_parts, motionFields_eq, show s.roomFields = _ from funext (roomFields_eq s), guardFields_eq, unitFields_eq] <;> rfl
  case noChannel => exact exec_answered (.channel tag b) hh hq rfl rfl rfl (dif_neg (by omega))
  case nodes =>
    refine exec_answered (.nodes tag _) hh hq rfl rfl rfl ((serveNodes_fin s.heard n).trans (congrArg (answer _) ?_))
    exact nodesReply_eq s n
  case noNode => exact exec_answered (.nodes tag b) hh hq rfl rfl rfl (dif_neg (by omega))
  case part0 =>
    refine exec_answered (.levelResult tag 0) hh hq rfl rfl rfl (congrArg (answer _) ?_)
    exact congrArg okReply (levelPart0_eq s)
  case part =>
    refine exec_answered (.levelResult tag _) hh hq rfl rfl rfl ((serveLevelResult_part s.heard i).trans (congrArg (answer _) ?_))
    exact levelPart_eq s i.val
  case noPart =>
    refine exec_answered (.levelResult tag b) hh hq rfl rfl rfl ?_
    have hb0 : b ≠ 0 := by rintro rfl; simp at hb
    exact (if_neg hb0).trans (if_neg (by omega))
  case stowResult => exact exec_answered (.stowResult tag) hh hq rfl rfl rfl (congrArg (answer _) (stowReply_eq s))
  case faults => exact exec_answered (.faults tag b) hh hq rfl rfl rfl ((if_pos hb).trans (congrArg (answer _) (faultsReply_eq s _)))
  case noFaults => exact exec_answered (.faults tag b) hh hq rfl rfl rfl (if_neg (by omega))
  case unknown =>
    obtain ⟨k, g, p, hd⟩ := unknown_decodes hu
    exact exec_answered (.unknownRequest k g p) hh hq rfl rfl hd rfl
  case status =>
    refine exec_answers (j := .status tag) hh hr (quiet_pli hq _) rfl rfl rfl ?_
    rw [← heard_status]
    exact congrArg (answer _) ((statusReply_heard s).trans (statusReply_eq s))
  case inputs =>
    refine exec_answers (j := .inputs tag) hh hr ?_ rfl rfl rfl (congrArg (answer _) (inputsReply_eq s))
    exact quiet_blocks hq rfl rfl rfl rfl rfl hq.still.exposed rfl rfl

end Sys2Proof
end

section
/-! SUPPORT. The requests MOVE and MOVE_JACK, check by check (TABLE 1-6), their subjects' bytes, and the permits of TABLE 1-7. -/

namespace Sys2Proof.Machine

/-! ## Bytes of subjects and requests (TABLE 13-3, TABLE 13-4) -/

/-- The byte of a unit (TABLE 13-3). -/
abbrev unitByte (u : UnitId) : Byte := BitVec.ofNat 8 (subjectCode (.unit u))

theorem unitOf_byte (u : UnitId) : unitOf (unitByte u) = some u := by
  cases u with
  | jacks => rfl
  | room r => fin_cases r <;> rfl
  | awning => rfl

theorem unitByte_not_jack (u : UnitId) : isJackByte (unitByte u) = false := by
  cases u with
  | jacks => rfl
  | room r => fin_cases r <;> rfl
  | awning => rfl

theorem unitByte_not_all (u : UnitId) : unitByte u ≠ 0xFF#8 := by
  cases u with
  | jacks => decide
  | room r => revert r; decide
  | awning => decide

/-- The channel of a jack. -/
abbrev jackChan (j : Fin 6) : Fin 16 := ⟨j.val, by omega⟩

theorem decode_move {sj : Byte} (h : isJackByte sj = false) (tag d : Byte) :
    decodeRequest ⟨0x05, tag, [sj, d]⟩ = .move tag sj d := dif_neg (of_decide_eq_false h)

theorem decode_moveJack (tag d : Byte) (j : Fin 6) :
    decodeRequest ⟨0x05, tag, [BitVec.ofNat 8 (0x20 + j.val), d]⟩ = .moveJack tag j d := by
  fin_cases j <;> rfl

theorem decode_stop {sj : Byte} (h : sj ≠ 0xFF#8) (tag : Byte) : decodeRequest ⟨0x06, tag, [sj]⟩ = .stop tag sj := if_neg h

/-! ## Channels that cannot move (TABLE 1-6, steps 6 and 7) -/

theorem chansRefuse_faulted {s : State} {l : List (Fin 16)}
    (h : ¬∀ c ∈ l, (s.chan c).state ≠ .faulted ∧ (s.chan c).state ≠ .disabled) : s.chansRefuse l = some .faulted := by
  unfold State.chansRefuse
  rw [if_pos]
  simp only [not_forall, not_and_or, not_not] at h
  simpa using h

theorem chansRefuse_sound {s : State} {l : List (Fin 16)}
    (h : ∀ c ∈ l, (s.chan c).state ≠ .faulted ∧ (s.chan c).state ≠ .disabled) :
    s.chansRefuse l = if l.any fun c => decide ((s.node (nodeOf c)).state ≠ .ready) then some .nodeLost else none := by
  unfold State.chansRefuse
  rw [if_neg]
  simpa using h

theorem chansRefuse_lost {s : State} {l : List (Fin 16)}
    (h : ∀ c ∈ l, (s.chan c).state ≠ .faulted ∧ (s.chan c).state ≠ .disabled)
    (hn : ¬∀ c ∈ l, (s.node (nodeOf c)).state = .ready) : s.chansRefuse l = some .nodeLost := by
  rw [chansRefuse_sound h, if_pos]
  simpa using hn

theorem chansRefuse_none {s : State} {l : List (Fin 16)}
    (h : ∀ c ∈ l, (s.chan c).state ≠ .faulted ∧ (s.chan c).state ≠ .disabled)
    (hn : ∀ c ∈ l, (s.node (nodeOf c)).state = .ready) : s.chansRefuse l = none := by
  rw [chansRefuse_sound h, if_neg]
  simpa using hn

/-! ## Permits (R144, TABLE 1-7) -/

theorem engineOk_iff (s : State) :
    s.engineOk = true ↔ (s.par.pumpNeedsEngine = true → s.ciu.eng.accepted = some true) := by
  unfold State.engineOk State.engRunning
  cases s.par.pumpNeedsEngine <;> simp

theorem roomsStowed_iff (s : State) : s.roomsStowed = true ↔ ∀ r, s.roomUsed r = true → s.roomRest r = .stowed := by
  unfold State.roomsStowed
  simp only [List.all_eq_true, allRooms, List.mem_finRange, true_imp_iff, Bool.or_eq_true, decide_eq_true_eq]
  refine forall_congr' fun r => ?_
  cases s.roomUsed r <;> simp

theorem jackTerm_iff (s : State) :
    s.jackTerm = true ↔ (s.par.slidesNeedJacks = true → ∀ c ∈ cornerChans, (s.chan c).latch = true) := by
  unfold State.jackTerm State.cornersLatched
  cases s.par.slidesNeedJacks <;> simp

section
variable {s : State} (hm : s.motionAny = true)
include hm

theorem failedPermit_slide (h : s.slideExtend = false) (r : Fin 4) : s.failedPermit (.room r) .extend = some .slideExtend := by
  simp [State.failedPermit, hm, h]

theorem failedPermit_awning (h : s.awningExtend = false) : s.failedPermit .awning .extend = some .awningExtend := by
  simp [State.failedPermit, hm, h]

theorem failedPermit_alarm (h : s.ciu.alarm = true) : s.failedPermit .jacks .extend = some .alarm := by
  simp [State.failedPermit, hm, h]

theorem failedPermit_engine_extend (h : s.ciu.alarm = false) (he : s.engineOk = false) :
    s.failedPermit .jacks .extend = some .engine := by
  simp [State.failedPermit, hm, h, he]

theorem failedPermit_rooms (h : s.roomsStowed = false) : s.failedPermit .jacks .retract = some .jackRetract := by
  simp [State.failedPermit, State.jackRetract, hm, h]

theorem failedPermit_engine_retract (h : s.roomsStowed = true) (he : s.engineOk = false) :
    s.failedPermit .jacks .retract = some .engine := by
  simp [State.failedPermit, State.jackRetract, hm, h, he]
end

theorem failedPermit_motion {s : State} (hm : s.motionAny = false) (u : UnitId) (d : Dir) :
    s.failedPermit u d = some .motionAny := by simp [State.failedPermit, hm]

theorem motionAny_run {s : State} (h : s.sst.phase = .run) (hc : s.sgu.supply ≠ .cutoff) : s.motionAny = true := by
  simp [State.motionAny, h, hc]

/-! ## A request for new work (TABLE 1-6, steps 9 to 11) -/

theorem admits_user {st : Supply} : admits st .user = true ↔ st = .normal := by cases st <;> simp [admits]

theorem moveFresh_supply {s : State} {u : UnitId} (h : s.sgu.supply ≠ .normal ∨ s.sgu.budget < s.claimOf u) (d : Dir)
    (l : List Pending) : s.moveFresh u d l = refuse s .supply := by
  unfold State.moveFresh
  rw [if_pos]
  rw [Bool.or_eq_true, Bool.not_eq_true', ← Bool.not_eq_true, admits_user, decide_eq_true_eq]
  exact h

/-- Supply and budget let the request pass to the permits. -/
theorem moveFresh_supplied {s : State} {u : UnitId} (h : s.sgu.supply = .normal) (hb : s.claimOf u ≤ s.sgu.budget) :
    ¬(!admits s.sgu.supply .user || decide (s.sgu.budget < s.claimOf u)) = true := by
  simp [admits_user.mpr h, Nat.not_lt.mpr hb]

theorem moveFresh_permit {s : State} {u : UnitId} (h : s.sgu.supply = .normal) (hb : s.claimOf u ≤ s.sgu.budget) {d : Dir}
    {p : Permit} (hp : s.failedPermit u d = some p) (l : List Pending) : s.moveFresh u d l = answer s (interlockReply p) := by
  unfold State.moveFresh
  rw [if_neg (moveFresh_supplied h hb), hp]

theorem moveFresh_placed {s : State} {u : UnitId} (h : s.sgu.supply = .normal) (hb : s.claimOf u ≤ s.sgu.budget) {d : Dir}
    (hp : s.failedPermit u d = none) (l : List Pending) :
    s.moveFresh u d l = { st := s.place u .user l, reply := codeReply .ok, acts := placedActs } := by
  unfold State.moveFresh
  rw [if_neg (moveFresh_supplied h hb), hp]

/-! ## MOVE and MOVE_JACK (TABLE 1-6, R13) -/

theorem serveMove_noDir (s : State) (sj : Byte) {b : Byte} (h : dirOf b = none) : serveMove s sj b = refuse s .badRequest := by
  unfold serveMove
  rw [h]

theorem serveMove_noUnit (s : State) {sj b : Byte} (hd : (dirOf b).isSome = true) (h : unitOf sj = none) :
    serveMove s sj b = refuse s .badSubject := by
  obtain ⟨d, hd⟩ := Option.isSome_iff_exists.mp hd
  unfold serveMove
  simp only [hd, h]

theorem serveMove_notReady {s : State} {b : Byte} (hd : (dirOf b).isSome = true) (h : s.sst.phase ≠ .run) (u : UnitId) :
    serveMove s (unitByte u) b = refuse s .notReady := by
  obtain ⟨d, hd⟩ := Option.isSome_iff_exists.mp hd
  unfold serveMove
  simp only [hd, unitOf_byte, ne_eq, h, not_false_iff, if_true]

theorem serveMove_stowing {s : State} {u : UnitId} {b : Byte} (hd : (dirOf b).isSome = true) (h : s.sst.phase = .run)
    (hc : s.configured u = true) (hs : s.ciu.stow.state ≠ .idle) : serveMove s (unitByte u) b = refuse s .busy := by
  obtain ⟨d, hd⟩ := Option.isSome_iff_exists.mp hd
  unfold serveMove
  simp only [hd, unitOf_byte, ne_eq, h, hc, hs, not_false_iff, if_true, not_true_eq_false, Bool.not_true, Bool.false_eq_true, if_false]

theorem serveMoveJack_noDir (s : State) (j : Fin 6) {b : Byte} (h : dirOf b = none) :
    serveMoveJack s j b = refuse s .badRequest := by
  unfold serveMoveJack
  simp only [h]

theorem serveMoveJack_notReady {s : State} {b : Byte} (hd : (dirOf b).isSome = true) (h : s.sst.phase ≠ .run) (j : Fin 6) :
    serveMoveJack s j b = refuse s .notReady := by
  obtain ⟨d, hd⟩ := Option.isSome_iff_exists.mp hd
  unfold serveMoveJack
  simp only [hd, ne_eq, h, not_false_iff, if_true]

/-- In RUN with no stow sequence, how a request for unit u on the channels l is decided where it does not meet work of the user:
the checks of TABLE 1-6 from step 5 on. -/
structure Judged (s : State) (u : UnitId) (l : List (Fin 16)) (d : Dir) (v : Served) : Prop where
  busy : (s.unit u).state ≠ .idle → (s.unit u).origin ≠ some .user → v = refuse s .busy
  unable : (s.unit u).state = .idle → ∀ r, s.chansRefuse l = some r → v = refuse s r
  fresh : (s.unit u).state = .idle → s.chansRefuse l = none → ¬(u = .awning ∧ d = .extend ∧ s.wgd.state ≠ .armed) →
    v = s.moveFresh u d (l.map fun c => { chan := c, dir := d, target := .toEnd, deadline := some s.deadline })

/-- The first checks of MOVE passed (TABLE 1-6, steps 1 to 4). -/
theorem serveMove_run {s : State} {u : UnitId} {b : Byte} {d : Dir} (hd : dirOf b = some d) (h : s.sst.phase = .run)
    (hc : s.configured u = true) (hs : s.ciu.stow.state = .idle) : serveMove s (unitByte u) b =
      if (s.unit u).state ≠ .idle then
        (if (s.unit u).origin = some .user then s.moveHeld u d else refuse s .busy)
      else match s.chansRefuse (s.unitChans u) with
      | some r => refuse s r
      | none =>
        if u = .awning ∧ d = .extend ∧ s.wgd.state ≠ .armed then refuse s .wind
        else s.moveFresh u d (s.pendAll u d (some s.deadline)) := by
  unfold serveMove
  simp only [hd, unitOf_byte, ne_eq, h, hc, hs, not_true_eq_false, Bool.not_true, Bool.false_eq_true, if_false] <;> rfl

theorem serveMove_judged {s : State} {u : UnitId} {b : Byte} {d : Dir} (hd : dirOf b = some d) (h : s.sst.phase = .run)
    (hc : s.configured u = true) (hs : s.ciu.stow.state = .idle) :
    Judged s u (s.unitChans u) d (serveMove s (unitByte u) b) := by
  rw [serveMove_run hd h hc hs]
  refine ⟨fun hw ho => ?_, fun hi r hr => ?_, fun hi hr hwind => ?_⟩
  · rw [if_pos hw, if_neg ho]
  · rw [if_neg (not_not.mpr hi), hr]
  · rw [if_neg (not_not.mpr hi), hr]
    exact if_neg hwind

/-- A MOVE of a unit that works for the user (R12). -/
theorem serveMove_held {s : State} {u : UnitId} {b : Byte} {d : Dir} (hd : dirOf b = some d) (h : s.sst.phase = .run)
    (hc : s.configured u = true) (hs : s.ciu.stow.state = .idle) (hw : (s.unit u).state ≠ .idle)
    (ho : (s.unit u).origin = some .user) : serveMove s (unitByte u) b = s.moveHeld u d := by
  rw [serveMove_run hd h hc hs, if_pos hw, if_pos ho]

/-- An awning's extend while the guard is not ARMED (R11, R129). -/
theorem serveMove_wind {s : State} {b : Byte} (hd : dirOf b = some .extend) (h : s.sst.phase = .run)
    (hc : s.configured .awning = true) (hs : s.ciu.stow.state = .idle) (hi : (s.unit .awning).state = .idle)
    (hr : s.chansRefuse (s.unitChans .awning) = none) (hg : s.wgd.state ≠ .armed) :
    serveMove s (unitByte .awning) b = refuse s .wind := by
  rw [serveMove_run hd h hc hs, if_neg (not_not.mpr hi), hr]
  exact if_pos ⟨rfl, rfl, hg⟩

/-- The first checks of MOVE_JACK passed. -/
theorem serveMoveJack_run {s : State} {j : Fin 6} {b : Byte} {d : Dir} (hd : dirOf b = some d) (h : s.sst.phase = .run)
    (hc : s.populated (jackChan j) = true) (hs : s.ciu.stow.state = .idle) : serveMoveJack s j b =
      if (s.unit .jacks).state = .idle then
        match s.chansRefuse [jackChan j] with
        | some r => refuse s r
        | none => s.moveFresh .jacks d [{ chan := jackChan j, dir := d, target := .toEnd, deadline := some s.deadline }]
      else if (s.unit .jacks).origin ≠ some .user then refuse s .busy
      else match s.userDir .jacks (jackChan j) with
      | none => s.jackJoin (jackChan j) d
      | some e =>
        if e = d then { st := s.refreshChan .jacks (jackChan j), reply := codeReply .ok, acts := [] }
        else { st := s, reply := codeReply .okStopped, acts := [s.stopJack (jackChan j)] } := by
  unfold serveMoveJack
  simp only [hd, ne_eq, h, hc, hs, not_true_eq_false, Bool.not_true, Bool.false_eq_true, if_false] <;> rfl

theorem serveMoveJack_judged {s : State} {j : Fin 6} {b : Byte} {d : Dir} (hd : dirOf b = some d) (h : s.sst.phase = .run)
    (hc : s.populated (jackChan j) = true) (hs : s.ciu.stow.state = .idle) :
    Judged s .jacks [jackChan j] d (serveMoveJack s j b) := by
  rw [serveMoveJack_run hd h hc hs]
  refine ⟨fun hw ho => ?_, fun hi r hr => ?_, fun hi hr _ => ?_⟩
  · rw [if_neg hw, if_pos ho]
  · rw [if_pos hi, hr]
  · rw [if_pos hi, hr]
    rfl

/-- A jack of USER JACKS that is neither pending nor moving joins (R13). -/
theorem serveMoveJack_joins {s : State} {j : Fin 6} {b : Byte} {d : Dir} (hd : dirOf b = some d) (h : s.sst.phase = .run)
    (hc : s.populated (jackChan j) = true) (hs : s.ciu.stow.state = .idle) (hw : (s.unit .jacks).state ≠ .idle)
    (ho : (s.unit .jacks).origin = some .user) (hu : s.userDir .jacks (jackChan j) = none) :
    serveMoveJack s j b = s.jackJoin (jackChan j) d := by
  rw [serveMoveJack_run hd h hc hs, if_neg hw, if_neg (not_not.mpr ho), hu]

/-- A jack of USER JACKS that is pending or moving: a refresh, or its end (R13). -/
theorem serveMoveJack_held {s : State} {j : Fin 6} {b : Byte} {d e : Dir} (hd : dirOf b = some d) (h : s.sst.phase = .run)
    (hc : s.populated (jackChan j) = true) (hs : s.ciu.stow.state = .idle) (hw : (s.unit .jacks).state ≠ .idle)
    (ho : (s.unit .jacks).origin = some .user) (hu : s.userDir .jacks (jackChan j) = some e) :
    serveMoveJack s j b = if e = d then { st := s.refreshChan .jacks (jackChan j), reply := codeReply .ok, acts := [] }
      else { st := s, reply := codeReply .okStopped, acts := [s.stopJack (jackChan j)] } := by
  rw [serveMoveJack_run hd h hc hs, if_neg hw, if_neg (not_not.mpr ho), hu]

theorem userDir_moving {s : State} {u : UnitId} {c : Fin 16} (h : ∀ p ∈ (s.unit u).pending, p.chan ≠ c) :
    s.userDir u c = (s.chan c).motion.map Motion.dir := by
  have hnone : (s.unit u).pending.find? (fun p => decide (p.chan = c)) = none := by
    rw [List.find?_eq_none]
    intro p hp
    simpa using h p hp
  unfold State.userDir
  rw [hnone]

theorem jackJoin_unable {s : State} {c : Fin 16} {r : Result} (h : s.chansRefuse [c] = some r) (d : Dir) :
    s.jackJoin c d = refuse s r := by
  unfold State.jackJoin
  rw [h]

theorem jackJoin_permit {s : State} {c : Fin 16} (h : s.chansRefuse [c] = none) {d : Dir} {p : Permit}
    (hp : s.failedPermit .jacks d = some p) : s.jackJoin c d = answer s (interlockReply p) := by
  unfold State.jackJoin
  simp only [h, hp]

end Sys2Proof.Machine
end

section
/-! SUPPORT. The refusals of the other requests, and the terms of the permits as TABLE 9-3 gives them (R144, R185, R187). -/

namespace Sys2Proof.Machine

/-! ## A refusal is the whole event -/

section
variable {s : State} (hh : Hears s) (hq : Quiet s) {tag b : Byte} {l : List Byte}
include hh hq

theorem exec_move_answered {sj : Byte} (hj : isJackByte sj = false) (hv : serveMove s.heard sj b = answer s.heard l) :
    exec (.move tag sj b) s = .next (s.answered 0x05 tag l) :=
  exec_answered (.move tag sj b) hh hq rfl rfl (decode_move hj tag b) hv

theorem exec_moveJack_answered {j : Fin 6} (hv : serveMoveJack s.heard j b = answer s.heard l) :
    exec (.moveJack tag j b) s = .next (s.answered 0x05 tag l) :=
  exec_answered (.moveJack tag j b) hh hq rfl rfl (decode_moveJack tag b j) hv

/-- A direction that is none is refused whatever the subject (R11, R13; log entry 23). -/
theorem exec_move_noDir (hb : dirOf b = none) (sj : Byte) : exec (.move tag sj b) s = .next (s.answered 0x05 tag [5]) := by
  refine exec_answered (j := decodeRequest ⟨0x05, tag, [sj, b]⟩) hh hq rfl rfl rfl ?_
  by_cases hj : 0x20 ≤ sj.toNat ∧ sj.toNat < 0x26
  · rw [show decodeRequest ⟨0x05, tag, [sj, b]⟩ = .moveJack tag _ b from dif_pos hj]
    exact serveMoveJack_noDir _ _ hb
  · rw [show decodeRequest ⟨0x05, tag, [sj, b]⟩ = .move tag sj b from dif_neg hj]
    exact serveMove_noDir _ sj hb
end

theorem be32_bytes32 (v : BitVec 32) :
    be32 (v.extractLsb' 24 8) (v.extractLsb' 16 8) (v.extractLsb' 8 8) (v.extractLsb' 0 8) = v := by
  unfold be32
  ext i hi
  simp only [BitVec.getElem_append, BitVec.getElem_extractLsb']
  grind

/-! ## The terms of the permits (TABLE 9-3) -/

theorem slideExtend_fails {s : State} (h : ¬(s.ciu.park.accepted = some true ∧ s.ciu.alarm = false ∧
    (s.par.slidesNeedJacks = true → ∀ c ∈ cornerChans, (s.chan c).latch = true))) : s.slideExtend = false := by
  rw [← Bool.not_eq_true]
  refine mt (fun k => ?_) h
  simp only [State.slideExtend, State.parkSet, Bool.and_eq_true, decide_eq_true_eq, Bool.not_eq_true'] at k
  obtain ⟨⟨⟨⟨hpark, halarm⟩, -⟩, -⟩, hjacks⟩ := k
  exact ⟨hpark, halarm, (jackTerm_iff s).mp hjacks⟩

theorem awningExtend_alarm {s : State} (h : s.ciu.alarm = true) : s.awningExtend = false := by simp [State.awningExtend, h]

theorem levelPermit_iff (s : State) : s.levelPermit = true ↔ s.ciu.park.accepted = some true ∧
    ((∀ c ∈ cornerChans, s.rest c = .down) ∨ ∀ r, s.roomUsed r = true → s.roomRest r = .stowed) := by
  simp only [State.levelPermit, State.parkSet, Bool.and_eq_true, Bool.or_eq_true, decide_eq_true_eq, roomsStowed_iff,
    List.all_eq_true]

/-! ## STOP, STOW, REFERENCE, COMMIT -/

theorem serveStop_noUnit (s : State) {sj : Byte} (h : unitOf sj = none) : serveStop s sj = refuse s .badSubject := by
  unfold serveStop
  rw [h]

theorem serveStow_notReady {s : State} (h : s.sst.phase ≠ .run) : serveStow s = refuse s .notReady := if_pos h

theorem serveStow_busy {s : State} (h : s.sst.phase = .run) (hs : s.ciu.stow.state ≠ .idle) : serveStow s = refuse s .busy := by
  simp [serveStow, h, hs]

theorem serveStow_cutoff {s : State} (h : s.sst.phase = .run) (hs : s.ciu.stow.state = .idle) (hc : s.sgu.supply = .cutoff) :
    serveStow s = refuse s .supply := by simp [serveStow, h, hs, hc]

theorem serveReference_notReady {s : State} (h : s.sst.phase ≠ .run) : serveReference s = refuse s .notReady := if_pos h

theorem serveReference_capturing {s : State} (h : s.sst.phase = .run) (hc : s.atu.capture ≠ none) :
    serveReference s = refuse s .busy := by simp [serveReference, h, Option.isSome_iff_ne_none.mpr hc]

theorem serveReference_levelling {s : State} (h : s.sst.phase = .run) (hl : s.lvs.seq.state ≠ .idle) :
    serveReference s = refuse s .busy := by simp [serveReference, h, hl]

theorem serveCommit_notReady {s : State} (h : s.sst.phase ≠ .run) : serveCommit s = refuse s .notReady := if_pos h

theorem serveCommit_busy {s : State} (h : s.sst.phase = .run) (hc : s.sst.commit ≠ none) : serveCommit s = refuse s .busy := by
  simp [serveCommit, h, Option.isSome_iff_ne_none.mpr hc]

/-! ## LEVEL (TABLE 6-4) -/

theorem serveLevel_badOption (s : State) {o : Byte} (h0 : o ≠ 0) (h1 : o ≠ 1) : serveLevel s o = refuse s .badRequest :=
  if_pos ⟨h0, h1⟩

theorem serveLevel_notReady {s : State} {o : Byte} (ho : o = 0 ∨ o = 1) (h : s.sst.phase ≠ .run) :
    serveLevel s o = refuse s .notReady := by
  unfold serveLevel
  rw [if_neg (fun k => ho.elim k.1 k.2), if_pos h]

theorem serveLevel_busy {s : State} {o : Byte} (ho : o = 0 ∨ o = 1) (h : s.sst.phase = .run)
    (hb : s.lvs.seq.state ≠ .idle ∨ s.ciu.stow.state ≠ .idle ∨ s.atu.capture ≠ none ∨ (s.unit .jacks).state ≠ .idle) :
    serveLevel s o = refuse s .busy := by
  rw [← Option.isSome_iff_ne_none] at hb
  unfold serveLevel
  rw [if_neg (fun k => ho.elim k.1 k.2), if_neg (not_not.mpr h), if_pos hb]

/-- The first checks of LEVEL passed (TABLE 6-4, steps 1 to 5). -/
structure LevelFree (s : State) (o : Byte) : Prop where
  option : o = 0 ∨ o = 1
  run : s.sst.phase = .run
  level : s.lvs.seq.state = .idle
  stow : s.ciu.stow.state = .idle
  capture : s.atu.capture = none
  jacks : (s.unit .jacks).state = .idle

theorem serveLevel_free {s : State} {o : Byte} (h : LevelFree s o) : serveLevel s o =
    if s.sgu.supply ≠ .normal ∨ s.sgu.budget < s.claimOf .jacks then refuse s .supply
    else if s.atu.record.state = .invalid then answer s (interlockReply .attitude)
    else if !s.geometryOk then refuse s .geometry
    else match s.chansRefuse (s.levelJacks (decide (o = 1))) with
    | some r => refuse s r
    | none =>
      if cornerChans.any fun c => !(s.chan c).known then answer s (interlockReply .homed)
      else if !s.levelPermit then answer s (interlockReply .level)
      else if !s.engineOk then answer s (interlockReply .engine)
      else
        let o := s.startLevel (decide (o = 1))
        { st := o.st, reply := codeReply .ok, acts := o.acts } := by
  unfold serveLevel
  rw [if_neg (fun k => h.option.elim k.1 k.2), if_neg (not_not.mpr h.run),
    if_neg (by simp [h.level, h.stow, h.capture, h.jacks])] <;> rfl

theorem serveLevel_supply {s : State} {o : Byte} (h : LevelFree s o)
    (hs : s.sgu.supply ≠ .normal ∨ s.sgu.budget < s.claimOf .jacks) : serveLevel s o = refuse s .supply := by
  rw [serveLevel_free h, if_pos hs]

section
variable {s : State} {o : Byte} (h : LevelFree s o) (hs : s.sgu.supply = .normal) (hb : s.claimOf .jacks ≤ s.sgu.budget)
include h hs hb

theorem serveLevel_attitude (ha : s.atu.record.state = .invalid) : serveLevel s o = answer s (interlockReply .attitude) := by
  rw [serveLevel_free h, if_neg (by simp [hs, hb]), if_pos ha]

variable (ha : s.atu.record.state ≠ .invalid)
include ha

theorem serveLevel_geometry (hg : s.geometryOk = false) : serveLevel s o = refuse s .geometry := by
  rw [serveLevel_free h, if_neg (by simp [hs, hb]), if_neg ha, if_pos (by simp [hg])]

variable (hg : s.geometryOk = true)
include hg

theorem serveLevel_unable {r : Result} (hr : s.chansRefuse (s.levelJacks (decide (o = 1))) = some r) :
    serveLevel s o = refuse s r := by
  rw [serveLevel_free h, if_neg (by simp [hs, hb]), if_neg ha, if_neg (by simp [hg]), hr]

variable (hr : s.chansRefuse (s.levelJacks (decide (o = 1))) = none)
include hr

theorem serveLevel_homed (hk : ¬∀ c ∈ cornerChans, (s.chan c).known = true) :
    serveLevel s o = answer s (interlockReply .homed) := by
  rw [serveLevel_free h, if_neg (by simp [hs, hb]), if_neg ha, if_neg (by simp [hg]), hr]
  exact if_pos (by simpa using hk)

variable (hk : ∀ c ∈ cornerChans, (s.chan c).known = true)
include hk

theorem serveLevel_permit (hl : s.levelPermit = false) : serveLevel s o = answer s (interlockReply .level) := by
  rw [serveLevel_free h, if_neg (by simp [hs, hb]), if_neg ha, if_neg (by simp [hg]), hr]
  exact (if_neg (by simpa using hk)).trans (if_pos (by simp [hl]))

theorem serveLevel_engine (hl : s.levelPermit = true) (he : s.engineOk = false) :
    serveLevel s o = answer s (interlockReply .engine) := by
  rw [serveLevel_free h, if_neg (by simp [hs, hb]), if_neg ha, if_neg (by simp [hg]), hr]
  exact (if_neg (by simpa using hk)).trans ((if_neg (by simp [hl])).trans (if_pos (by simp [he])))
end

/-! ## PARAM_SET (R185, TABLE 12-4) -/

theorem serveParamSet_notReady {s : State} (h : s.sst.phase ≠ .run) (id sj : Byte) (v : BitVec 32) :
    serveParamSet s id sj v = refuse s .notReady := if_pos h

section
variable {s : State} (h : s.sst.phase = .run) {id sj : Byte} {v : BitVec 32}
include h

theorem serveParamSet_noId (hp : paramRow id.toNat = none) : serveParamSet s id sj v = refuse s .badRequest := by
  unfold serveParamSet
  rw [if_neg (not_not.mpr h), hp]

variable {row : ParamRow} (hp : paramRow id.toNat = some row)
include hp

theorem serveParamSet_noValue (hv : row.values ≠ []) (hm : v.toInt ∉ row.values) :
    serveParamSet s id sj v = refuse s .badRequest := by
  unfold serveParamSet
  rw [if_neg (not_not.mpr h), hp]
  exact if_pos ⟨by simpa using hv, hm⟩

variable (hv : row.values = [] ∨ v.toInt ∈ row.values)
include hv

theorem serveParamSet_noSubject (hs : s.paramSubject row.scope sj = none) :
    serveParamSet s id sj v = refuse s .badSubject := by
  unfold serveParamSet
  rw [if_neg (not_not.mpr h), hp]
  simp only []
  rw [if_neg (fun k => hv.elim (fun e => k.1 (by simp [e])) k.2), hs]

variable {subject : Subject} (hs : s.paramSubject row.scope sj = some subject)
include hs

theorem serveParamSet_busy (hb : s.sst.commit ≠ none ∨ s.paramBusy id.toNat subject = true) :
    serveParamSet s id sj v = refuse s .busy := by
  unfold serveParamSet
  rw [if_neg (not_not.mpr h), hp]
  simp only []
  rw [if_neg (fun k => hv.elim (fun e => k.1 (by simp [e])) k.2), hs]
  rw [← Option.isSome_iff_ne_none] at hb
  by_cases hc : s.sst.commit.isSome = true
  · exact if_pos hc
  · exact (if_neg hc).trans (if_pos (hb.resolve_left hc))
end

theorem paramSubject_coach {s : State} {b : Byte} {subject : Subject} (h : s.paramSubject .coach b = some subject) :
    subject = .coach := by
  unfold State.paramSubject at h
  split at h <;> simp_all

/-- The parameters of the coach that a busy condition names (TABLE 12-4). -/
def coachIds : List Nat := [9, 10, 11, 12, 13, 14, 16, 17, 18, 21, 23, 24, 25, 26]

theorem coachIds_scope {id : Nat} (h : id ∈ coachIds) {row : ParamRow} (hr : paramRow id = some row) : row.scope = .coach := by
  have hall : ∀ k ∈ coachIds, (paramRow k).map ParamRow.scope = some .coach := by decide
  simpa [hr] using hall id h

theorem paramBusy_coach {s : State} {id : Nat} (h : ((id = 9 ∨ id = 10) ∧ (s.unit .jacks).state ≠ .idle) ∨
    ((id = 11 ∨ id = 12) ∧ s.atu.capture ≠ none) ∨
    ((id = 11 ∨ id = 12 ∨ id = 13 ∨ id = 14 ∨ id = 16 ∨ id = 17 ∨ id = 18) ∧ s.lvs.seq.state ≠ .idle) ∨
    (id = 21 ∧ s.ciu.stow.state ≠ .idle) ∨
    ((id = 23 ∨ id = 24 ∨ id = 25 ∨ id = 26) ∧ s.wgd.state ≠ .armed)) : s.paramBusy id .coach = true := by
  simp only [← Option.isSome_iff_ne_none] at h
  obtain ⟨rfl | rfl, h⟩ | ⟨rfl | rfl, h⟩ | ⟨rfl | rfl | rfl | rfl | rfl | rfl | rfl, h⟩ | ⟨rfl, h⟩ | ⟨rfl | rfl | rfl | rfl, h⟩ := h <;>
    simp [State.paramBusy, h]

theorem paramBusy_chan {s : State} {u : UnitId} {c : Fin 16} (hc : c ∈ unitSlots u) (hw : (s.unit u).state ≠ .idle) (id : Nat) :
    s.paramBusy id (.chan c) = true := by
  simp [State.paramBusy, unitOfChan_slots hc, hw]

theorem paramBusy_room {s : State} {r : Fin 4} (hw : (s.unit (.room r)).state ≠ .idle) (id : Nat) :
    s.paramBusy id (.room r) = true := by
  simp [State.paramBusy, hw]

end Sys2Proof.Machine

namespace Sys2Proof

open Machine

/-- Settles O47, clause by clause: each check meets its refusal with the checks before it passed. -/
theorem refusalsChangeNothing : Obligations.RefusalsChangeNothing := by
  intro tag s hq hh refused
  have move {u : UnitId} {b : Byte} {l : List Byte} (h : serveMove s.heard (unitByte u) b = answer s.heard l) :
      exec (.move tag (unitByte u) b) s = .next (s.answered 0x05 tag l) := exec_move_answered hh hq (unitByte_not_jack u) h
  have moveJack {j : Fin 6} {b : Byte} {l : List Byte} (h : serveMoveJack s.heard j b = answer s.heard l) :
      exec (.moveJack tag j b) s = .next (s.answered 0x05 tag l) := exec_moveJack_answered hh hq h
  have level {o : Byte} {l : List Byte} (h : serveLevel s.heard o = answer s.heard l) :
      exec (.level tag o) s = .next (s.answered 0x07 tag l) := exec_answered (.level tag o) hh hq rfl rfl rfl h
  have reference {l : List Byte} (h : serveReference s.heard = answer s.heard l) :
      exec (.reference tag) s = .next (s.answered 0x0A tag l) := exec_answered (.reference tag) hh hq rfl rfl rfl h
  have stow {l : List Byte} (h : serveStow s.heard = answer s.heard l) :
      exec (.stow tag) s = .next (s.answered 0x0B tag l) := exec_answered (.stow tag) hh hq rfl rfl rfl h
  have commit {l : List Byte} (h : serveCommit s.heard = answer s.heard l) :
      exec (.commit tag) s = .next (s.answered 0x10 tag l) := exec_answered (.commit tag) hh hq rfl rfl rfl h
  have paramSet {i sj : Byte} {v : BitVec 32} {l : List Byte} (h : serveParamSet s.heard i sj v = answer s.heard l) :
      exec (.paramSet tag i sj v) s = .next (s.answered 0x0F tag l) := by
    exact exec_answered (.paramSet tag i sj v) hh hq rfl rfl (congrArg (Instr.paramSet tag i sj) (be32_bytes32 v)) h
  refine ⟨fun b hb sj => ⟨exec_move_noDir hh hq hb sj, fun j => moveJack (serveMoveJack_noDir _ j hb)⟩,
    fun sj hu hj d hd => exec_move_answered hh hq hj (serveMove_noUnit _ hd hu),
    fun sj hu hall => exec_answered (.stop tag sj) hh hq rfl rfl (decode_stop hall tag) (serveStop_noUnit _ hu),
    fun o h0 h1 => level (serveLevel_badOption _ h0 h1),
    fun hp => ⟨fun u d hd => move (serveMove_notReady (s := s.heard) hd hp u), fun j d hd => moveJack (serveMoveJack_notReady (s := s.heard) hd hp j),
      level (serveLevel_notReady (.inl rfl) hp), reference (serveReference_notReady hp), stow (serveStow_notReady hp),
      fun i sj v => paramSet (serveParamSet_notReady (s := s.heard) hp i sj v), commit (serveCommit_notReady hp)⟩,
    fun hp => ⟨fun hs => ⟨stow (serveStow_busy hp hs), level (serveLevel_busy (.inr rfl) hp (.inr (.inl hs))),
        fun u d hd hc => move (serveMove_stowing hd hp hc hs)⟩,
      fun hs hc => stow (serveStow_cutoff hp hs hc), fun hc => commit (serveCommit_busy hp hc),
      fun hc => reference (serveReference_capturing hp hc),
      fun hl => ⟨reference (serveReference_levelling hp hl), level (serveLevel_busy (.inl rfl) hp (.inl hl))⟩,
      fun hg hc hs hi hst hn => ?wind⟩, fun hp => ?checks⟩
  case wind =>
    have hr : s.heard.chansRefuse (s.heard.unitChans .awning) = none := by
      have hone : ∀ c ∈ s.unitChans .awning, c = 14 := fun c hc => List.mem_singleton.mp (List.mem_of_mem_filter hc)
      refine chansRefuse_none (fun c hc => ?_) (fun c hc => ?_)
      · rw [hone c hc]
        exact ⟨fun e => ChanState.noConfusion (hst.symm.trans e), fun e => ChanState.noConfusion (hst.symm.trans e)⟩
      · rw [hone c hc]
        exact hn
    exact move (u := .awning) (serveMove_wind (s := s.heard) rfl hp hc hs hi hr hg)
  case checks =>
    intro named sound ready roomsIn parked engine slide permits judged
    have hengine (h : ¬engine) : s.heard.engineOk = false := Bool.eq_false_iff.mpr (mt (engineOk_iff s).mp h)
    have hrooms (h : ¬roomsIn) : s.heard.roomsStowed = false := Bool.eq_false_iff.mpr (mt (roomsStowed_iff s).mp h)
    have hpermits (u : UnitId) (extend retract : Instr) (hm : s.heard.motionAny = true)
        (hx : (u = .awning → s.wgd.state = .armed) → ∀ p, s.heard.failedPermit u .extend = some p → named extend 0x05 p.code)
        (hr : ∀ p, s.heard.failedPermit u .retract = some p → named retract 0x05 p.code) : permits u extend retract := by
      cases u with
      | room r => exact fun h => hx nofun _ (failedPermit_slide hm (slideExtend_fails h) r)
      | awning => exact fun hg ha => hx (fun _ => hg) _ (failedPermit_awning hm (awningExtend_alarm ha))
      | jacks =>
        exact ⟨fun ha => hx nofun _ (failedPermit_alarm hm ha), fun ha he => hx nofun _ (failedPermit_engine_extend hm ha (hengine he)),
          fun hi => hr _ (failedPermit_rooms hm (hrooms hi)),
          fun hi he => hr _ (failedPermit_engine_retract hm ((roomsStowed_iff s).mpr hi) (hengine he))⟩
    have hjudged (u : UnitId) (l : List (Fin 16)) (extend retract : Instr) (v w : Served)
        (hv : Judged s.heard u l .extend v) (hw : Judged s.heard u l .retract w)
        (hx : ∀ k, v = answer s.heard k → exec extend s = .next (s.answered 0x05 tag k))
        (hr : ∀ k, w = answer s.heard k → exec retract s = .next (s.answered 0x05 tag k)) :
        ((s.unit u).state ≠ .idle → (s.unit u).origin ≠ some .user → refused extend 0x05 3 ∧ refused retract 0x05 3) ∧
        ((s.unit u).state = .idle → (¬sound l → refused extend 0x05 11 ∧ refused retract 0x05 11) ∧
        (sound l → ¬ready l → refused extend 0x05 12 ∧ refused retract 0x05 12) ∧
        (sound l → ready l → s.sgu.supply ≠ .normal ∨ s.sgu.budget < s.claimOf u →
          refused retract 0x05 8 ∧ ((u = .awning → s.wgd.state = .armed) → refused extend 0x05 8)) ∧
        (sound l → ready l → s.sgu.supply = .normal → s.claimOf u ≤ s.sgu.budget → permits u extend retract)) := by
      refine ⟨fun hn ho => ⟨hx _ (hv.busy hn ho), hr _ (hw.busy hn ho)⟩, fun hi => ⟨fun hs => ?_, fun hs hn => ?_, fun hs hn hsup => ?_,
        fun hs hn hsup hb => ?_⟩⟩
      · exact ⟨hx _ (hv.unable hi _ (chansRefuse_faulted hs)), hr _ (hw.unable hi _ (chansRefuse_faulted hs))⟩
      · exact ⟨hx _ (hv.unable hi _ (chansRefuse_lost hs hn)), hr _ (hw.unable hi _ (chansRefuse_lost hs hn))⟩
      · have hc := chansRefuse_none (s := s.heard) hs hn
        exact ⟨hr _ ((hw.fresh hi hc nofun).trans (moveFresh_supply (s := s.heard) hsup _ _)),
          fun hg => hx _ ((hv.fresh hi hc fun k => k.2.2 (hg k.1)).trans (moveFresh_supply (s := s.heard) hsup _ _))⟩
      · have hc := chansRefuse_none (s := s.heard) hs hn
        have hm : s.heard.motionAny = true := motionAny_run hp (by rw [show s.heard.sgu.supply = _ from hsup]; nofun)
        exact hpermits u extend retract hm
          (fun hg p hf => hx _ ((hv.fresh hi hc fun k => k.2.2 (hg k.1)).trans (moveFresh_permit (s := s.heard) hsup hb hf _)))
          (fun p hf => hr _ ((hw.fresh hi hc nofun).trans (moveFresh_permit (s := s.heard) hsup hb hf _)))
    refine ⟨fun u hc hs => ?unit, fun j => ?jack, fun o ho hl hs => ?level, fun id sj v => ⟨fun hr => ?noId, fun row hr => ?row⟩⟩
    case unit =>
      exact hjudged u _ _ _ _ _ (serveMove_judged (s := s.heard) rfl hp hc hs) (serveMove_judged (s := s.heard) rfl hp hc hs)
        (fun _ => move) (fun _ => move)
    case jack =>
      intro c hc
      refine ⟨fun hs => hjudged .jacks _ _ _ _ _ (serveMoveJack_judged (s := s.heard) rfl hp hc hs)
        (serveMoveJack_judged (s := s.heard) rfl hp hc hs) (fun _ => moveJack) (fun _ => moveJack), fun hs hn ho hmo hpe => ?_⟩
      have hu : s.heard.userDir .jacks (jackChan j) = none := (userDir_moving (s := s.heard) hpe).trans (by rw [show (s.heard.chan c).motion = _ from hmo]; rfl)
      have joins {b : Byte} {d : Dir} {k : List Byte} (hb : dirOf b = some d) (hv : s.heard.jackJoin (jackChan j) d = answer s.heard k) :
          exec (.moveJack tag j b) s = .next (s.answered 0x05 tag k) :=
        moveJack ((serveMoveJack_joins (s := s.heard) hb hp hc hs hn ho hu).trans hv)
      refine ⟨fun hf => ?_, fun hf hl => ?_, fun hf hl hcut => ?_, fun hf hl hcut => ?_⟩
      · exact ⟨joins rfl (jackJoin_unable (chansRefuse_faulted (s := s.heard) hf) _), joins rfl (jackJoin_unable (chansRefuse_faulted (s := s.heard) hf) _)⟩
      · exact ⟨joins rfl (jackJoin_unable (chansRefuse_lost (s := s.heard) hf hl) _), joins rfl (jackJoin_unable (chansRefuse_lost (s := s.heard) hf hl) _)⟩
      · have hm : s.heard.motionAny = false := by simp [State.motionAny, State.heard, hcut]
        have hnone := chansRefuse_none (s := s.heard) hf hl
        exact ⟨joins rfl (jackJoin_permit hnone (failedPermit_motion hm _ _)), joins rfl (jackJoin_permit hnone (failedPermit_motion hm _ _))⟩
      · have hnone := chansRefuse_none (s := s.heard) hf hl
        exact hpermits .jacks _ _ (motionAny_run hp hcut) (fun _ p hf => joins rfl (jackJoin_permit hnone hf)) (fun p hf => joins rfl (jackJoin_permit hnone hf))
    case level =>
      intro l known levels
      refine ⟨fun hb => level (serveLevel_busy ho hp (.inr (.inr hb))), fun hca hj => ?_⟩
      have hfree : LevelFree s.heard o := ⟨ho, hp, hl, hs, hca, hj⟩
      have hl : s.heard.levelJacks (decide (o = 1)) = l := by simp [State.levelJacks, l]; rfl
      refine ⟨fun hsup => level (serveLevel_supply hfree hsup), fun hsup hb => ⟨fun ha => level (serveLevel_attitude hfree hsup hb ha), fun ha =>
        ⟨fun hg => level (serveLevel_geometry hfree hsup hb ha hg), fun hg => ⟨fun hf => ?_, fun hf hn => ?_, fun hf hn => ?_⟩⟩⟩⟩
      · exact level (serveLevel_unable (r := .faulted) hfree hsup hb ha hg (hl.symm ▸ chansRefuse_faulted (s := s.heard) hf))
      · exact level (serveLevel_unable (r := .nodeLost) hfree hsup hb ha hg (hl.symm ▸ chansRefuse_lost (s := s.heard) hf hn))
      · have hr : s.heard.chansRefuse (s.heard.levelJacks (decide (o = 1))) = none := hl ▸ chansRefuse_none (s := s.heard) hf hn
        refine ⟨fun hk => level (serveLevel_homed hfree hsup hb ha hg hr hk), fun hk hle => ?_, fun hk hle he => ?_⟩
        · exact level (serveLevel_permit hfree hsup hb ha hg hr hk (Bool.eq_false_iff.mpr (mt (levelPermit_iff s).mp hle)))
        · exact level (serveLevel_engine hfree hsup hb ha hg hr hk ((levelPermit_iff s).mpr hle) (hengine he))
    case noId => exact paramSet (serveParamSet_noId (s := s.heard) hp hr)
    case row =>
      refine ⟨fun hv hm => paramSet (serveParamSet_noValue (s := s.heard) hp hr hv hm), fun hv => ⟨fun hsj => paramSet (serveParamSet_noSubject (s := s.heard) hp hr hv hsj),
        fun subject hsj => ⟨fun hc => paramSet (serveParamSet_busy (s := s.heard) hp hr hv hsj (.inl hc)), fun hb => ?_⟩⟩⟩
      refine paramSet (serveParamSet_busy (s := s.heard) hp hr hv hsj (.inr ?_))
      obtain ⟨u, c, hc, rfl, hw⟩ | ⟨r, rfl, hw⟩ | hb := hb
      · exact paramBusy_chan (s := s.heard) hc hw _
      · exact paramBusy_room (s := s.heard) hw _
      · have hid : id.toNat ∈ coachIds := by
          obtain ⟨rfl | rfl, -⟩ | ⟨rfl | rfl, -⟩ | ⟨rfl | rfl | rfl | rfl | rfl | rfl | rfl, -⟩ | ⟨rfl, -⟩ | ⟨rfl | rfl | rfl | rfl, -⟩ := hb <;> decide
        rw [coachIds_scope hid hr] at hsj
        obtain rfl := paramSubject_coach hsj
        simp only [← BitVec.toNat_inj] at hb
        exact paramBusy_coach (s := s.heard) hb

end Sys2Proof
end

section
/-! SUPPORT. What the events of requests leave aside, and the event of a request from what its owner hands on. -/

namespace Sys2Proof.Machine

/-! ## What a command leaves aside, as one value -/

/-- All that `Aside` compares, as one value. -/
def State.aside (s : State) :=
  ((s.frame, s.frameOver, s.restartFrame), s.sst, (s.sgu.supply, s.sgu.batHist, s.sgu.batAvg, s.sgu.counts),
    (s.atu.record, s.atu.capture, s.atu.accX, s.atu.accY, s.atu.blockCount), (s.ciu.ign, s.ciu.eng),
    (s.pli.rx, s.pli.rxLen, s.pli.rxBytes, s.pli.gapStart, s.pli.resetCause, s.pli.restartCause, s.pli.crcErrors,
      s.pli.lengthErrors, s.pli.brokenFrames, s.pli.overruns))

theorem aside_of_eq {s t : State} (h : t.aside = s.aside) : Aside s t := by
  simp only [State.aside, Prod.mk.injEq] at h
  obtain ⟨hframe, hsettings, hsupply, hattitude, hinputs, hlink⟩ := h
  exact ⟨hframe, hsettings, hsupply, hattitude, hinputs, hlink⟩

@[simp] theorem aside_offer (s : State) (n : Notice) : (s.offer n).aside = s.aside := by simp [State.aside]

@[simp] theorem aside_heard (s : State) : s.heard.aside = s.aside := by
  simp only [State.aside, State.heard, Pli.heard]
  split <;> rfl

@[simp] theorem aside_replied (s : State) (f : Frame) : (s.replied f).aside = s.aside := rfl

@[simp] theorem aside_evaluated (s : State) : s.evaluated.aside = s.aside := rfl

@[simp] theorem aside_finish (s : State) : (finish s).aside = s.aside := by simp [State.aside]

@[simp] theorem aside_chc (s : State) (x : Chc) : State.aside { s with chc := x } = s.aside := rfl

theorem aside_endUnit (s : State) (u : UnitId) (why : Reason) : (s.endUnit u why).aside = s.aside := by
  by_cases h : (s.unit u).state = .idle
  · unfold State.endUnit
    rw [if_pos h]
  · obtain ⟨v, w, e, -⟩ := endUnit_eq h why
    rw [e, aside_offer]
    rfl

theorem nodesStand_finish {s t : State} (h : t.nlc = s.nlc) : NodesStand s (finish t) := by
  intro n
  have hn : t.node n = s.node n := by simp only [State.node, h]
  rw [finish_node, hn]

/-! ## The event of a request -/

theorem still_replied {s : State} (h : Still s) (f : Frame) : Still (s.heard.replied f) := still_pli (still_pli h _) _

theorem parked_replied {s : State} (h : Parked s) (f : Frame) : Parked (s.heard.replied f) := ⟨h.park, h.alarm⟩

section
variable {s t : State} {i : Instr} {f : Frame} {v : Served} {m : Nat} {x : Bool} (hh : Hears s) (hr : s.mode = .running)
  (he : exec i s = request i s) (hf : encodeRequest i = some f) (hv : serve (decodeRequest f) s.heard = v)
include hh hr he hf hv

/-- A request whose acts end in a steady state with nothing queued. -/
theorem exec_does (hd : Does m x v.acts (v.st.replied (replyFrame f v.reply)) t) (hm : m ≤ 3000) (hs : Still t) (hp : Parked t)
    (hq : x = true → t.sgu.queue = []) : exec i s = .next (finish t) := by
  rw [he, request_event hf]
  exact event_does hr (does_request hh f hv hd) (by omega) hs hp hq

/-- The same, where the acts end with an evaluation of TRAVEL. -/
theorem exec_ends (hd : Does m x v.acts (v.st.replied (replyFrame f v.reply)) t.evaluated) (hm : m ≤ 3000) (hs : Still t)
    (hp : Parked t) (hq : x = true → t.sgu.queue = []) : exec i s = .next (finish t) := by
  rw [exec_does hh hr he hf hv hd hm (still_evaluated hs) (parked_evaluated hp) hq, finish_evaluated]
end

end Sys2Proof.Machine
end

section
/-! SUPPORT. The end of one motion record (R19, R20). -/

namespace Sys2Proof.Machine

theorem hasRecord_endMotion (s : State) (c : Fin 16) (u : UnitId) : (s.setChan c ((s.chan c).endMotion s.frame)).hasRecord u = true ↔
    ∃ d ∈ s.unitChans u, d ≠ c ∧ (s.chan d).motion ≠ none := by
  have hcore (d : Fin 16) : CoreEq ((s.setChan c ((s.chan c).endMotion s.frame)).chan d) (s.chan d) := by
    rw [State.setChan_chan]
    split
    · next hd => exact hd ▸ core_endMotion _ _
    · exact CoreEq.refl _
  unfold State.hasRecord
  rw [unitChans_congr hcore, List.any_eq_true]
  refine exists_congr fun d => and_congr_right fun _ => ?_
  rw [State.setChan_chan, Option.isSome_iff_ne_none]
  by_cases hd : d = c
  · simp [hd, endMotion_motion]
  · simp [hd]

section
variable {s : State} {c : Fin 16} {m : Motion} (hm : (s.chan c).motion = some m)
include hm

theorem chanEnd_acts (why : Reason) : act (.chanEnd c why) s =
    { st := s.setChan c ((s.chan c).endMotion s.frame)
      acts := if m.origin = .level then [] else if (s.setChan c ((s.chan c).endMotion s.frame)).hasRecord (unitOfChan c) then []
        else [.endUnits [ending (unitOfChan c) why .none]] } := by
  show actChanEnd c why s = _
  unfold actChanEnd
  rw [hm]
  rfl

/-- The record of LEVEL work ends and the unit goes on (R19). -/
theorem chanEnd_level (ho : m.origin = .level) (why : Reason) :
    act (.chanEnd c why) s = { st := s.setChan c ((s.chan c).endMotion s.frame), acts := [] } := by
  rw [chanEnd_acts hm, if_pos ho]

/-- The record ends where the unit keeps another. -/
theorem chanEnd_other (h : ∃ d ∈ s.unitChans (unitOfChan c), d ≠ c ∧ (s.chan d).motion ≠ none) (why : Reason) :
    act (.chanEnd c why) s = { st := s.setChan c ((s.chan c).endMotion s.frame), acts := [] } := by
  rw [chanEnd_acts hm, if_pos ((hasRecord_endMotion s c _).mpr h), ite_self]

/-- The unit's last record ends, and its work with it (R20). -/
theorem chanEnd_last (ho : m.origin ≠ .level) (h : ¬∃ d ∈ s.unitChans (unitOfChan c), d ≠ c ∧ (s.chan d).motion ≠ none) (why : Reason) :
    act (.chanEnd c why) s = { st := s.setChan c ((s.chan c).endMotion s.frame)
                               acts := [.endUnits [ending (unitOfChan c) why .none]] } := by
  rw [chanEnd_acts hm, if_neg ho, if_neg (fun k => h ((hasRecord_endMotion s c _).mp k))]
end

theorem still_endMotion {s : State} (h : Still s) (c : Fin 16) : Still (s.setChan c ((s.chan c).endMotion s.frame)) :=
  still_setChan h (core_endMotion _ _) fun _ => by simp [Channel.moves, endMotion_motion]

end Sys2Proof.Machine
end

section
/-! SUPPORT. A MOVE of work that goes on: new deadlines, or the end of what goes the other way (R12, R13). -/

namespace Sys2Proof.Machine

/-- A channel whose attended record has a new deadline (R12). -/
def Channel.refreshed (f : FrameNo) (x : Channel) : Channel :=
  { x with motion := x.motion.map fun m => if m.attended then { m with deadline := some f } else m }

theorem refreshed_core (f : FrameNo) (x : Channel) : CoreEq (x.refreshed f) x := ⟨rfl, rfl, rfl, rfl, rfl, rfl⟩

theorem refreshed_moves (f : FrameNo) (x : Channel) (d : Dir) : (x.refreshed f).moves d = x.moves d := by
  unfold Channel.refreshed Channel.moves
  cases x.motion with
  | none => rfl
  | some m => cases hm : m.attended <;> simp [hm]

theorem refreshed_attended {f : FrameNo} {x : Channel} {m : Motion} (h : x.motion = some m) (ha : m.attended = true) :
    x.refreshed f = { x with motion := some { m with deadline := some f } } := by
  simp [Channel.refreshed, h, ha]

theorem setUnit_self (s : State) (u : UnitId) : s.setUnit u (s.unit u) = s := by
  have h : s.chc.units.set (unitIdx u) (s.chc.units.get (unitIdx u)) = s.chc.units := by
    simp [Vector.get_eq_getElem]
  unfold State.setUnit State.unit
  rw [h]

theorem map_pending_nil {x : UnitRec} (h : x.pending = []) (f : Pending → Pending) : { x with pending := x.pending.map f } = x := by
  cases x
  simp_all

/-- With nothing pending a refresh concerns the channel's record alone. -/
theorem refreshChan_eq {s : State} {u : UnitId} (h : (s.unit u).pending = []) (c : Fin 16) :
    s.refreshChan u c = s.modChan c (Channel.refreshed s.deadline) := by
  unfold State.refreshChan
  simp only [map_pending_nil h, setUnit_self]
  rfl

theorem foldl_refreshChan {u : UnitId} : ∀ (l : List (Fin 16)) {s : State}, (s.unit u).pending = [] →
    l.foldl (fun t c => t.refreshChan u c) s = l.foldl (fun t c => t.modChan c (Channel.refreshed s.deadline)) s
  | [], _, _ => rfl
  | c :: l, s, h => by
    rw [List.foldl_cons, List.foldl_cons, refreshChan_eq h]
    exact foldl_refreshChan l (s := s.modChan c (Channel.refreshed s.deadline)) h

theorem moveHeld_same {s : State} {u : UnitId} {d : Dir} (hu : u ≠ .jacks) (hp : (s.unit u).pending = [])
    (h : ∀ c ∈ s.unitChans u, s.userDir u c = some d) : s.moveHeld u d =
      { st := (s.unitChans u).foldl (fun t c => t.modChan c (Channel.refreshed s.deadline)) s, reply := codeReply .ok, acts := [] } := by
  have hany : ((s.unitChans u).any fun c => decide ((s.userDir u c).isSome ∧ s.userDir u c ≠ some d)) = false := by
    rw [List.any_eq_false]
    intro c hc
    simp [h c hc]
  unfold State.moveHeld
  cases u with
  | jacks => exact absurd rfl hu
  | room r => simp only [hany, Bool.false_eq_true, if_false, foldl_refreshChan _ hp]
  | awning => simp only [hany, Bool.false_eq_true, if_false, foldl_refreshChan _ hp]

theorem moveHeld_opposite {s : State} {u : UnitId} {d e : Dir} (hu : u ≠ .jacks) {c : Fin 16} (hc : c ∈ s.unitChans u)
    (h : s.userDir u c = some e) (he : e ≠ d) :
    s.moveHeld u d = { st := s, reply := codeReply .okStopped, acts := [.endUnits [ending u .stopped .stopped]] } := by
  have hany : ((s.unitChans u).any fun c => decide ((s.userDir u c).isSome ∧ s.userDir u c ≠ some d)) = true :=
    List.any_eq_true.mpr ⟨c, hc, by simp [h, he]⟩
  unfold State.moveHeld
  cases u with
  | jacks => exact absurd rfl hu
  | room r => simp only [hany, if_true]
  | awning => simp only [hany, if_true]

theorem userDir_record {s : State} {u : UnitId} {c : Fin 16} (hp : (s.unit u).pending = []) {m : Motion}
    (hm : (s.chan c).motion = some m) : s.userDir u c = some m.dir := by
  rw [userDir_moving (by simp [hp]), hm]
  rfl

theorem unitOfChan_jack (j : Fin 6) : unitOfChan (jackChan j) = .jacks := by fin_cases j <;> rfl

end Sys2Proof.Machine

namespace Sys2Proof

open Machine

/-- Settles O49: a refresh changes the deadlines alone; the other direction is the end of the unit's, or of the jack's, work. -/
theorem moveRefreshesOrStops : Obligations.MoveRefreshesOrStops := by
  intro tag b d s hs hh hp hstow hd deadline refreshed
  refine ⟨fun u hu hc hw ho hpe => ⟨fun hall => ?same, fun c hcu m hm hmd hq => ?opposite⟩, fun j => ?jack⟩
  case same =>
    have hdir (c : Fin 16) (hc : c ∈ s.unitChans u) : s.heard.userDir u c = some d := by
      obtain ⟨m, hm, hmd, -⟩ := hall c hc
      rw [userDir_record (s := s.heard) hpe hm, hmd]
    obtain ⟨v, hfold, hout, hin⟩ := foldl_modChan (Channel.refreshed s.deadline) (s.unitChans u) s.heard
    replace hin := hin (nodup_unitChans s u)
    have hv : serveMove s.heard (unitByte u) b =
        { st := { s.heard with chc := { s.chc with chans := v } }, reply := codeReply .ok, acts := [] } :=
      (serveMove_held (s := s.heard) hd hp hc hstow (fun e => UnitState.noConfusion (hw.symm.trans e)) ho).trans
        ((moveHeld_same (s := s.heard) hu hpe hdir).trans (congrArg (fun x => ({ st := x, reply := codeReply .ok, acts := [] } : Served)) hfold))
    let t : State := ({ s with chc := { s.chc with chans := v } } : State).heard.replied (replyTo 0x05 tag [0])
    have hcore (c : Fin 16) : CoreEq (t.chan c) (s.chan c) ∧ ((s.chan c).moves .retract = false → (t.chan c).moves .retract = false) := by
      by_cases hc : c ∈ s.unitChans u
      · rw [show t.chan c = _ from hin c hc]
        exact ⟨refreshed_core _ _, fun k => (refreshed_moves _ _ _).trans k⟩
      · rw [show t.chan c = _ from hout c hc]
        exact ⟨CoreEq.refl _, id⟩
    have hstill : Still t := still_congr (fun c => (hcore c).1) rfl (fun _ => rfl) rfl (fun c => (hcore c).2) hs.still
    have hexec := exec_does (i := .move tag (unitByte u) b) (x := false) (t := t) hh hs.running rfl rfl ((congrArg (serve · _) (decode_move (unitByte_not_jack u) tag b)).trans hv)
      (does_nil t) (by omega) hstill (parked_of_ciu hs.parked rfl rfl) nofun
    refine ⟨finish t, hexec, fun c hc m hm => ?_, fun c hc => hout c hc, fun _ => rfl, by simp [t, State.replied],
      ⟨rfl, rfl, rfl⟩, aside_of_eq ?_, nodesStand_finish rfl, rfl, rfl, rfl, rfl, rfl⟩
    · obtain ⟨m', hm', -, ha⟩ := hall c hc
      obtain rfl := Option.some.inj (hm.symm.trans hm')
      exact (hin c hc).trans (refreshed_attended hm ha)
    · simp [t]
  case opposite =>
    have hv := (serveMove_held (s := s.heard) hd hp hc hstow (fun e => UnitState.noConfusion (hw.symm.trans e)) ho).trans
      (moveHeld_opposite hu hcu (userDir_record (s := s.heard) hpe hm) hmd)
    exact exec_ends hh hs.running rfl rfl ((congrArg (serve · _) (decode_move (unitByte_not_jack u) tag b)).trans hv)
      (does_ends (still_replied hs.still _) (parked_replied hs.parked _) (fun e => UnitState.noConfusion (hw.symm.trans e)) ho)
      (by omega) (endUnit_still (still_replied hs.still _) _ _) (endUnit_parked (parked_replied hs.parked _) _ _)
      fun _ => endUnit_queue (s := s.heard.replied _) (fun e => UnitState.noConfusion (hw.symm.trans e)) hq _
  case jack =>
    intro c m hw ho hpe hpop hk hm hmo ha
    have hu : s.heard.userDir .jacks (jackChan j) = some m.dir := userDir_record (s := s.heard) hpe hm
    have hv := serveMoveJack_held (s := s.heard) hd hp hpop hstow (fun e => UnitState.noConfusion (hw.symm.trans e)) ho hu
    refine ⟨fun hmd => ?_, fun hmd hother => ?_⟩
    · rw [if_pos hmd, refreshChan_eq (s := s.heard) hpe] at hv
      have hx : (s.chan c).refreshed s.deadline = refreshed c m := refreshed_attended hm ha
      refine exec_does (m := 0) (x := false) hh hs.running rfl rfl ((congrArg (serve · _) (decode_moveJack tag b j)).trans hv) ?_ (by omega)
        (still_setChan (x := refreshed c m) (still_replied hs.still _) ?_ ?_) (parked_of_ciu hs.parked rfl rfl) nofun
      · rw [← hx]
        exact does_nil _
      · rw [← hx]
        exact refreshed_core _ _
      · rw [← hx]
        exact (refreshed_moves _ _ _).trans
    · rw [if_neg hmd] at hv
      obtain ⟨e, he, hne, hme⟩ := hother
      have hstop : s.heard.stopJack (jackChan j) = .chanEnd c .stopped := if_pos (by rw [show (s.heard.chan c).motion = _ from hm]; rfl)
      rw [hstop] at hv
      have huc : unitOfChan c = .jacks := unitOfChan_jack j
      refine exec_does hh hs.running rfl rfl ((congrArg (serve · _) (decode_moveJack tag b j)).trans hv)
        (does_done (by simp) (chanEnd_other (s := s.heard.replied _) hm ⟨e, huc ▸ he, hne, hme⟩ _) (does_nil _)) (by omega)
        (still_endMotion (still_replied hs.still _) c)
        (parked_of_ciu hs.parked rfl rfl) nofun

end Sys2Proof
end

section
/-! SUPPORT. The end of work of any origin, with what its requester does of it (R19, R107, R137, R156, R157). -/

namespace Sys2Proof.Machine

/-! ## One unit -/

/-- An act by what it answers. -/
theorem does_act {m : Nat} {x : Bool} {a : Act} {s t : State} {o : Out} (ha : a ≠ .exam ∧ a.requests = false) (he : act a s = o)
    (h : Does m x o.acts o.st t) : Does (m + 1) x [a] s t := by
  subst he
  simpa using does_cons ha h (does_nil t)

/-- The end of one unit's work, up to what its requester does (R19, R20). -/
theorem does_endWork {s t : State} {e : Ending} {o : Origin} {m : Nat} {x : Bool} (hs : Still s) (hp : Parked s)
    (hw : (s.unit e.unit).state ≠ .idle) (ho : (s.unit e.unit).origin = some o) (hsp : s.sparesStep e = false)
    (h : Does m x [.handOff e o] (s.endUnit e.unit e.why).evaluated t) : Does (m + 4) true [.endUnits [e]] s t := by
  have hact : act (.endUnits [e]) s =
      { st := s.endUnit e.unit e.why, acts := [.restCheck false] ++ .exam :: [.handOff e o] } := by
    simp [act, actEndUnits, hw, ho, hsp]
  have hd := does_append (does_evaluate (endUnit_still hs e.unit e.why) (endUnit_parked hp e.unit e.why) false) (does_exam h)
  exact does_mono (does_act (by simp) hact hd) (by omega)

theorem sparesStep_of_why {s : State} {e : Ending} (h : e.why ≠ .fault) : s.sparesStep e = false := by
  unfold State.sparesStep
  rw [decide_eq_false (fun k => h k.1), Bool.false_and]

/-! ## Several units -/

theorem endUnit_idle {s : State} {u : UnitId} (h : (s.unit u).state = .idle) (why : Reason) : s.endUnit u why = s := if_pos h

theorem endUnit_unit (s : State) (u v : UnitId) (why : Reason) :
    (s.endUnit u why).unit v = if v = u ∧ (s.unit u).state ≠ .idle then .reset else s.unit v := by
  by_cases h : (s.unit u).state = .idle
  · rw [endUnit_idle h, if_neg (fun k => k.2 h)]
  · by_cases hv : v = u
    · rw [hv, (endUnit_ended h why).idle, if_pos ⟨rfl, h⟩]
    · rw [(endUnit_ended h why).others v hv, if_neg (fun k => hv k.1)]

theorem endUnit_keeps_idle {s : State} {v : UnitId} (h : (s.unit v).state = .idle) (u : UnitId) (why : Reason) :
    ((s.endUnit u why).unit v).state = .idle := by
  rw [endUnit_unit]
  split
  · rfl
  · exact h

/-- Idle units may be left out of a list of units whose work ends. -/
theorem foldl_endUnit_filter {p : UnitId → Bool} {why : Reason} : ∀ (l : List UnitId) (s : State),
    (∀ v ∈ l, p v = false → (s.unit v).state = .idle) →
    (l.filter p).foldl (fun t v => t.endUnit v why) s = l.foldl (fun t v => t.endUnit v why) s
  | [], _, _ => rfl
  | v :: l, s, h => by
    have hl : ∀ w ∈ l, p w = false → ((s.endUnit v why).unit w).state = .idle := fun w hw hp =>
      endUnit_keeps_idle (h w (.tail _ hw) hp) v why
    cases hv : p v with
    | true => rw [List.filter_cons_of_pos hv, List.foldl_cons, List.foldl_cons, foldl_endUnit_filter l _ hl]
    | false =>
      rw [List.filter_cons_of_neg (by simp [hv]), List.foldl_cons, endUnit_idle (h v (.head _) hv),
        foldl_endUnit_filter l s fun w hw => h w (.tail _ hw)]

/-- What every end of work keeps, the ends of several units keep. -/
theorem foldl_endUnit_keeps {P : State → Prop} {why : Reason} (h : ∀ t v, P t → P (t.endUnit v why)) :
    ∀ (l : List UnitId) {s : State}, P s → P (l.foldl (fun t v => t.endUnit v why) s)
  | [], _, hs => hs
  | v :: l, _, hs => foldl_endUnit_keeps h l (h _ v hs)

/-- An entry that still waits after several ends belongs to none of the units that ended. -/
theorem mem_foldl_endUnit_queue {why : Reason} {e : QEntry} : ∀ (l : List UnitId) {s : State},
    e ∈ (l.foldl (fun t v => t.endUnit v why) s).sgu.queue → e ∈ s.sgu.queue ∧ (e.unit ∈ l → (s.unit e.unit).state = .idle)
  | [], _, h => ⟨h, by simp⟩
  | v :: l, s, h => by
    obtain ⟨hq, hl⟩ := mem_foldl_endUnit_queue l (s := s.endUnit v why) h
    by_cases hv : (s.unit v).state = .idle
    · rw [endUnit_idle hv] at hq hl
      exact ⟨hq, fun hm => (List.mem_cons.mp hm).elim (fun heq => heq ▸ hv) hl⟩
    · rw [(endUnit_ended hv why).queue, List.mem_filter] at hq
      obtain ⟨hq, hne⟩ := hq
      have hne : e.unit ≠ v := of_decide_eq_true hne
      refine ⟨hq, fun hm => ?_⟩
      have := hl ((List.mem_cons.mp hm).resolve_left hne)
      rwa [endUnit_unit, if_neg (fun k => hne k.1)] at this

/-- Acts that find nothing to do. -/
theorem does_nothing {s : State} : ∀ {l : List Act}, (∀ a ∈ l, (a ≠ .exam ∧ a.requests = false) ∧ act a s = .done s) →
    Does l.length false l s s
  | [], _ => does_nil s
  | a :: _, h => does_done (h a (.head _)).1 (h a (.head _)).2 (does_nothing fun b hb => h b (.tail _ hb))

/-- The state with another level of the TRAVEL line. -/
def State.withTravel (s : State) (b : Bool) : State := { s with ciu := { s.ciu with travel := b } }

theorem finish_withTravel (s : State) (b : Bool) : finish (s.withTravel b) = finish s := finish_travel s b

theorem still_withTravel {s : State} (h : Still s) (b : Bool) : Still (s.withTravel b) := ⟨h.exposed, h.jacks⟩

theorem parked_withTravel {s : State} (h : Parked s) (b : Bool) : Parked (s.withTravel b) := ⟨h.park, h.alarm⟩

/-- A request whose acts end in a steady state but for TRAVEL, with nothing queued. -/
theorem exec_over {s t : State} {i : Instr} {f : Frame} {v : Served} {m : Nat} {x b : Bool} (hh : Hears s)
    (hr : s.mode = .running) (he : exec i s = request i s) (hf : encodeRequest i = some f)
    (hv : serve (decodeRequest f) s.heard = v) (hd : Does m x v.acts (v.st.replied (replyFrame f v.reply)) (t.withTravel b))
    (hm : m ≤ 3000) (hs : Still t) (hp : Parked t) (hq : x = true → t.sgu.queue = []) : exec i s = .next (finish t) := by
  rw [exec_does hh hr he hf hv hd hm (still_withTravel hs b) (parked_withTravel hp b) hq, finish_withTravel]

/-- The ends of several units' work, one reason for all, where no requester does anything of them (R20, R71). -/
theorem does_endWorks {s : State} {why : Reason} {cause : Cause} (l : List UnitId) (hs : Still s) (hp : Parked s) (hf : why ≠ .fault)
    (hh : ∀ v ∈ l, ∀ o, (s.unit v).origin = some o →
      act (.handOff (ending v why cause) o) (l.foldl (fun t v => t.endUnit v why) s).evaluated
        = .done (l.foldl (fun t v => t.endUnit v why) s).evaluated) :
    ∃ x b, Does (l.length + 4) x [.endUnits (l.map fun v => ending v why cause)] s
      ((l.foldl (fun t v => t.endUnit v why) s).withTravel b) := by
  obtain ⟨L, hL⟩ : ∃ L, L = l.filter fun v => decide ((s.unit v).state ≠ .idle) := ⟨_, rfl⟩
  have hlive : (l.map fun v => ending v why cause).filter (fun e => decide ((s.unit e.unit).state ≠ .idle))
      = L.map fun v => ending v why cause := by
    rw [List.filter_map, hL]
    rfl
  have hfold : (L.map fun v => ending v why cause).foldl (fun t e => t.endUnit e.unit e.why) s
      = l.foldl (fun t v => t.endUnit v why) s := by
    rw [List.foldl_map, hL]
    exact foldl_endUnit_filter l s fun v _ hv => by simpa using hv
  have hact : act (.endUnits (l.map fun v => ending v why cause)) s =
      { st := l.foldl (fun t v => t.endUnit v why) s
        acts := if L.length = 0 then [] else [.restCheck false, .exam] ++
          L.filterMap fun v => ((s.unit v).origin).map fun o => Act.handOff (ending v why cause) o } := by
    have htold : (L.map fun v => ending v why cause).filter (fun e => !s.sparesStep e) = L.map fun v => ending v why cause :=
      List.filter_eq_self.mpr fun e he => by
        obtain ⟨v, -, rfl⟩ := List.mem_map.mp he
        rw [sparesStep_of_why hf]
        rfl
    simp only [act, actEndUnits, hlive, hfold, htold, List.filterMap_map, List.length_map]
    rfl
  by_cases hnone : L.length = 0
  · rw [if_pos hnone] at hact
    have hsame : l.foldl (fun t v => t.endUnit v why) s = s := by
      rw [← hfold, List.length_eq_zero_iff.mp hnone]
      rfl
    rw [hsame] at hact ⊢
    exact ⟨false, s.ciu.travel, does_mono (does_done (by simp) hact (does_nil _)) (by omega)⟩
  · rw [if_neg hnone] at hact
    have hstill := foldl_endUnit_keeps (P := Still) (why := why) (fun t v h => endUnit_still h v why) l hs
    have hparked := foldl_endUnit_keeps (P := Parked) (why := why) (fun t v h => endUnit_parked h v why) l hp
    have hhands := does_nothing (s := (l.foldl (fun t v => t.endUnit v why) s).evaluated)
      (l := L.filterMap fun v => ((s.unit v).origin).map fun o => Act.handOff (ending v why cause) o) (fun a ha => by
        obtain ⟨v, hv, ha⟩ := List.mem_filterMap.mp ha
        obtain ⟨o, ho, rfl⟩ := Option.map_eq_some_iff.mp ha
        exact ⟨by simp, hh v (List.mem_of_mem_filter (hL ▸ hv)) o ho⟩)
    have hlen : (L.filterMap fun v => ((s.unit v).origin).map fun o => Act.handOff (ending v why cause) o).length ≤ l.length :=
      le_trans (List.length_filterMap_le _ _) (hL ▸ List.length_filter_le _ _)
    have hd := does_append (does_evaluate hstill hparked false) (does_exam hhands)
    exact ⟨true, (l.foldl (fun t v => t.endUnit v why) s).travelRule,
      show Does _ _ _ _ (State.evaluated _) from does_mono (does_act (by simp) hact hd) (by omega)⟩

/-! ## A level sequence -/

/-- The level sequence has ended: the work of JACKS, the result record, LEVEL_DONE (R90, R107). -/
def State.levelOver (s : State) (o : LvOutcome) (cause : Cause) (final : Int × Int) : State :=
  let q := s.lvs.seq
  { (s.endUnit .jacks o.reason).offer (.levelDone o cause q.state q.passes final.1 final.2 q.clamped) with
    lvs := { seq := .reset
             result := { outcome := o, cause := cause, endedIn := some q.state, passes := q.passes, pitch := final.1
                         roll := final.2, clamped := q.clamped, positions := s.jackPositions } } }

section
variable {s : State} (o : LvOutcome) (cause : Cause) (final : Int × Int)

theorem still_levelOver (h : Still s) : Still (s.levelOver o cause final) :=
  ⟨(endUnit_still h .jacks o.reason).exposed, (endUnit_still h .jacks o.reason).jacks⟩

theorem parked_levelOver (h : Parked s) : Parked (s.levelOver o cause final) :=
  parked_of_ciu h (endUnit_ciu s _ _) (congrArg Sst.phase (endUnit_sst s _ _))

theorem actLvsEnd_level (hst : s.lvs.seq.state ≠ .idle) (ho : (s.unit .jacks).origin = some .level) (f : Option (Int × Int)) :
    actLvsEnd o cause f s = { st := s.levelOver o cause (f.getD (s.atu.record.pitch, s.atu.record.roll))
                              acts := [.restCheck false, .exam] } := by
  unfold actLvsEnd
  simp only [if_neg hst, if_pos ho, endUnit_positions]
  rfl

theorem does_lvsEnd (hs : Still s) (hp : Parked s) (hst : s.lvs.seq.state ≠ .idle) (ho : (s.unit .jacks).origin = some .level)
    (f : Option (Int × Int)) : Does 4 true [.lvsEnd o cause f] s
      (s.levelOver o cause (f.getD (s.atu.record.pitch, s.atu.record.roll))).evaluated := by
  have hd := does_append (does_evaluate (still_levelOver o cause (f.getD (s.atu.record.pitch, s.atu.record.roll)) hs)
    (parked_levelOver o cause _ hp) false) (does_exam (does_nil _))
  exact does_act (by simp) (actLvsEnd_level o cause hst ho f) hd

theorem levelOver_queue (hw : (s.unit .jacks).state ≠ .idle) (hq : s.queueOnly .jacks) :
    (s.levelOver o cause final).sgu.queue = [] := endUnit_queue hw hq o.reason
end

section
variable (s : State) (o : LvOutcome) (cause : Cause) (final : Int × Int)

theorem levelOver_unit (u : UnitId) : (s.levelOver o cause final).unit u = (s.endUnit .jacks o.reason).unit u := rfl
theorem levelOver_chan (c : Fin 16) : (s.levelOver o cause final).chan c = (s.endUnit .jacks o.reason).chan c := rfl
@[simp] theorem levelOver_ciu : (s.levelOver o cause final).ciu = s.ciu := endUnit_ciu s _ _
@[simp] theorem levelOver_flt : (s.levelOver o cause final).flt = s.flt := endUnit_flt s _ _
@[simp] theorem levelOver_wgd : (s.levelOver o cause final).wgd = s.wgd := endUnit_wgd s _ _
@[simp] theorem levelOver_nlc : (s.levelOver o cause final).nlc = s.nlc := endUnit_nlc s _ _

@[simp] theorem endUnit_slot (u : UnitId) (why : Reason) : (s.endUnit u why).pli.slot = s.pli.slot := by
  by_cases h : (s.unit u).state = .idle
  · rw [endUnit_idle h]
  · obtain ⟨v, w, e, -⟩ := endUnit_eq h why
    rw [e, offer_pli, pliOffer_slot]

@[simp] theorem levelOver_slot : (s.levelOver o cause final).pli.slot = s.pli.slot := by
  show (State.offer _ _).pli.slot = _
  rw [offer_pli, pliOffer_slot, endUnit_slot]
end

theorem aside_levelOver (s : State) (o : LvOutcome) (cause : Cause) (final : Int × Int) :
    (s.levelOver o cause final).aside = s.aside :=
  (aside_offer _ _).trans (aside_endUnit s _ _)

/-- The end of a level sequence that is stopped or aborted. -/
theorem levelOver_ended {s : State} (hw : (s.unit .jacks).state ≠ .idle) (o : LvOutcome) (cause : Cause) :
    LevelEnded s (finish (s.levelOver o cause (s.atu.record.pitch, s.atu.record.roll))) s.lvs.seq.state o cause := by
  have h := endUnit_ended hw o.reason
  exact ⟨rfl, rfl, h.idle, h.chans, h.otherChans, h.grants⟩

end Sys2Proof.Machine
end

section
/-! SUPPORT. STOP and STOP_ALL (R17, R18). -/

namespace Sys2Proof.Machine

theorem serveStop_unit {s : State} {u : UnitId} (h : s.configured u = true) : serveStop s (unitByte u) =
    { st := s, reply := codeReply .ok, acts := [.endUnits [ending u .stopped .stopped]] } := by
  unfold serveStop
  rw [unitOf_byte]
  exact if_pos h

/-- Where one unit at most works, the end of all units' work is the end of that unit's. -/
theorem endUnits_all {s : State} {u : UnitId} (h : ∀ v, v ≠ u → (s.unit v).state = .idle) (why : Reason) (cause : Cause) :
    act (.endUnits (allUnits.map fun v => ending v why cause)) s = act (.endUnits [ending u why cause]) s := by
  have hlive : (allUnits.map fun v => ending v why cause).filter (fun e => decide ((s.unit e.unit).state ≠ .idle))
      = [ending u why cause].filter fun e => decide ((s.unit e.unit).state ≠ .idle) := by
    rw [List.filter_map]
    by_cases hu : (s.unit u).state = .idle
    · have hall (v : UnitId) : (s.unit v).state = .idle := by
        by_cases hv : v = u
        · rw [hv, hu]
        · exact h v hv
      simp [Function.comp_def, ending, hall]
    · rw [filter_one (a := u) (by decide) (mem_allUnits u)]
      · simp [ending, hu]
      · intro v _
        show decide ((s.unit v).state ≠ .idle) = true ↔ _
        rw [decide_eq_true_eq]
        exact ⟨fun k => by_contra fun hv => k (h v hv), fun hv => hv ▸ hu⟩
  simp only [act, actEndUnits, hlive]

/-- Acts that do the same lead to the same. -/
theorem does_congr {s t : State} {a b : Act} {m : Nat} {x : Bool} (ha : a ≠ .exam ∧ a.requests = false)
    (hb : b ≠ .exam ∧ b.requests = false) (hab : act a s = act b s) (h : Does m x [b] s t) : Does m x [a] s t := by
  have hrun (n : Nat) (e : Bool) (k : List Act) : run n e (a :: k) s = run n e (b :: k) s := by
    cases n with
    | zero => cases e <;> rfl
    | succ n => rw [run_act n e a k s ha, run_act n e b k s hb, hab]
  obtain ⟨j, hj, hh⟩ := h
  exact ⟨j, hj, fun n e k => (hrun _ e k).trans (hh n e k)⟩

theorem does_stowEnd_idle {s : State} (h : s.ciu.stow.state = .idle) (o : StowOutcome) (c : Cause) (sj : Option Subject) :
    Does 1 false [.stowEnd o c sj] s s := does_done (by simp) (if_pos h) (does_nil _)

/-- STOP of a unit that is idle or works for the user. -/
theorem does_stop {s : State} {u : UnitId} (hs : Still s) (hp : Parked s) (h : (s.unit u).state ≠ .idle → (s.unit u).origin = some .user) :
    ∃ b, Does 5 (decide ((s.unit u).state ≠ .idle)) [.endUnits [ending u .stopped .stopped]] s ((s.endUnit u .stopped).withTravel b) := by
  by_cases hi : (s.unit u).state = .idle
  · rw [endUnit_idle hi, decide_eq_false (not_not.mpr hi)]
    exact ⟨s.ciu.travel, does_mono (does_endUnits_idle (by simpa [ending] using hi)) (by omega)⟩
  · rw [decide_eq_true hi]
    exact ⟨_, does_ends hs hp hi (h hi)⟩

theorem evaluated_withTravel (s : State) (b : Bool) : (s.withTravel b).evaluated = s.evaluated := rfl

/-! ## A level sequence that is stopped (R107) -/

/-- The LVS ends a sequence whose unit's work has ended before. -/
theorem does_lvsEnd_after {s : State} {o : LvOutcome} (hs : Still s) (hp : Parked s) (hst : s.lvs.seq.state ≠ .idle)
    (hw : (s.unit .jacks).state ≠ .idle) (cause : Cause) :
    Does 4 true [.lvsEnd o cause none] (s.endUnit .jacks o.reason).evaluated
      (s.levelOver o cause (s.atu.record.pitch, s.atu.record.roll)).evaluated := by
  have hact : act (.lvsEnd o cause none) (s.endUnit .jacks o.reason).evaluated =
      { st := (s.levelOver o cause (s.atu.record.pitch, s.atu.record.roll)).withTravel (s.endUnit .jacks o.reason).travelRule
        acts := [.restCheck false, .exam] } := by
    have hseq : (s.endUnit .jacks o.reason).evaluated.lvs = s.lvs := endUnit_lvs s _ _
    have horigin : ((s.endUnit .jacks o.reason).evaluated.unit .jacks).origin ≠ some .level := by
      rw [show (s.endUnit .jacks o.reason).evaluated.unit .jacks = .reset from (endUnit_ended hw _).idle]
      nofun
    have hatu : (s.endUnit .jacks o.reason).evaluated.atu = s.atu := endUnit_atu s _ _
    have hpos : (s.endUnit .jacks o.reason).evaluated.jackPositions = s.jackPositions := endUnit_positions s _ _
    show actLvsEnd o cause none _ = _
    unfold actLvsEnd
    simp only [hseq, if_neg hst, if_neg horigin, hatu, hpos]
    rfl
  have hd := does_append (does_evaluate (still_withTravel (still_levelOver o cause (s.atu.record.pitch, s.atu.record.roll) hs)
    (s.endUnit .jacks o.reason).travelRule) (parked_withTravel (parked_levelOver o cause _ hp) _) false) (does_exam (does_nil _))
  rw [evaluated_withTravel] at hd
  exact does_act (by simp) hact hd

/-- The end of JACKS with STOPPED under a level sequence ends the sequence ABORTED (TABLE 6-10). -/
theorem does_stop_level {s : State} {st : LvState} {since : FrameNo} (hl : s.Levelling st since) (hst : st ≠ .idle) :
    Does 9 true [.endUnits [ending .jacks .stopped .stopped]] s
      (s.levelOver .aborted .none (s.atu.record.pitch, s.atu.record.roll)).evaluated := by
  have hidle : s.lvs.seq.state ≠ .idle := hl.state ▸ hst
  have hw : (s.unit .jacks).state ≠ .idle := fun e => UnitState.noConfusion (hl.jacks.1.symm.trans e)
  have hseq : (s.endUnit .jacks .stopped).evaluated.lvs = s.lvs := endUnit_lvs s _ _
  have hact : act (.handOff (ending .jacks .stopped .stopped) .level) (s.endUnit .jacks .stopped).evaluated =
      { st := (s.endUnit .jacks .stopped).evaluated, acts := [.lvsEnd .aborted .none none] } := by
    simp [act, actHandOff, lvsUnitEnd, ending, hseq, hidle, hl.recorded]
  exact does_endWork hl.steady.still hl.steady.parked hw hl.jacks.2 (sparesStep_of_why nofun)
    (does_act (by simp) hact (does_lvsEnd_after (o := .aborted) hl.steady.still hl.steady.parked hidle hw .none))

/-- STOP_ALL ends the level sequence first (R18; log entry 51). -/
theorem does_stopAll_level {s : State} {st : LvState} {since : FrameNo} (hl : s.Levelling st since) (hst : st ≠ .idle)
    (hstow : s.ciu.stow.state = .idle) : Does 9 true (serveStopAll s).acts s
      (s.levelOver .aborted .none (s.atu.record.pitch, s.atu.record.roll)).evaluated := by
  have hidle : s.lvs.seq.state ≠ .idle := hl.state ▸ hst
  obtain ⟨t, ht⟩ : ∃ t, t = s.levelOver .aborted .none (s.atu.record.pitch, s.atu.record.roll) := ⟨_, rfl⟩
  have hd : Does 4 true [.lvsEnd .aborted .none none] s t.evaluated :=
    ht ▸ does_lvsEnd .aborted .none hl.steady.still hl.steady.parked hidle hl.jacks.2 none
  have hstow' : t.evaluated.ciu.stow.state = .idle := by
    show t.ciu.stow.state = _
    rw [ht, levelOver_ciu, hstow]
  have hunits : ∀ e ∈ allUnits.map (fun u => ending u .stopped .stopped), (t.evaluated.unit e.unit).state = .idle := by
    intro e he
    obtain ⟨v, -, rfl⟩ := List.mem_map.mp he
    show (t.unit v).state = _
    rw [ht, levelOver_unit, endUnit_unit]
    split
    · rfl
    · next hv => exact hl.others _ fun k => hv ⟨k, fun e => UnitState.noConfusion (hl.jacks.1.symm.trans e)⟩
  rw [← ht]
  exact does_append hd (does_append (does_stowEnd_idle hstow' .aborted .stopped none) (does_mono (m' := 4) (does_endUnits_idle hunits) (by omega)))

/-! ## A unit that the stow step awaits (R17, R156, R157) -/

/-- The end of a unit's work does not look at the CIU. -/
theorem endUnit_setCiu (s : State) (u : UnitId) (why : Reason) (c : Ciu) :
    State.endUnit { s with ciu := c } u why = { s.endUnit u why with ciu := c } := by
  unfold State.endUnit
  by_cases h : (s.unit u).state = .idle
  · rw [if_pos h]
    exact if_pos h
  · rw [if_neg h]
    refine (if_neg h).trans ?_
    cases u <;> rfl

theorem foldl_endUnit_setCiu {why : Reason} {c : Ciu} : ∀ (l : List UnitId) (s : State),
    l.foldl (fun t v => t.endUnit v why) { s with ciu := c } = { l.foldl (fun t v => t.endUnit v why) s with ciu := c }
  | [], _ => rfl
  | v :: l, s => by rw [List.foldl_cons, List.foldl_cons, endUnit_setCiu, foldl_endUnit_setCiu l]

/-- The units that work for the stow besides u. -/
def State.stowUnits (s : State) (u : UnitId) : List UnitId := allUnits.filter fun v => decide (v ≠ u ∧ (s.unit v).origin = some .stow)

/-- The stow work besides that of u has ended with STOPPED. -/
def State.stowStopped (s : State) (u : UnitId) : State :=
  (s.stowUnits u).foldl (fun w v => w.endUnit v .stopped) (s.endUnit u .stopped)

/-- The stow sequence has ended ABORTED with cause STOPPED and u as its subject (R157). -/
def State.stowOver (s : State) (u : UnitId) : State :=
  let q := s.ciu.stow
  { (s.stowStopped u).offer (.stowDone .aborted q.trigger (some q.state) .stopped (some (.unit u))) with
    ciu := { s.ciu with
      stow := .reset
      result := { outcome := .aborted, trigger := q.trigger, step := some q.state, cause := .stopped, subject := some (.unit u) } } }

theorem stowStopped_still {s : State} (h : Still s) (u : UnitId) : Still (s.stowStopped u) :=
  foldl_endUnit_keeps (P := Still) (fun _ v k => endUnit_still k v _) _ (endUnit_still h u _)

theorem stowOver_still {s : State} (h : Still s) (u : UnitId) : Still (s.stowOver u) :=
  ⟨(stowStopped_still h u).exposed, (stowStopped_still h u).jacks⟩

theorem stowStopped_sst (s : State) (u : UnitId) : (s.stowStopped u).sst = s.sst :=
  foldl_endUnit_keeps (P := fun t => t.sst = s.sst) (fun t v k => (endUnit_sst t v _).trans k) _ (endUnit_sst s u _)

theorem stowOver_parked {s : State} (h : Parked s) (u : UnitId) : Parked (s.stowOver u) :=
  ⟨fun hp => h.park ((congrArg Sst.phase (stowStopped_sst s u)).symm.trans hp), h.alarm⟩

theorem stowOver_queue {s : State} {u : UnitId} (hw : (s.unit u).state ≠ .idle)
    (hq : ∀ e ∈ s.sgu.queue, (s.unit e.unit).origin = some .stow ∧ (s.unit e.unit).state ≠ .idle) : (s.stowOver u).sgu.queue = [] := by
  refine List.eq_nil_iff_forall_not_mem.mpr fun e he => ?_
  obtain ⟨hin, hgone⟩ := mem_foldl_endUnit_queue _ he
  rw [(endUnit_ended hw _).queue, List.mem_filter] at hin
  obtain ⟨hin, hne⟩ := hin
  have hne : e.unit ≠ u := of_decide_eq_true hne
  have hidle := hgone (List.mem_filter.mpr ⟨mem_allUnits _, decide_eq_true ⟨hne, (hq e hin).1⟩⟩)
  rw [(endUnit_ended hw _).others _ hne] at hidle
  exact (hq e hin).2 hidle

/-- The WGD has no use for the end of stow work that covers no trip. -/
theorem wgdUnitEnd_stow {s : State} (h : s.wgd.retract ≠ .covered) (e : Ending) : wgdUnitEnd e .stow s = .done s := by
  simp [wgdUnitEnd, h]

theorem handOff_awaited {t : State} {u : UnitId} (hr : t.wgd.retract ≠ .covered) (hq : t.ciu.stow.state ≠ .idle)
    (hu : u ∈ t.ciu.stow.awaited) : act (.handOff (ending u .stopped .stopped) .stow) t =
      { st := t.setStow { t.ciu.stow with awaited := t.ciu.stow.awaited.filter fun v => decide (v ≠ u) }
        acts := [.stowEnd .aborted .stopped (some (.unit u))] } := by
  simp only [act, actHandOff, wgdUnitEnd_stow hr, Out.done, stowUnitEnd, ending]
  rw [if_pos ⟨hq, hu⟩]
  rfl

/-- Work that no step awaits ends unjudged. -/
theorem handOff_unawaited {t : State} (hr : t.wgd.retract ≠ .covered) (hu : t.ciu.stow.awaited = []) (e : Ending) :
    act (.handOff e .stow) t = .done t := by
  simp [act, actHandOff, wgdUnitEnd_stow hr, Out.done, stowUnitEnd, hu]

theorem stowEnd_acts {t : State} (hq : t.ciu.stow.state ≠ .idle) (o : StowOutcome) (c : Cause) (sj : Option Subject) :
    act (.stowEnd o c sj) t = { st := t.setStow { t.ciu.stow with awaited := [] }, acts := [.endUnits t.stowEndings, .stowDone o c sj] } :=
  if_neg hq

theorem stowDone_acts {t : State} (hq : t.ciu.stow.state ≠ .idle) (o : StowOutcome) (c : Cause) (sj : Option Subject) :
    act (.stowDone o c sj) t =
      { st := { t.offer (.stowDone o t.ciu.stow.trigger (some t.ciu.stow.state) c sj) with
          ciu := { t.ciu with
            stow := .reset
            result := { outcome := o, trigger := t.ciu.stow.trigger, step := some t.ciu.stow.state, cause := c, subject := sj } } }
        acts := [.restCheck false] } := if_neg hq

theorem stowEndings_endUnit {s : State} {u : UnitId} (hw : (s.unit u).state ≠ .idle) (why : Reason) :
    (s.endUnit u why).stowEndings = (s.stowUnits u).map fun v => ending v .stopped .stopped := by
  unfold State.stowEndings State.stowUnits
  congr 1
  refine List.filter_congr fun v _ => decide_eq_decide.mpr ?_
  by_cases hv : v = u
  · rw [hv, (endUnit_ended hw why).idle]
    simp [UnitRec.reset]
  · rw [(endUnit_ended hw why).others v hv]
    simp [hv]

theorem does_stop_stow {s : State} {u : UnitId} (hs : Still s) (hp : Parked s) (hw : (s.unit u).state ≠ .idle)
    (ho : (s.unit u).origin = some .stow) (hq : s.ciu.stow.state ≠ .idle) (hu : u ∈ s.ciu.stow.awaited)
    (hr : s.wgd.retract ≠ .covered) : Does 100 true [.endUnits [ending u .stopped .stopped]] s (s.stowOver u).evaluated := by
  obtain ⟨b, hb⟩ : ∃ b, (s.endUnit u .stopped).evaluated = { s.endUnit u .stopped with ciu := { s.ciu with travel := b } } :=
    ⟨(s.endUnit u .stopped).travelRule, by unfold State.evaluated; rw [endUnit_ciu]⟩
  have hr1 : (s.endUnit u .stopped).wgd.retract ≠ .covered := by rwa [endUnit_wgd]
  let waiting : Ciu := { s.ciu with travel := b, stow := { s.ciu.stow with awaited := [] } }
  let t : State := { s.endUnit u .stopped with ciu := waiting }
  let judged : State := State.setStow { s.endUnit u .stopped with ciu := { s.ciu with travel := b } }
    { s.ciu.stow with awaited := s.ciu.stow.awaited.filter fun v => decide (v ≠ u) }
  have hstop : act (.handOff (ending u .stopped .stopped) .stow) (s.endUnit u .stopped).evaluated =
      { st := judged, acts := [.stowEnd .aborted .stopped (some (.unit u))] } := by
    rw [hb]
    exact handOff_awaited (t := { s.endUnit u .stopped with ciu := { s.ciu with travel := b } }) hr1 hq hu
  have hfold : (s.stowUnits u).foldl (fun w v => w.endUnit v .stopped) t = { s.stowStopped u with ciu := waiting } :=
    foldl_endUnit_setCiu _ _
  have hr2 : (s.stowStopped u).wgd.retract ≠ .covered :=
    foldl_endUnit_keeps (P := fun t => t.wgd.retract ≠ .covered) (fun t v k => by rwa [endUnit_wgd]) _ hr1
  obtain ⟨x, b', hworks⟩ := does_endWorks (s := t) (why := .stopped) (cause := .stopped) (s.stowUnits u)
    ⟨(endUnit_still hs u .stopped).exposed, (endUnit_still hs u .stopped).jacks⟩
    ⟨fun k => hp.park ((congrArg Sst.phase (endUnit_sst s u _)).symm.trans k), hp.alarm⟩ nofun (fun v hv o hvo => by
      obtain ⟨hne, hvs⟩ := of_decide_eq_true (List.mem_filter.mp hv).2
      have hvu : t.unit v = s.unit v := (endUnit_ended hw .stopped).others v hne
      obtain rfl := Option.some.inj (hvs.symm.trans (hvu ▸ hvo))
      rw [hfold]
      exact handOff_unawaited (t := State.evaluated { s.stowStopped u with ciu := waiting }) hr2 rfl _)
  rw [hfold] at hworks
  have hdone : act (.stowDone .aborted .stopped (some (.unit u))) (State.withTravel { s.stowStopped u with ciu := waiting } b') =
      { st := (s.stowOver u).withTravel b', acts := [.restCheck false] } :=
    stowDone_acts (t := State.withTravel { s.stowStopped u with ciu := waiting } b') hq _ _ _
  have heval := does_evaluate (still_withTravel (stowOver_still hs u) b') (parked_withTravel (stowOver_parked hp u) b') false
  have hlast := does_act (by simp) hdone heval
  have hend : act (.stowEnd .aborted .stopped (some (.unit u))) judged =
      { st := t, acts := [.endUnits ((s.stowUnits u).map fun v => ending v .stopped .stopped)] ++
          [.stowDone .aborted .stopped (some (.unit u))] } := by
    rw [← stowEndings_endUnit hw .stopped]
    exact stowEnd_acts (t := judged) hq _ _ _
  have hlen : (s.stowUnits u).length ≤ 6 := List.length_filter_le _ _
  have hall := does_act (by simp) hstop (does_act (by simp) hend (does_append hworks hlast))
  exact does_mono (does_endWork hs hp hw ho (sparesStep_of_why nofun) hall) (by omega)

/-! ## A wind retract (R17, R137) -/

/-- The awning's wind retract has been stopped. -/
def State.retractStopped (s : State) : State :=
  { s.endUnit .awning .stopped with wgd := { s.wgd with retract := .stopped, bypassed := true } }

theorem wgdUnitEnd_stopped {t : State} (hg : t.wgd.state = .tripped) :
    wgdUnitEnd (ending .awning .stopped .stopped) .wind t =
      .done { t with wgd := { t.wgd with retract := .stopped, bypassed := true } } := by
  unfold wgdUnitEnd
  rw [if_pos (by simp [ending, hg])]
  rfl

theorem stowUnitEnd_idle {t : State} (h : t.ciu.stow.state = .idle) (e : Ending) : stowUnitEnd e t = .done t :=
  if_neg fun k => k.1 h

theorem handOff_wind {t : State} (hg : t.wgd.state = .tripped) (hq : t.ciu.stow.state = .idle) :
    act (.handOff (ending .awning .stopped .stopped) .wind) t =
      { st := { t with wgd := { t.wgd with retract := .stopped, bypassed := true } }, acts := [] } := by
  simp only [act, actHandOff, wgdUnitEnd_stopped hg, Out.done]
  rw [stowUnitEnd_idle (by exact hq)]
  rfl

theorem does_stop_wind {s : State} (hs : Still s) (hp : Parked s) (hw : (s.unit .awning).state ≠ .idle)
    (ho : (s.unit .awning).origin = some .wind) (hg : s.wgd.state = .tripped) (hq : s.ciu.stow.state = .idle) :
    Does 5 true [.endUnits [ending .awning .stopped .stopped]] s s.retractStopped.evaluated := by
  have hwgd : (s.endUnit .awning .stopped).evaluated.wgd = s.wgd := endUnit_wgd s _ _
  have hstow : (s.endUnit .awning .stopped).evaluated.ciu.stow = s.ciu.stow :=
    show (s.endUnit .awning .stopped).ciu.stow = _ from congrArg Ciu.stow (endUnit_ciu s .awning .stopped)
  have hact := handOff_wind (t := (s.endUnit .awning .stopped).evaluated) (hwgd ▸ hg) (hstow ▸ hq)
  rw [hwgd] at hact
  exact does_endWork hs hp hw ho (sparesStep_of_why nofun) (does_act (by simp) hact (does_nil _))

end Sys2Proof.Machine

namespace Sys2Proof

open Machine

/-- Settles O50: a USER unit just ends; a unit of a sequence or a wind retract ends through its requester (R19). -/
theorem stopsEndTheWork : Obligations.StopsEndTheWork := by
  refine ⟨fun tag u s hs hh hc hw => ?user, fun tag st f c s hl hst hh hc hcmd => ?level, fun tag u s hs hh hc hw => ?other⟩
  case user =>
    have hs' := still_replied hs.still (replyTo 0x06 tag [0])
    have hp' := parked_replied hs.parked (replyTo 0x06 tag [0])
    obtain ⟨b, hd⟩ := does_stop hs' hp' (u := u) fun hi => (hw hi).1
    have hq : decide ((s.unit u).state ≠ .idle) = true → ((s.heard.replied (replyTo 0x06 tag [0])).endUnit u .stopped).sgu.queue = [] :=
      fun hi => endUnit_queue (s := s.heard.replied _) (of_decide_eq_true hi) (hw (of_decide_eq_true hi)).2 _
    refine ⟨?_, fun hlevel hstow hothers => ?_⟩
    · exact exec_over hh hs.running rfl rfl ((congrArg (serve · _) (decode_stop (unitByte_not_all u) tag)).trans (serveStop_unit hc))
        hd (by omega) (endUnit_still hs' _ _) (endUnit_parked hp' _ _) hq
    · have hends : Does 5 _ [.endUnits (allUnits.map fun v => ending v .stopped .stopped)] (s.heard.replied (replyTo 0x06 tag [0])) _ :=
        does_congr (by simp) (by simp) (endUnits_all (s := s.heard.replied _) hothers .stopped .stopped) hd
      exact exec_over (i := .stopAll tag) hh hs.running rfl rfl (rfl : serve (.stopAll tag) s.heard = serveStopAll s.heard)
        (does_append (does_lvsEnd_idle (s := s.heard.replied _) hlevel _ _ _) (does_append (does_stowEnd_idle (s := s.heard.replied _) hstow _ _ _) hends))
        (by omega) (endUnit_still hs' _ _) (endUnit_parked hp' _ _) hq
  case level =>
    have hl' : (s.heard.replied (replyTo 0x06 tag [0])).Levelling st f :=
      ⟨⟨hl.steady.running, still_replied hl.steady.still _, parked_replied hl.steady.parked _⟩, hl.state, hl.start, hl.recorded,
        hl.jacks, hl.others, hl.queue⟩
    have hw : (s.unit .jacks).state ≠ .idle := fun e => UnitState.noConfusion (hl.jacks.1.symm.trans e)
    obtain ⟨w, hw⟩ : ∃ w, w = s.heard.replied (replyTo 0x06 tag [0]) := ⟨_, rfl⟩
    rw [← hw] at hl'
    have hactive : (w.unit .jacks).state ≠ .idle := fun e => UnitState.noConfusion (hl'.jacks.1.symm.trans e)
    have hs := still_levelOver .aborted .none (w.atu.record.pitch, w.atu.record.roll) hl'.steady.still
    have hp := parked_levelOver .aborted .none (w.atu.record.pitch, w.atu.record.roll) hl'.steady.parked
    have hq := levelOver_queue .aborted .none (w.atu.record.pitch, w.atu.record.roll) hactive fun e he => by simp [hl'.queue] at he
    have hexec : exec c s = .next (finish (w.levelOver .aborted .none (w.atu.record.pitch, w.atu.record.roll))) := by
      obtain rfl | ⟨rfl, hstow⟩ := hcmd
      · exact exec_ends (m := 9) (x := true) hh hl.steady.running rfl rfl
          ((congrArg (serve · _) (decode_stop (unitByte_not_all .jacks) tag)).trans (serveStop_unit (s := s.heard) hc))
          (hw ▸ does_stop_level hl' hst) (by omega) hs hp fun _ => hq
      · exact exec_ends (m := 9) (x := true) hh hl.steady.running rfl rfl (rfl : serve (.stopAll tag) s.heard = serveStopAll s.heard)
          (hw ▸ does_stopAll_level hl' hst (hw ▸ hstow)) (by omega) hs hp fun _ => hq
    have haside : w.aside = s.aside := by rw [hw, aside_replied, aside_heard]
    obtain ⟨hseq, hresult, hjacks, hmotions, hchans, hgrants⟩ := levelOver_ended hactive .aborted .none
    rw [hl'.state] at hresult
    subst hw
    refine ⟨_, hexec, ⟨hseq, hresult, hjacks, hmotions, hchans, hgrants⟩, ?_, ?_, aside_of_eq ?_, nodesStand_finish ?_, ?_, ?_, ?_⟩
    · rw [finish_flt, levelOver_flt]
      rfl
    · rw [finish_pli, transmitted_slot, levelOver_slot]
      rfl
    · rw [aside_finish, aside_levelOver, haside]
    · rw [levelOver_nlc]
      rfl
    · rw [finish_wgd, levelOver_wgd]
      rfl
    · rw [finish_ciu, levelOver_ciu]
      rfl
    · rw [finish_ciu, levelOver_ciu]
      rfl
  case other =>
    intro stopped becomes q
    have hv := (congrArg (serve · s.heard) (decode_stop (unitByte_not_all u) tag)).trans (serveStop_unit (s := s.heard) hc)
    have hs' := still_replied hs.still (replyTo 0x06 tag [0])
    have hp' := parked_replied hs.parked (replyTo 0x06 tag [0])
    refine ⟨fun ho hq hu hr hqueue => ?_, fun hu ho hg hq hqueue => ?_⟩
    · exact exec_ends hh hs.running rfl rfl hv (does_stop_stow hs' hp' hw ho hq hu hr) (by omega)
        (stowOver_still hs' u) (stowOver_parked hp' u) fun _ => stowOver_queue hw hqueue
    · subst hu
      exact exec_ends hh hs.running rfl rfl hv (does_stop_wind hs' hp' hw ho hg hq) (by omega)
        ⟨(endUnit_still hs' .awning .stopped).exposed, (endUnit_still hs' .awning .stopped).jacks⟩
        ⟨(endUnit_parked hp' .awning .stopped).park, (endUnit_parked hp' .awning .stopped).alarm⟩ fun _ => endUnit_queue (s := s.heard.replied _) hw hqueue _

end Sys2Proof
end

section
/-! SUPPORT. Work that begins at once: the placed request, its grant and its records (R8 to R10, R14, R66, R67). -/

namespace Sys2Proof.Machine

/-! ## The pending list and its channels -/

/-- A pending list that moves channels one way to END. -/
def pendings (d : Dir) (deadline : Option FrameNo) (l : List (Fin 16)) : List Pending :=
  l.map fun c => { chan := c, dir := d, target := .toEnd, deadline := deadline }

/-- A channel whose unit's request is placed (TABLE 1-3). -/
def Channel.await (x : Channel) : Channel := if x.state = .idle then { x with state := .waiting } else x

/-- The record of a unit whose request is placed (R9). -/
def UnitRec.placed (o : Origin) (claim : Nat) (l : List Pending) : UnitRec :=
  { state := .waiting, origin := some o, cls := some o, claim := some claim, pending := l }

/-- The state with other channel records. -/
def State.withChans (s : State) (v : Vector Channel 16) : State := { s with chc := { s.chc with chans := v } }

theorem place_eq (s : State) (u : UnitId) (o : Origin) (d : Dir) (deadline : Option FrameNo) {l : List (Fin 16)} (hl : l.Nodup) :
    ∃ v : Vector Channel 16, s.place u o (pendings d deadline l) =
      { (s.setUnit u (.placed o (s.claimOf u) (pendings d deadline l))).withChans v with
        sgu := { s.sgu with queue := enqueue s.sgu.queue { unit := u, cls := o, claim := s.claimOf u, arrival := s.frame } } } ∧
      (∀ c, c ∉ l → v.get c = s.chan c) ∧ ∀ c, c ∈ l → v.get c = (s.chan c).await := by
  obtain ⟨v, hfold, hout, hin⟩ := foldl_modChan Channel.await l (s.setUnit u (.placed o (s.claimOf u) (pendings d deadline l)))
  refine ⟨v, ?_, hout, hin hl⟩
  have hlist (t : State) : (pendings d deadline l).foldl (fun t p => t.modChan p.chan Channel.await) t
      = l.foldl (fun t c => t.modChan c Channel.await) t := List.foldl_map
  exact congrArg (fun t : State => ({ t with
    sgu := { t.sgu with queue := enqueue t.sgu.queue { unit := u, cls := o, claim := s.claimOf u, arrival := s.frame } } } : State))
    ((hlist _).trans hfold)

/-- A channel that is given a record where it may be given one (R10). -/
def Channel.begun (x : Channel) (now : FrameNo) (d : Dir) (o : Origin) (deadline : Option FrameNo) : Channel :=
  if x.canStart then x.startMotion now d .toEnd o deadline else x

theorem createMotion_eq (s : State) (c : Fin 16) (d : Dir) (o : Origin) (deadline : Option FrameNo) :
    s.createMotion c d .toEnd o deadline = s.modChan c fun x => x.begun s.frame d o deadline := by
  have hself : s.setChan c (s.chan c) = s := by
    have h : s.chc.chans.set c (s.chc.chans.get c) = s.chc.chans := by simp [Vector.get_eq_getElem]
    unfold State.setChan State.chan
    rw [h]
  unfold State.createMotion State.modChan Channel.begun
  by_cases h : (s.chan c).canStart
  · simp only [h, if_true]
  · simp only [h, Bool.false_eq_true, if_false, hself]

theorem createAll_eq (s : State) (o : Origin) (d : Dir) (deadline : Option FrameNo) {l : List (Fin 16)} (hl : l.Nodup) :
    ∃ v : Vector Channel 16, s.createAll o (pendings d deadline l) = s.withChans v ∧ (∀ c, c ∉ l → v.get c = s.chan c) ∧
      ∀ c, c ∈ l → v.get c = (s.chan c).begun s.frame d o deadline := by
  obtain ⟨v, hfold, hout, hin⟩ := foldl_modChan (fun x => x.begun s.frame d o deadline) l s
  refine ⟨v, ?_, hout, hin hl⟩
  have hstep : ∀ (k : List (Fin 16)) (t : State), t.frame = s.frame → t.createAll o (pendings d deadline k)
      = k.foldl (fun t c => t.modChan c fun x => x.begun s.frame d o deadline) t := by
    intro k
    induction k with
    | nil => exact fun _ _ => rfl
    | cons c k ih =>
      intro t ht
      show State.createAll (t.createMotion c d .toEnd o deadline) o (pendings d deadline k) = _
      rw [createMotion_eq, ht]
      exact ih _ ht
  exact (hstep l s rfl).trans hfold

theorem startWindow_eq (s : State) (u : UnitId) : ∃ w : Vector Room 4, s.startWindow u = { s with chc := { s.chc with rooms := w } } ∧
    ∀ r, (w.get r).type = (s.room r).type := by
  cases u with
  | room q =>
    refine ⟨_, rfl, fun r => ?_⟩
    by_cases h : q.val = r.val <;> simp [State.room, Vector.get_eq_getElem, h]
  | jacks => exact ⟨s.chc.rooms, rfl, fun _ => rfl⟩
  | awning => exact ⟨s.chc.rooms, rfl, fun _ => rfl⟩

theorem await_core (x : Channel) : CoreEq x.await x := by
  unfold Channel.await
  split <;> exact ⟨rfl, rfl, rfl, rfl, rfl, rfl⟩

theorem begun_await {x : Channel} (h : x.state = .idle) (now : FrameNo) (d : Dir) (o : Origin) (deadline : Option FrameNo) :
    x.await.begun now d o deadline = x.startMotion now d .toEnd o deadline := by
  simp [Channel.await, Channel.begun, Channel.canStart, Channel.startMotion, h]

/-! ## The grant (R9, R14, R67) -/

theorem failedPermit_congr {s t : State} (hc : ∀ c, CoreEq (t.chan c) (s.chan c)) (hsst : t.sst = s.sst)
    (hsupply : t.sgu.supply = s.sgu.supply) (hpark : t.ciu.park = s.ciu.park) (halarm : t.ciu.alarm = s.ciu.alarm)
    (heng : t.ciu.eng = s.ciu.eng) (hstow : t.ciu.stow = s.ciu.stow) (hwgd : t.wgd = s.wgd)
    (hr : ∀ r, (t.room r).type = (s.room r).type) (u : UnitId) (d : Dir) : t.failedPermit u d = s.failedPermit u d := by
  have hrooms := roomsStowed_congr hc (congrArg Sst.params hsst) hr
  have hlatch (c : Fin 16) : (t.chan c).latch = (s.chan c).latch := (hc c).latch
  have hmotion : t.motionAny = s.motionAny := by simp only [State.motionAny, hsst, hsupply]
  have hslide : t.slideExtend = s.slideExtend := by
    simp only [State.slideExtend, State.parkSet, State.jackTerm, State.cornersLatched, State.par, hsst, hsupply, hpark, halarm,
      hstow, hlatch]
  have hawning : t.awningExtend = s.awningExtend := by simp only [State.awningExtend, hsupply, halarm, hstow, hwgd]
  have hengine : t.engineOk = s.engineOk := by simp only [State.engineOk, State.engRunning, State.par, hsst, heng]
  unfold State.failedPermit State.jackRetract
  rw [hmotion, hslide, hawning, hengine, halarm, hrooms]

theorem examine_grants {t : State} {e : QEntry} (hq : t.sgu.queue = [e]) (ha : admits t.sgu.supply e.cls = true)
    (hb : heldSum t.sgu.grants + e.claim ≤ t.sgu.budget) :
    examine t = { st := t.grantHead e [], acts := [.granted e.unit, .exam] } := by
  unfold examine
  rw [hq]
  exact if_pos ⟨ha, hb⟩

theorem granted_user {g : State} {u : UnitId} (ho : (g.unit u).origin = some .user)
    (hp : ∀ p ∈ (g.unit u).pending, g.failedPermit u p.dir = none) : act (.granted u) g = g.begin u .user (g.unit u).pending := by
  show actGranted u g = _
  unfold actGranted
  simp only [ho]
  rw [if_neg]
  simpa using hp

/-- A record that does not retract from a closed switch passes the test at its creation (R49). -/
theorem created_plain {s : State} {c : Fin 16} (h : (s.chan c).moves .retract = true → (s.chan c).cond ≠ .limitRet) :
    act (.created c) s = .done s := if_neg fun k => h k.1 k.2

/-- The state in which a user's request has been placed (R9, R66). -/
def State.asked (z : State) (u : UnitId) (d : Dir) (deadline : Option FrameNo) (l : List (Fin 16)) (v : Vector Channel 16) : State :=
  { (z.setUnit u (.placed .user (z.claimOf u) (pendings d deadline l))).withChans v with
    sgu := { z.sgu with queue := enqueue z.sgu.queue { unit := u, cls := .user, claim := z.claimOf u, arrival := z.frame } } }

theorem asked_unit (z : State) (u x : UnitId) (d : Dir) (deadline : Option FrameNo) (l : List (Fin 16)) (v : Vector Channel 16) :
    (z.asked u d deadline l v).unit x = if x = u then .placed .user (z.claimOf u) (pendings d deadline l) else z.unit x :=
  State.setUnit_unit z u x _

theorem grantHead_unit (s : State) (e : QEntry) (rest : List QEntry) (x : UnitId) :
    (s.grantHead e rest).unit x = if x = e.unit then { s.unit e.unit with state := .active } else s.unit x :=
  State.setUnit_unit _ e.unit x _

/-- The state in which the request has been granted, before its records are created (R67). -/
def State.granting (z : State) (u : UnitId) (d : Dir) (deadline : Option FrameNo) (l : List (Fin 16)) (v : Vector Channel 16) : State :=
  (z.asked u d deadline l v).evaluated.grantHead ⟨u, .user, z.claimOf u, z.frame⟩ []

theorem granting_unit (z : State) (u x : UnitId) (d : Dir) (deadline : Option FrameNo) (l : List (Fin 16)) (v : Vector Channel 16) :
    (z.granting u d deadline l v).unit x =
      if x = u then { UnitRec.placed .user (z.claimOf u) (pendings d deadline l) with state := .active } else z.unit x := by
  unfold State.granting
  rw [grantHead_unit, show (z.asked u d deadline l v).evaluated.unit = (z.asked u d deadline l v).unit from rfl]
  simp only [asked_unit, if_true]
  split <;> rfl

/-- What a granted request changes of the part: channels and units, the queue and the grants, TRAVEL. -/
theorem granting_eq (z : State) (u : UnitId) (d : Dir) (deadline : Option FrameNo) (l : List (Fin 16)) (v : Vector Channel 16) :
    z.granting u d deadline l v = { z with
      chc := (z.granting u d deadline l v).chc
      sgu := { z.sgu with queue := [], grants := z.sgu.grants ++ [⟨u, .user, z.claimOf u, z.sgu.nextOrder + 1⟩]
                          nextOrder := z.sgu.nextOrder + 1 }
      ciu := { z.ciu with travel := (z.asked u d deadline l v).travelRule } } := by
  simp only [State.granting, State.grantHead, State.evaluated, State.asked, State.setUnit, State.withChans]

/-- The examination grants the request (R67). -/
theorem examine_asked {z : State} (hz : Resting z) {u : UnitId} (d : Dir) (deadline : Option FrameNo) (l : List (Fin 16)) (v : Vector Channel 16)
    (hsupply : z.sgu.supply = .normal) (hbudget : z.claimOf u ≤ z.sgu.budget) :
    examine (z.asked u d deadline l v).evaluated = { st := z.granting u d deadline l v, acts := [.granted u, .exam] } := by
  refine examine_grants (e := ⟨u, .user, z.claimOf u, z.frame⟩) ?_ ?_ ?_
  · show enqueue z.sgu.queue _ = _
    rw [hz.queue]
    rfl
  · show admits z.sgu.supply .user = true
    rw [hsupply]
    rfl
  · show heldSum z.sgu.grants + z.claimOf u ≤ z.sgu.budget
    rw [hz.grants, show heldSum [] = 0 from rfl, Nat.zero_add]
    exact hbudget

/-- The records of a grant: what they are, and that nothing but channels, units and rooms changes (R9, R114). -/
theorem begin_eq (g : State) (u : UnitId) (d : Dir) (deadline : Option FrameNo) {l : List (Fin 16)} (hl : l.Nodup) :
    ∃ x : Chc, g.begin u .user (pendings d deadline l) =
        { st := { g with chc := x }, acts := l.map Act.created } ∧
      (∀ c, c ∉ l → x.chans.get c = g.chan c) ∧ (∀ c, c ∈ l → x.chans.get c = (g.chan c).begun g.frame d .user deadline) ∧
      x.units = g.chc.units.set (unitIdx u) { g.unit u with pending := [] } := by
  obtain ⟨v, hcreate, hout, hin⟩ := createAll_eq (g.setUnit u { g.unit u with pending := [] }) .user d deadline hl
  obtain ⟨w, hwindow, -⟩ := startWindow_eq ((g.setUnit u { g.unit u with pending := [] }).withChans v) u
  refine ⟨{ (g.setUnit u { g.unit u with pending := [] }).chc with chans := v, rooms := w }, ?_, hout, hin, rfl⟩
  have hacts : (pendings d deadline l).map (fun p => Act.created p.chan) = l.map Act.created := List.map_map
  unfold State.begin
  simp only [hcreate, hwindow, hacts]
  rfl

/-- What the event of a request for USER work at rest leaves: the work has begun and the rest of the part stands. -/
structure State.Began (z t : State) (u : UnitId) (d : Dir) (deadline : Option FrameNo) (l : List (Fin 16)) : Prop where
  begun : UnitBegun z t u .user d deadline l
  aside : t.aside = z.aside
  nlc : t.nlc = z.nlc
  lvs : t.lvs = z.lvs
  wgd : t.wgd = z.wgd
  flt : t.flt = z.flt
  stow : t.ciu.stow = z.ciu.stow
  park : t.ciu.park = z.ciu.park
  slot : t.pli.slot = z.pli.slot

section
variable {z : State} {u : UnitId} {d : Dir} {deadline : Option FrameNo} {l : List (Fin 16)} {v : Vector Channel 16} (hz : Resting z)
  (hout : ∀ c, c ∉ l → v.get c = z.chan c) (hin : ∀ c, c ∈ l → v.get c = (z.chan c).await)
include hz

/-- The records of the grant are those of begun work, and the rest of the part stands. -/
theorem began_granting {x : Chc} (hrest : ∀ c, c ∉ l → x.chans.get c = z.chan c)
    (hmoving : ∀ c, c ∈ l → x.chans.get c = (z.chan c).startMotion z.frame d .toEnd .user deadline)
    (hunits : x.units = (z.granting u d deadline l v).chc.units.set (unitIdx u) { (z.granting u d deadline l v).unit u with pending := [] }) :
    z.Began { z.granting u d deadline l v with chc := x } u d deadline l := by
  have hunit (y : UnitId) : State.unit { z.granting u d deadline l v with chc := x } y =
      if y = u then { (z.granting u d deadline l v).unit u with pending := [] } else (z.granting u d deadline l v).unit y := by
    rw [← State.setUnit_unit]
    unfold State.unit
    rw [hunits]
    rfl
  have hself : State.unit { z.granting u d deadline l v with chc := x } u =
      { state := .active, origin := some .user, cls := some .user, claim := some (z.claimOf u), pending := [] } := by
    rw [hunit, if_pos rfl, granting_unit, if_pos rfl]
    rfl
  have hother (y : UnitId) (hy : y ≠ u) : State.unit { z.granting u d deadline l v with chc := x } y = z.unit y := by
    rw [hunit, if_neg hy, granting_unit, if_neg hy]
  rw [granting_eq] at hself hother ⊢
  refine ⟨⟨hself, hother, hmoving, hrest, rfl, ?_⟩, rfl, rfl, rfl, rfl, rfl, rfl, rfl, rfl⟩
  show z.sgu.grants ++ _ = _
  rw [hz.grants]
  rfl

include hout hin

theorem asked_chan (c : Fin 16) : CoreEq ((z.asked u d deadline l v).chan c) (z.chan c) ∧
    ((z.asked u d deadline l v).chan c).motion = none := by
  have hmotion := hz.motions c
  show CoreEq (v.get c) _ ∧ (v.get c).motion = none
  by_cases hc : c ∈ l
  · rw [hin c hc]
    refine ⟨await_core _, ?_⟩
    unfold Channel.await
    split <;> exact hmotion
  · rw [hout c hc]
    exact ⟨CoreEq.refl _, hmotion⟩

theorem asked_still : Still (z.asked u d deadline l v) :=
  still_of_rest (fun e he _ => hz.faults e he) fun c => (asked_chan hz hout hin c).2

/-- The permits that let the request pass let its work begin (R14). -/
theorem granted_granting (hperm : z.failedPermit u d = none) :
    act (.granted u) (z.granting u d deadline l v) = (z.granting u d deadline l v).begin u .user (pendings d deadline l) := by
  have hcore (c : Fin 16) : CoreEq ((z.granting u d deadline l v).chan c) (z.chan c) :=
    (asked_chan (u := u) (d := d) (deadline := deadline) hz hout hin c).1
  have hpermit := (failedPermit_congr hcore rfl rfl rfl rfl rfl rfl rfl (fun _ => rfl) u d).trans hperm
  have hu := granting_unit z u u d deadline l v
  rw [if_pos rfl] at hu
  have hpending : ((z.granting u d deadline l v).unit u).pending = pendings d deadline l := by rw [hu]; rfl
  rw [granted_user (by rw [hu]; rfl) (fun p hp => ?_), hpending]
  rw [hpending] at hp
  obtain ⟨c, -, rfl⟩ := List.mem_map.mp hp
  exact hpermit
/-- The grant begins the work. -/
theorem does_grant (hl : l.Nodup) (hidle : ∀ c ∈ l, (z.chan c).state = .idle) (hhome : ∀ c ∈ l, d = .retract → (z.chan c).cond ≠ .limitRet)
    (hperm : z.failedPermit u d = none) (hsupply : z.sgu.supply = .normal) (hbudget : z.claimOf u ≤ z.sgu.budget) :
    ∃ t, Does (l.length + 2) true (examine (z.asked u d deadline l v).evaluated).acts (examine (z.asked u d deadline l v).evaluated).st t ∧
      z.Began t u d deadline l := by
  obtain ⟨x, hbegin, houtx, hinx, hunits⟩ := begin_eq (z.granting u d deadline l v) u d deadline hl
  have hmoving (c : Fin 16) (hc : c ∈ l) : x.chans.get c = (z.chan c).startMotion z.frame d .toEnd .user deadline := by
    rw [hinx c hc, show (z.granting u d deadline l v).chan c = _ from hin c hc, begun_await (hidle c hc)]
    rfl
  have hcreated : ∀ a ∈ l.map Act.created, (a ≠ .exam ∧ a.requests = false) ∧
      act a { z.granting u d deadline l v with chc := x } = .done { z.granting u d deadline l v with chc := x } := by
    intro a ha
    obtain ⟨c, hc, rfl⟩ := List.mem_map.mp ha
    refine ⟨by simp, created_plain ?_⟩
    rw [show State.chan { z.granting u d deadline l v with chc := x } c = _ from hmoving c hc]
    exact fun hm => hhome c hc (by simpa [Channel.moves, Channel.startMotion] using hm)
  refine ⟨{ z.granting u d deadline l v with chc := x }, ?_,
    began_granting hz (fun c hc => (houtx c hc).trans (hout c hc)) hmoving hunits⟩
  rw [examine_asked hz d deadline l v hsupply hbudget]
  have hall := does_nothing hcreated
  rw [List.length_map] at hall
  exact does_append (does_act (a := .granted u) (by simp) ((granted_granting hz hout hin hperm).trans hbegin) hall) (does_exam (does_nil _))
end

theorem resting_replied {s : State} (h : Resting s) (f : Frame) : Resting (s.heard.replied f) :=
  ⟨h.running, parked_replied h.parked f, h.units, h.motions, h.queue, h.grants, h.level, h.stow, h.guard, h.faults⟩

/-- A request that is placed at rest: the whole event (R9, R14, R66, R67). -/
theorem exec_begins {s : State} {i : Instr} {f : Frame} {u : UnitId} {d : Dir} {deadline : Option FrameNo} {l : List (Fin 16)}
    (hr : Resting s) (hh : Hears s) (he : exec i s = request i s) (hf : encodeRequest i = some f)
    (hv : serve (decodeRequest f) s.heard =
      { st := s.heard.place u .user (pendings d deadline l), reply := codeReply .ok, acts := placedActs })
    (hl : l.Nodup) (hidle : ∀ c ∈ l, (s.chan c).state = .idle) (hhome : ∀ c ∈ l, d = .retract → (s.chan c).cond ≠ .limitRet)
    (hperm : s.failedPermit u d = none) (hsupply : s.sgu.supply = .normal) (hbudget : s.claimOf u ≤ s.sgu.budget)
    (hlen : l.length ≤ 16) :
    ∃ t, exec i s = .next (finish t) ∧ (s.heard.replied (replyFrame f [0])).Began t u d deadline l := by
  obtain ⟨v, hplace, hout, hin⟩ := place_eq s.heard u .user d deadline hl
  have hz := resting_replied hr (replyFrame f [0])
  have hasked : (s.heard.place u .user (pendings d deadline l)).replied (replyFrame f [0])
      = (s.heard.replied (replyFrame f [0])).asked u d deadline l v := congrArg (State.replied · _) hplace
  have hstill := asked_still (u := u) (d := d) (deadline := deadline) hz hout hin
  have hparked : Parked ((s.heard.replied (replyFrame f [0])).asked u d deadline l v) := ⟨hz.parked.park, hz.parked.alarm⟩
  obtain ⟨t, hd, ht⟩ := does_grant hz hout hin hl hidle hhome hperm hsupply hbudget
  have hplaced := does_append (does_evaluate hstill hparked false) (does_exam (does_nil _))
  rw [← hasked] at hplaced
  refine ⟨t, ?_, ht⟩
  rw [he, request_event hf, event_running hr.running]
  exact congrArg _ (commit_exam (does_request hh f hv hplaced) (by omega) (hasked ▸ still_evaluated hstill) (hasked ▸ parked_evaluated hparked)
    (hasked ▸ hd) (by omega) fun _ => ht.begun.queue)

theorem begun_finish {s t : State} {f : Frame} {u : UnitId} {d : Dir} {deadline : Option FrameNo} {l : List (Fin 16)}
    (h : (s.heard.replied f).Began t u d deadline l) : UnitBegun s (finish t) u .user d deadline l ∧ (finish t).pli.slot = some f ∧
      Aside s (finish t) ∧ NodesStand s (finish t) ∧ t.lvs = s.lvs ∧ t.wgd = s.wgd ∧ t.flt = s.flt ∧ t.ciu.stow = s.ciu.stow ∧
      t.ciu.park = s.ciu.park := by
  obtain ⟨⟨hunit, hothers, hmoving, hrest, hqueue, hgrants⟩, haside, hnlc, hlvs, hwgd, hflt, hstow, hpark, hslot⟩ := h
  refine ⟨⟨hunit, hothers, hmoving, hrest, hqueue, hgrants⟩, ?_, aside_of_eq ?_, nodesStand_finish hnlc, hlvs, hwgd, hflt, hstow, hpark⟩
  · rw [finish_pli, transmitted_slot, hslot]
    rfl
  · rw [aside_finish, haside, aside_replied, aside_heard]

theorem length_unitChans (s : State) (u : UnitId) : (s.unitChans u).length ≤ 16 := by
  refine (List.length_filter_le _ _).trans ?_
  cases u with
  | jacks => decide
  | room r => exact (show 2 ≤ 16 by decide)
  | awning => decide

/-- PUMP runs for a unit that has begun on all its channels exactly when it is JACKS with a jack (R72). -/
theorem begun_pump {s t : State} {u : UnitId} {d : Dir} {deadline : Option FrameNo}
    (h : UnitBegun s t u .user d deadline (s.unitChans u)) :
    t.pumpRule = decide (u = .jacks ∧ ∃ c ∈ jackChans, (s.chan c).kind = .jack) := by
  have hkind (c : Fin 16) : (t.chan c).kind = (s.chan c).kind := by
    by_cases hc : c ∈ s.unitChans u
    · rw [h.moving c hc]
    · rw [h.rest c hc]
  unfold State.pumpRule Sgu.holds
  rw [h.grants]
  by_cases hu : u = .jacks
  · subst hu
    have hjack (c : Fin 16) (hc : c ∈ jackChans) (hk : (s.chan c).kind = .jack) : (t.chan c).state = .moving := by
      rw [h.moving c (List.mem_filter.mpr ⟨hc, by simp [State.populated, hk]⟩)]
    rw [Bool.eq_iff_iff, decide_eq_true_eq]
    simp only [List.any_cons, List.any_nil, decide_true, Bool.or_false, Bool.true_and, List.any_eq_true, Bool.and_eq_true,
      Channel.isJack, decide_eq_true_eq, hkind, true_and]
    exact exists_congr fun c => and_congr_right fun hc => and_iff_left_of_imp (hjack c hc)
  · simp [hu]

end Sys2Proof.Machine

namespace Sys2Proof

open Machine

/-- Settles O48: the request is placed, granted by the examination of its own event, and begun. -/
theorem moveStarts : Obligations.MoveStarts := by
  intro tag b d s hr hh hp hsupply hd deadline rest able
  refine ⟨fun u hc hable hperm hbudget => ?unit, fun j => ?jack⟩
  case unit =>
    have hidle (c : Fin 16) (hcu : c ∈ s.unitChans u) := (hable c hcu).1
    have hjudged := serveMove_judged (s := s.heard) hd hp hc hr.stow
    have hfresh := hjudged.fresh (congrArg UnitRec.state (hr.units u))
      (chansRefuse_none (s := s.heard) (fun c hcu => by rw [show (s.heard.chan c).state = _ from hidle c hcu]; exact ⟨nofun, nofun⟩)
        fun c hcu => (hable c hcu).2.2) (fun k => k.2.2 hr.guard)
    have hv := hfresh.trans (moveFresh_placed (s := s.heard) hsupply hbudget hperm _)
    obtain ⟨t, hexec, ht⟩ := exec_begins (u := u) (d := d) (deadline := some deadline) (l := s.unitChans u)
      (i := .move tag (unitByte u) b) hr hh rfl rfl
      ((congrArg (serve · s.heard) (decode_move (unitByte_not_jack u) tag b)).trans hv) (nodup_unitChans s u) hidle
      (fun c hcu => (hable c hcu).2.1) hperm hsupply hbudget (length_unitChans s u)
    obtain ⟨hbegun, hslot, hrest⟩ := begun_finish ht
    exact ⟨finish t, hexec, hbegun, hslot, (show (finish t).pumpRule = _ from begun_pump hbegun), hrest⟩
  case jack =>
    intro c hc hable hperm hbudget
    have hjudged := serveMoveJack_judged (s := s.heard) hd hp hc hr.stow
    have hfresh := hjudged.fresh (congrArg UnitRec.state (hr.units .jacks))
      (chansRefuse_none (s := s.heard) (fun e he => by
        rw [List.mem_singleton.mp he, show (s.heard.chan c).state = _ from hable.1]; exact ⟨nofun, nofun⟩)
        fun e he => List.mem_singleton.mp he ▸ hable.2.2) nofun
    have hv := hfresh.trans (moveFresh_placed (s := s.heard) (u := .jacks) hsupply hbudget hperm _)
    obtain ⟨t, hexec, ht⟩ := exec_begins (u := .jacks) (d := d) (deadline := some deadline) (l := [c])
      (i := .moveJack tag j b) hr hh rfl rfl
      ((congrArg (serve · s.heard) (decode_moveJack tag b j)).trans hv) (List.nodup_singleton c)
      (fun e he => List.mem_singleton.mp he ▸ hable.1) (fun e he => List.mem_singleton.mp he ▸ hable.2.1) hperm hsupply hbudget (by simp)
    obtain ⟨hbegun, hslot, hrest⟩ := begun_finish ht
    exact ⟨finish t, hexec, hbegun, hslot, hrest⟩

end Sys2Proof
end

section
/-! SUPPORT. What a VALID slot does to a node whose output A drives a moving jack (R29 to R31, R51, R53). -/

namespace Sys2Proof.Machine

/-! ## Jack channels -/

theorem chanA_jack {n : Fin 8} (h : chanA n ∈ jackChans) : n ≠ 7 ∧ chanB n ∈ jackChans := by
  revert n
  decide

theorem room_not_jack (r : Fin 4) {c : Fin 16} (hc : c ∈ unitSlots (.room r)) : c ∉ jackChans := by
  revert r c
  decide

/-- What only jack channels change leaves a still state still. -/
theorem still_jackChans {s t : State} (h : Still s) (hc : ∀ d, d ∉ jackChans → t.chan d = s.chan d)
    (hp : t.sst.params = s.sst.params) (hr : ∀ r, (t.room r).type = (s.room r).type)
    (hf : ∀ e ∈ t.flt.entries, e.present = true → e ∈ s.flt.entries)
    (hm : ∀ d ∈ jackChans, (s.chan d).moves .retract = false → (t.chan d).moves .retract = false) : Still t := by
  have hrest (d : Fin 16) (hd : d ∉ jackChans) : t.rest d = s.rest d := by
    unfold State.rest State.motorPar
    rw [hp, hc d hd]
  have hpop (d : Fin 16) (hd : d ∉ jackChans) : t.populated d = s.populated d := by
    unfold State.populated
    rw [hc d hd]
  have hawning : t.awningStowed = s.awningStowed := by
    unfold State.awningStowed
    rw [hpop 14 (by decide), hrest 14 (by decide)]
  have hroom (r : Fin 4) : t.roomRest r = s.roomRest r := by
    have hchans : t.unitChans (.room r) = s.unitChans (.room r) :=
      List.filter_congr fun d hd => hpop d (room_not_jack r hd)
    unfold State.roomRest
    rw [hchans]
    exact congrArg roomRestOf (List.map_congr_left fun d hd => hrest d (room_not_jack r (List.mem_of_mem_filter hd)))
  have hrooms : t.roomsStowed = s.roomsStowed := by
    unfold State.roomsStowed State.roomUsed
    simp only [hr, hroom]
  refine ⟨fun e he hk hpr => ?_, ?_⟩
  · rw [hawning]
    exact h.exposed e (hf e he hpr) hk hpr
  · rw [hrooms]
    exact h.jacks.imp id fun k d hd => hm d hd (k d hd)

/-! ## What a delivery to a node touches -/

/-- From w to w' nothing changed but the channels of node n and the node table, where node n keeps its state. -/
structure Touches (n : Fin 8) (w w' : State) : Prop where
  rest : w' = { w with chc := { w.chc with chans := w'.chc.chans }, nlc := { w.nlc with nodes := w'.nlc.nodes } }
  others : ∀ d, d ≠ chanA n → d ≠ chanB n → w'.chan d = w.chan d
  state : (w'.node n).state = (w.node n).state

theorem Touches.trans {n : Fin 8} {s t u : State} (h : Touches n s t) (k : Touches n t u) : Touches n s u := by
  refine ⟨?_, fun d ha hb => (k.others d ha hb).trans (h.others d ha hb), k.state.trans h.state⟩
  have hk := k.rest
  rw [h.rest] at hk
  exact hk

theorem touches_of_keeps {n : Fin 8} {s t : State} (h : IntakeKeeps s t n)
    (ho : ∀ d, d ≠ chanA n → d ≠ chanB n → t.chan d = s.chan d) : Touches n s t :=
  ⟨h.rest, ho, by rw [h.node]⟩

section
variable (s : State) (n : Fin 8) {c : Fin 16} (hn : nodeOf c = n) (hc : c = chanA n ∨ c = chanB n)
include hc

theorem other_chan {d : Fin 16} (ha : d ≠ chanA n) (hb : d ≠ chanB n) : d ≠ c := by
  obtain rfl | rfl := hc
  · exact ha
  · exact hb

theorem touches_setChan (x : Channel) : Touches n s (s.setChan c x) :=
  ⟨rfl, fun d ha hb => by rw [State.setChan_chan, if_neg (other_chan n hc ha hb)], rfl⟩

theorem touches_electric (i p : Nat) : Touches n s (withElectric s c i p) := touches_setChan s n hc _

include hn

theorem touches_position (cnt : BitVec 16) : Touches n s (withPosition s c cnt) :=
  touches_of_keeps (hn ▸ intakeKeeps_position s c cnt) fun d ha hb => by
    rw [withPosition_chan, if_neg (other_chan n hc ha hb)]

end

theorem touches_candidate (s : State) {n : Fin 8} {c : Fin 16} (hn : nodeOf c = n) : Touches n s (withoutCandidate s c) :=
  touches_of_keeps (hn ▸ intakeKeeps_setOutRec s c _) fun d _ _ => withoutCandidate_chan s c d

theorem touches_counted (s : State) (n : Fin 8) : Touches n s (s.setNode n { s.node n with misses := 0 }) :=
  ⟨rfl, fun _ _ _ => rfl, by simp⟩

/-! ## The acts of a slot -/

theorem does_message_ready {s : State} {n : Fin 8} (h : (s.node n).state = .ready) (ctl data : Byte) :
    Does 1 false [.message n ctl data] s s := by
  refine does_done (by simp) ?_ (does_nil _)
  simp only [act, actMessage, h]
  rfl

theorem does_countValid_ready {s : State} {n : Fin 8} (h : (s.node n).state = .ready) :
    Does 1 false [.countValid n] s (s.setNode n { s.node n with misses := 0 }) := by
  refine does_done (by simp) ?_ (does_nil _)
  simp [act, actCountValid, h, Out.done]

/-- A jack's current and pressure that change no latch and bring no support jack to its level. -/
theorem does_electric_jack {s : State} {c : Fin 16} {i p : Nat} (hj : (s.chan c).isJack = true)
    (hl : latchAfter (s.chan c).latch (s.jackPar c) p = (s.chan c).latch) (hsup : supportActs (withElectric s c i p) c = []) :
    Does 1 false [.electric c i p] s (withElectric s c i p) := by
  have hst : s.setChan c { s.chan c with current := i, pressure := p, latch := (s.chan c).latch } = withElectric s c i p := by
    simp [withElectric, hj]
  refine does_done (by simp) ?_ (does_nil _)
  have hlatch (b : Bool) : latchActs (withElectric s c i p) c b b = [] := by cases b <;> rfl
  show actElectric c i p s = _
  unfold actElectric
  simp only [hj, if_true, hl, hst, hlatch, hsup, List.nil_append]

/-- The acts of a VALID slot up to its count, output A's position and readings given by what they do (R29). -/
theorem does_slot {n : Fin 8} {f : Status} {z p q : State} {i j : Nat} {a b : Bool} (hA : z.populated (chanA n) = true)
    (hB : z.populated (chanB n) = true) (hp : Does i a [.position (chanA n) f.countA] z p)
    (hq : Does j b [.electric (chanA n) f.currentA f.pressureA] (withPosition p (chanB n) f.countB) q)
    (hmotion : (p.chan (chanB n)).motion = none) (hplain : PlainReport p (chanB n) f.condB f.pressureB)
    (hqB : q.chan (chanB n) = (withPosition p (chanB n) f.countB).chan (chanB n)) (hsst : q.sst = p.sst)
    (hcond : f.condA = (q.chan (chanA n)).cond)
    (hhome : (q.chan (chanA n)).cond = .limitRet → (q.chan (chanA n)).known = true) (hready : (q.node n).state = .ready) :
    ∃ r, Does (i + j + 8) (a || b) (deliveryActs z n f ++ [.message n f.ctl f.data, .countValid n]) z r ∧ Touches n q r ∧
      r.chan (chanA n) = q.chan (chanA n) ∧
      r.chan (chanB n) = { q.chan (chanB n) with
        current := f.currentB
        pressure := if (q.chan (chanB n)).isJack then f.pressureB else (q.chan (chanB n)).pressure } := by
  have hAB := chanA_ne_chanB n
  have hBA := chanB_ne_chanA n
  have hmq : (q.chan (chanB n)).motion = none := by rw [hqB, withPosition_chan, if_pos rfl]; exact hmotion
  have hlatch : (q.chan (chanB n)).isJack = true →
      latchAfter (q.chan (chanB n)).latch (q.jackPar (chanB n)) f.pressureB = (q.chan (chanB n)).latch := by
    unfold State.jackPar
    rw [hqB, hsst, withPosition_chan, if_pos rfl]
    exact hplain.latch
  let w := withElectric q (chanB n) f.currentB f.pressureB
  let v := withoutCandidate (withoutCandidate w (chanA n)) (chanB n)
  have hchanA : w.chan (chanA n) = q.chan (chanA n) := by rw [withElectric_chan, if_neg hAB]
  have hchanB : w.chan (chanB n) = { q.chan (chanB n) with
      current := f.currentB
      pressure := if (q.chan (chanB n)).isJack then f.pressureB else (q.chan (chanB n)).pressure } := by
    rw [withElectric_chan, if_pos rfl]
  have hcondB : f.condB = (w.chan (chanB n)).cond ∧ ((w.chan (chanB n)).cond = .limitRet → (w.chan (chanB n)).known = true) := by
    rw [hchanB, hqB, withPosition_chan, if_pos rfl]
    exact ⟨hplain.cond, hplain.home⟩
  have htouch : Touches n q v :=
    (((touches_electric q n (.inr rfl) _ _).trans (touches_candidate w (nodeOf_chanA n))).trans
      (touches_candidate _ (nodeOf_chanB n)))
  have hv : (v.node n).state = .ready := htouch.state.trans hready
  have d := does_append hp (does_append (does_position (cnt := f.countB) hmotion) (does_append hq (does_append
    (does_electric (i := f.currentB) hmq hlatch) (does_append (does_condition (s := w) (c := chanA n) (k := f.condA)
      (by rw [hchanA]; exact hcond) (by rw [hchanA]; exact hhome)) (does_append
    (does_condition (s := withoutCandidate w (chanA n)) (c := chanB n) (k := f.condB) hcondB.1 hcondB.2)
    (does_append (does_message_ready hv f.ctl f.data) (does_countValid_ready hv)))))))
  refine ⟨v.setNode n { v.node n with misses := 0 }, ?_, htouch.trans (touches_counted v n), hchanA, hchanB⟩
  have hacts : deliveryActs z n f ++ [.message n f.ctl f.data, .countValid n] =
      [.position (chanA n) f.countA] ++ ([.position (chanB n) f.countB] ++ ([.electric (chanA n) f.currentA f.pressureA] ++
        ([.electric (chanB n) f.currentB f.pressureB] ++ ([.condition (chanA n) f.condA] ++ ([.condition (chanB n) f.condB] ++
          ([.message n f.ctl f.data] ++ [.countValid n])))))) := by
    unfold deliveryActs
    simp only [hA, hB, if_true]
    rfl
  rw [hacts]
  exact does_mono (by simpa using d) (by omega)

/-! ## What a delivery leaves of the rest -/

section
variable {n : Fin 8} {w w' : State} (h : Touches n w w')
include h

theorem Touches.blocks : w'.sgu = w.sgu ∧ w'.lvs = w.lvs ∧ w'.wgd = w.wgd ∧ w'.ciu = w.ciu ∧ w'.flt = w.flt ∧ w'.pli = w.pli ∧
    w'.sst = w.sst ∧ w'.frame = w.frame ∧ w'.chc.units = w.chc.units ∧ w'.chc.rooms = w.chc.rooms ∧ w'.aside = w.aside := by
  rw [h.rest]
  exact ⟨rfl, rfl, rfl, rfl, rfl, rfl, rfl, rfl, rfl, rfl, rfl⟩

theorem Touches.parked (hp : Parked w) : Parked w' := by
  obtain ⟨-, -, -, hciu, -, -, hsst, -⟩ := h.blocks
  exact parked_of_ciu hp hciu (congrArg Sst.phase hsst)

theorem Touches.still (hj : chanA n ∈ jackChans) (hA : (w'.chan (chanA n)).motion = (w.chan (chanA n)).motion)
    (hB : (w'.chan (chanB n)).motion = (w.chan (chanB n)).motion) (hs : Still w) : Still w' := by
  obtain ⟨-, -, -, -, hflt, -, hsst, -, -, hrooms, -⟩ := h.blocks
  refine still_jackChans hs (fun d hd => h.others d (fun e => hd (e ▸ hj)) fun e => hd (e ▸ (chanA_jack hj).2))
    (congrArg Sst.params hsst) (fun r => by simp only [State.room, hrooms]) (fun e he _ => hflt ▸ he) fun d _ hm => ?_
  by_cases hdA : d = chanA n
  · rw [hdA] at hm ⊢
    unfold Channel.moves at hm ⊢
    rwa [hA]
  · by_cases hdB : d = chanB n
    · rw [hdB] at hm ⊢
      unfold Channel.moves at hm ⊢
      rwa [hB]
    · rwa [h.others d hdA hdB]
end

theorem withPosition_motion (s : State) (c d : Fin 16) (cnt : BitVec 16) : ((withPosition s c cnt).chan d).motion = (s.chan d).motion := by
  rw [withPosition_chan]
  split
  · next h => rw [h]
  · rfl

theorem intakeChan_eq (s : State) (c : Fin 16) (cnt : BitVec 16) (i p : Nat) : s.intakeChan c cnt i p =
    { (withPosition s c cnt).chan c with current := i, pressure := if (s.chan c).isJack then p else (s.chan c).pressure } := by
  rw [withPosition_chan, if_pos rfl]
  unfold State.intakeChan
  cases (s.outRec c).lastCount <;> rfl

/-- SLOT_INTAKE of a slot before the frame's last, from what its acts do. -/
theorem exec_slot {s u : State} {n : Fin 8} {reply : SlotReply} {f : Status} {m : Nat} {x : Bool} (hr : s.mode = .running)
    (hn : n ≠ 7) (hready : (s.node n).state = .ready) (hf : statusOf n reply = some f)
    (hd : Does m x (s.closeSlot.intakeActs n f) s.closeSlot u.evaluated) (hm : m ≤ 4000) (hs : Still u) (hp : Parked u)
    (hq : x = true → u.sgu.queue = []) : exec (.slotIntake n reply) s = .next (finish u) := by
  have hacts : s.slotActs n reply = s.closeSlot.intakeActs n f :=
    slotActs_valid hf (fun e => NodeState.noConfusion (hready.symm.trans e))
  have hc : commit s.closeSlot (s.slotActs n reply) = finish u := by
    rw [hacts, commit_does hd hm (still_evaluated hs) (parked_evaluated hp) hq, finish_evaluated]
  show execSlotIntake n reply s = _
  simp only [execSlotIntake, running_of hr, if_true, hc, if_neg hn]

theorem slotAside_finish {s u : State} {n : Fin 8} (hn : n ≠ 7) (h : u.aside = s.closeSlot.aside) : SlotAside n s (finish u) := by
  refine aside_of_eq ?_
  rw [aside_finish, h]
  simp only [decide_eq_false hn, Bool.or_false]
  rfl

end Sys2Proof.Machine
end

section
/-! SUPPORT. The end of one jack's motion: its deadline, its target, its stroke (R13, R15, R51). -/

namespace Sys2Proof.Machine

/-- A USER unit's record ends: alone, or with the unit's work (R20). -/
theorem does_chanEnd {s : State} {c : Fin 16} {m : Motion} (hs : Still s) (hp : Parked s) (hm : (s.chan c).motion = some m)
    (hmo : m.origin = .user) (hw : (s.unit (unitOfChan c)).state ≠ .idle) (ho : (s.unit (unitOfChan c)).origin = some .user) (why : Reason) :
    ((∃ d ∈ s.unitChans (unitOfChan c), d ≠ c ∧ (s.chan d).motion ≠ none) →
      Does 1 false [.chanEnd c why] s (s.setChan c ((s.chan c).endMotion s.frame))) ∧
    ((¬∃ d ∈ s.unitChans (unitOfChan c), d ≠ c ∧ (s.chan d).motion ≠ none) →
      Does 6 true [.chanEnd c why] s ((s.setChan c ((s.chan c).endMotion s.frame)).endUnit (unitOfChan c) why).evaluated) := by
  refine ⟨fun h => does_act (by simp) (chanEnd_other hm h why) (does_nil _), fun h => ?_⟩
  have hlevel : m.origin ≠ .level := by rw [hmo]; nofun
  exact does_act (by simp) (chanEnd_last hm hlevel h why) (does_ends (still_endMotion hs c) (parked_setChan hp c _) hw ho)

/-! ## Attendance (R15) -/

/-- Of the attended records of JACKS one is due: it alone ends. -/
theorem expire_jack {s : State} {c : Fin 16} {m : Motion} {f : FrameNo} (ho : (s.unit .jacks).origin = some .user)
    (hpe : (s.unit .jacks).pending = []) (hc : c ∈ s.unitChans .jacks) (hm : (s.chan c).motion = some m) (ha : m.attended = true)
    (hf : m.deadline = some f) (hdue : reached s.frame f = true)
    (hothers : ∀ d ∈ s.unitChans .jacks, d ≠ c → ∀ k, (s.chan d).motion = some k → ∃ g, k.deadline = some g ∧ reached s.frame g = false) :
    s.expire .jacks = [.chanEnd c .released] := by
  unfold State.expire
  simp only [ho, if_true, hpe, List.filter_nil, List.map_nil, List.nil_append]
  rw [filter_one (nodup_unitChans s .jacks) hc fun d hd => ?_, List.map_singleton]
  refine ⟨fun k => by_contra fun hne => ?_, fun hd => ?_⟩
  · cases hmd : (s.chan d).motion with
    | none => simp [hmd] at k
    | some e =>
      obtain ⟨g, hg, hng⟩ := hothers d hd hne e hmd
      simp [hmd, hg, hng] at k
  · simp [hd, hm, ha, hf, hdue]

/-! ## Target and stroke (R51) -/

/-- A position has come to the target. -/
def Motion.hits (m : Motion) (position : Int) : Bool :=
  match m.target with
  | .at k => decide (k ≤ position)
  | .toEnd => false

theorem Motion.hits_eq (m : Motion) (position : Int) :
    (match m.target with | .at k => decide (k ≤ position) | .toEnd => false) = m.hits position := by
  unfold Motion.hits
  cases m.target <;> rfl

section
variable {s : State} {c : Fin 16} {m : Motion} (hm : (s.chan c).motion = some m)
include hm

/-- The tests of R51 by what they find. -/
theorem jackTest_acts : act (.jackTest c) s =
    if (s.chan c).isJack ∧ m.dir = .extend ∧ (s.chan c).known then
      if m.hits (s.chan c).position then { st := s, acts := [.chanEnd c .target] }
      else if ((s.jackPar c).stroke : Int) ≤ (s.chan c).position then { st := s, acts := [.chanEnd c .ended] }
      else .done s
    else .done s := by
  show actJackTest c s = _
  unfold actJackTest Motion.hits
  simp only [hm] <;> cases m.target <;> rfl

theorem jackTest_short (hh : m.hits (s.chan c).position = false) (hs : (s.chan c).position < (s.jackPar c).stroke) :
    act (.jackTest c) s = .done s := by
  rw [jackTest_acts hm, if_neg (by simp [hh] : ¬m.hits (s.chan c).position = true), if_neg (not_le.mpr hs), ite_self]

variable (hj : (s.chan c).isJack = true) (hd : m.dir = .extend) (hk : (s.chan c).known = true)
include hj hd hk

theorem jackTest_target (hh : m.hits (s.chan c).position = true) : act (.jackTest c) s = { st := s, acts := [.chanEnd c .target] } := by
  rw [jackTest_acts hm, if_pos ⟨hj, hd, hk⟩, if_pos hh]

theorem jackTest_stroke (hh : m.hits (s.chan c).position = false) (hs : ((s.jackPar c).stroke : Int) ≤ (s.chan c).position) :
    act (.jackTest c) s = { st := s, acts := [.chanEnd c .ended] } := by
  rw [jackTest_acts hm, if_pos ⟨hj, hd, hk⟩, if_neg (by simp [hh]), if_pos hs]
end

theorem does_position_tested {s t : State} {c : Fin 16} {cnt : BitVec 16} {m : Nat} {x : Bool} (h : (s.outRec c).lastCount ≠ none)
    (hd : Does m x [.jackTest c] (withPosition s c cnt) t) : Does (m + 1) x [.position c cnt] s t := by
  obtain ⟨last, hl⟩ := Option.ne_none_iff_exists'.mp h
  refine does_act (o := { st := withPosition s c cnt, acts := [.jackTest c] }) (by simp) ?_ hd
  simp [act, actPosition, hl, withPosition]

/-! ## The slot of a jack that works for the user -/

theorem core_ended (x : Channel) (now : FrameNo) : CoreEq (x.endMotion now).unwait x := by
  obtain ⟨hkind, -, hposition, hknown, hcond, hlatch, hextend, -⟩ := endMotion_keeps x now
  exact ⟨hkind, hposition, hknown, hcond, hlatch, hextend⟩

/-- A channel whose motion has ended is not WAITING, and the end of its unit's work finds it so. -/
theorem endMotion_again {x : Channel} {m : Motion} (h : x.motion = some m) (now now' : FrameNo) :
    ((x.endMotion now).endMotion now').unwait = x.endMotion now := by
  have hnone : (x.endMotion now).endMotion now' = x.endMotion now := by
    generalize hy : x.endMotion now = y
    have hmy : y.motion = none := hy ▸ endMotion_motion x now
    simp only [Channel.endMotion, hmy]
  rw [hnone]
  refine if_neg ?_
  simp only [Channel.endMotion, h]
  split
  · nofun
  · split <;> nofun

/-- The parts of a channel that a report is judged by are the same. -/
structure JudgedAlike (x y : Channel) : Prop where
  kind : x.kind = y.kind
  known : x.known = y.known
  cond : x.cond = y.cond
  latch : x.latch = y.latch

theorem CoreEq.judgedAlike {x y : Channel} (h : CoreEq x y) : JudgedAlike x y := ⟨h.kind, h.known, h.cond, h.latch⟩

theorem JudgedAlike.trans {x y z : Channel} (h : JudgedAlike x y) (k : JudgedAlike y z) : JudgedAlike x z :=
  ⟨h.kind.trans k.kind, h.known.trans k.known, h.cond.trans k.cond, h.latch.trans k.latch⟩

theorem JudgedAlike.isJack {x y : Channel} (h : JudgedAlike x y) : x.isJack = y.isJack := by
  unfold Channel.isJack
  rw [h.kind]

theorem PlainReport.alike {s t : State} {c : Fin 16} {k : Cond} {pr : Nat} (h : PlainReport s c k pr)
    (hx : JudgedAlike (t.chan c) (s.chan c)) (hs : t.sst = s.sst) : PlainReport t c k pr := by
  refine ⟨by rw [hx.cond]; exact h.cond, by rw [hx.cond, hx.known]; exact h.home, ?_⟩
  unfold State.jackPar
  rw [hx.isJack, hx.latch, hs]
  exact h.latch

theorem alike_position (s : State) (c d : Fin 16) (cnt : BitVec 16) : JudgedAlike ((withPosition s c cnt).chan d) (s.chan d) := by
  rw [withPosition_chan]
  split
  · next h => exact h ▸ ⟨rfl, rfl, rfl, rfl⟩
  · exact ⟨rfl, rfl, rfl, rfl⟩

theorem unitChans_position (s : State) (c : Fin 16) (cnt : BitVec 16) (u : UnitId) : (withPosition s c cnt).unitChans u = s.unitChans u := by
  refine List.filter_congr fun d _ => ?_
  unfold State.populated
  rw [(alike_position s c d cnt).kind]

/-- After the position tests of output A: its channel, and what the acts behind them need of the rest. -/
structure Tested (n : Fin 8) (z p : State) (y : Channel) : Prop where
  chan : p.chan (chanA n) = y
  alike : JudgedAlike y (z.chan (chanA n))
  partner : JudgedAlike (p.chan (chanB n)) (z.chan (chanB n))
  rest : (p.chan (chanB n)).motion = none
  state : (p.node n).state = (z.node n).state
  sst : p.sst = z.sst
  lvs : p.lvs = z.lvs
  still : Still p
  parked : Parked p

section
variable {n : Fin 8} {z : State} (hs : Still z) (hp : Parked z) (hj : chanA n ∈ jackChans) (hB : (z.chan (chanB n)).motion = none)
  (cnt : BitVec 16)
include hs hp hj hB

theorem tested_position : Tested n z (withPosition z (chanA n) cnt) ((withPosition z (chanA n) cnt).chan (chanA n)) := by
  have ht := touches_position z n (nodeOf_chanA n) (.inl rfl) cnt
  obtain ⟨-, hlvs, -, -, -, -, hsst, -⟩ := ht.blocks
  refine ⟨rfl, alike_position _ _ _ _, alike_position _ _ _ _, ?_, ht.state, hsst, hlvs,
    ht.still hj (withPosition_motion _ _ _ _) (withPosition_motion _ _ _ _) hs, ht.parked hp⟩
  rw [withPosition_motion, hB]
end

theorem Tested.ended {n : Fin 8} {z p : State} {y : Channel} (h : Tested n z p y) :
    Tested n z (p.setChan (chanA n) ((p.chan (chanA n)).endMotion p.frame)) (y.endMotion p.frame) := by
  have hb (x : Channel) : (p.setChan (chanA n) x).chan (chanB n) = p.chan (chanB n) := by
    rw [State.setChan_chan, if_neg (chanB_ne_chanA n)]
  refine ⟨?_, (core_endMotion _ _).judgedAlike.trans h.alike, (hb _).symm ▸ h.partner, (hb _).symm ▸ h.rest, h.state, h.sst, h.lvs,
    still_endMotion h.still _, parked_setChan h.parked _ _⟩
  rw [State.setChan_chan, if_pos rfl, h.chan]

/-- The unit's work has ended with the record. -/
theorem Tested.unitEnded {n : Fin 8} {z p : State} {y : Channel} {m : Motion} (h : Tested n z p (y.endMotion p.frame)) (hm : y.motion = some m)
    (hj : chanA n ∈ jackChans) (hw : (p.unit .jacks).state ≠ .idle) (why : Reason) :
    Tested n z (p.endUnit .jacks why).evaluated (y.endMotion p.frame) := by
  have hended := endUnit_ended hw why
  have hB := hended.chans (chanB n) (chanA_jack hj).2
  refine ⟨?_, h.alike, ?_, ?_, ?_, ?_, ?_, still_evaluated (endUnit_still h.still _ _), parked_evaluated (endUnit_parked h.parked _ _)⟩
  · show (p.endUnit .jacks why).chan (chanA n) = _
    rw [hended.chans (chanA n) hj, h.chan, endMotion_again hm]
  · show JudgedAlike ((p.endUnit .jacks why).chan (chanB n)) _
    rw [hB]
    exact (core_ended _ _).judgedAlike.trans h.partner
  · show ((p.endUnit .jacks why).chan (chanB n)).motion = none
    rw [hB]
    exact (endMotion_keeps (p.chan (chanB n)) p.frame).2.2.2.2.2.2.2.2
  · show ((p.endUnit .jacks why).node n).state = _
    rw [endUnit_node, h.state]
  · exact (endUnit_sst p _ _).trans h.sst
  · exact (endUnit_lvs p _ _).trans h.lvs

/-! ## The whole intake -/

/-- The acts of a slot after its count (R29). -/
def slotEnd (s : State) (n : Fin 8) : List Act := [.lvsIntake ((s.nodeChans n).filter fun c => (s.chan c).movesFor .level), .restCheck false]

theorem intakeActs_split (s : State) (n : Fin 8) (f : Status) :
    s.intakeActs n f = deliveryActs s n f ++ [.message n f.ctl f.data, .countValid n] ++ slotEnd s n := by
  simp only [State.intakeActs, deliveryActs, slotEnd, List.append_assoc, List.cons_append, List.nil_append]

theorem endMotion_readings (x : Channel) (now : FrameNo) (i p : Nat) :
    { x.endMotion now with current := i, pressure := p } = ({ x with current := i, pressure := p } : Channel).endMotion now := by
  unfold Channel.endMotion
  cases hm : x.motion <;> simp only [hm]

/-- A VALID report reaches a node whose outputs both serve jacks, output A's alone moving, and changes no condition (R29). -/
structure JackSlot (s : State) (n : Fin 8) (reply : SlotReply) (f : Status) : Prop where
  steady : Steady s
  ready : (s.node n).state = .ready
  valid : statusOf n reply = some f
  jacks : chanA n ∈ jackChans
  popA : s.populated (chanA n) = true
  popB : s.populated (chanB n) = true
  kind : (s.chan (chanA n)).isJack = true
  condA : f.condA = (s.chan (chanA n)).cond
  homeA : (s.chan (chanA n)).cond = .limitRet → (s.chan (chanA n)).known = true
  plainB : PlainReport s (chanB n) f.condB f.pressureB
  restB : (s.chan (chanB n)).motion = none

/-- A channel with the readings of output A. -/
def Status.readA (f : Status) (x : Channel) : Channel := { x with current := f.currentA, pressure := f.pressureA }

theorem JackSlot.intakeA {s : State} {n : Fin 8} {reply : SlotReply} {f : Status} (h : JackSlot s n reply f) :
    s.intakeChan (chanA n) f.countA f.currentA f.pressureA =
      f.readA ((withPosition s.closeSlot (chanA n) f.countA).chan (chanA n)) := by
  have hjack : (s.closeSlot.chan (chanA n)).isJack = true := h.kind
  show s.closeSlot.intakeChan _ _ _ _ = _
  rw [intakeChan_eq, hjack]
  rfl

section
variable {s p : State} {n : Fin 8} {reply : SlotReply} {f : Status} {y : Channel} {i : Nat} {a : Bool} (h : JackSlot s n reply f)
  (ht : Tested n s.closeSlot p y) (hp : Does i a [.position (chanA n) f.countA] s.closeSlot p)
include h ht hp

/-- What the delivery does, given the tests of output A's position and the act of its readings. -/
theorem JackSlot.slot {q : State} {j : Nat} {b : Bool}
    (hq : Does j b [.electric (chanA n) f.currentA f.pressureA] (withPosition p (chanB n) f.countB) q)
    (hcond : (q.chan (chanA n)).cond = y.cond) (hknown : (q.chan (chanA n)).known = y.known)
    (hB : q.chan (chanB n) = (withPosition p (chanB n) f.countB).chan (chanB n)) (hsst : q.sst = p.sst)
    (hnode : (q.node n).state = (p.node n).state) :
    ∃ r, Does (i + j + 8) (a || b) (deliveryActs s.closeSlot n f ++ [.message n f.ctl f.data, .countValid n]) s.closeSlot r ∧
      Touches n q r ∧ r.chan (chanA n) = q.chan (chanA n) ∧
      r.chan (chanB n) = p.intakeChan (chanB n) f.countB f.currentB f.pressureB := by
  obtain ⟨r, hr, hqr, hrA, hrB⟩ := does_slot (z := s.closeSlot) h.popA h.popB hp hq ht.rest (PlainReport.alike (s := s) h.plainB ht.partner ht.sst) hB hsst
    (by rw [hcond]; exact h.condA.trans ht.alike.cond.symm)
    (by rw [hcond, hknown]; exact fun hc => ht.alike.known.trans (h.homeA (ht.alike.cond.symm.trans hc)))
    (hnode.trans (ht.state.trans h.ready))
  refine ⟨r, hr, hqr, hrA, ?_⟩
  rw [hrB, hB, intakeChan_eq, (alike_position p _ _ _).isJack, withPosition_chan, if_pos rfl]
end

theorem Tested.reads {s p : State} {n : Fin 8} {y : Channel} (ht : Tested n s.closeSlot p y) {k : Cond} {pr : Nat}
    (hA : PlainReport s (chanA n) k pr) (cnt : BitVec 16) : PlainReport (withPosition p (chanB n) cnt) (chanA n) k pr := by
  refine PlainReport.alike (s := s) hA ?_ ((touches_position p n (nodeOf_chanB n) (.inr rfl) cnt).blocks.2.2.2.2.2.2.1.trans ht.sst)
  rw [withPosition_chan, if_neg (chanA_ne_chanB n), ht.chan]
  exact ht.alike

/-- The event of the slot, from what its acts do up to the count and from there on. -/
theorem JackSlot.exec_ended {s r u : State} {n : Fin 8} {reply : SlotReply} {f : Status} {i j : Nat} {a b : Bool} (h : JackSlot s n reply f)
    (hr : Does i a (deliveryActs s.closeSlot n f ++ [.message n f.ctl f.data, .countValid n]) s.closeSlot r)
    (hend : Does j b (slotEnd s n) r u.evaluated) (hij : i + j ≤ 4000) (hs : Still u) (hp : Parked u)
    (hq : (a || b) = true → u.sgu.queue = []) : exec (.slotIntake n reply) s = .next (finish u) := by
  refine exec_slot h.steady.running (chanA_jack h.jacks).1 h.ready h.valid ?_ hij hs hp hq
  rw [intakeActs_split]
  exact does_append hr hend

theorem JackSlot.read {s p : State} {n : Fin 8} {reply : SlotReply} {f : Status} {y : Channel} (h : JackSlot s n reply f)
    (ht : Tested n s.closeSlot p y) :
    (withElectric (withPosition p (chanB n) f.countB) (chanA n) f.currentA f.pressureA).chan (chanA n) = f.readA y := by
  have hy : (withPosition p (chanB n) f.countB).chan (chanA n) = y := by rw [withPosition_chan, if_neg (chanA_ne_chanB n), ht.chan]
  have hjack : y.isJack = true := ht.alike.isJack.trans h.kind
  rw [withElectric_chan, if_pos rfl, hy, if_pos hjack]
  rfl

section
variable {s p : State} {n : Fin 8} {reply : SlotReply} {f : Status} {y : Channel} {i : Nat} {a : Bool} (h : JackSlot s n reply f)
  (ht : Tested n s.closeSlot p y) (hp : Does i a [.position (chanA n) f.countA] s.closeSlot p)
  (hA : PlainReport s (chanA n) f.condA f.pressureA)
include h ht hp hA

/-- The delivery of readings that change no latch and bring no support jack to its level. -/
theorem JackSlot.reads
    (hsup : supportActs (withElectric (withPosition p (chanB n) f.countB) (chanA n) f.currentA f.pressureA) (chanA n) = []) :
    ∃ r, Does (i + 9) a (deliveryActs s.closeSlot n f ++ [.message n f.ctl f.data, .countValid n]) s.closeSlot r ∧ Touches n p r ∧
      r.chan (chanA n) = f.readA y ∧ r.chan (chanB n) = p.intakeChan (chanB n) f.countB f.currentB f.pressureB := by
  have hy : (withPosition p (chanB n) f.countB).chan (chanA n) = y := by rw [withPosition_chan, if_neg (chanA_ne_chanB n), ht.chan]
  have hjack : y.isJack = true := ht.alike.isJack.trans h.kind
  have hread := h.read ht
  have htouch : Touches n p (withElectric (withPosition p (chanB n) f.countB) (chanA n) f.currentA f.pressureA) :=
    (touches_position p n (nodeOf_chanB n) (.inr rfl) f.countB).trans (touches_electric _ n (.inl rfl) _ _)
  obtain ⟨-, -, -, -, -, -, hsst, -⟩ := htouch.blocks
  have he := does_electric_jack (s := withPosition p (chanB n) f.countB) (i := f.currentA) (hy.symm ▸ hjack)
    ((ht.reads hA f.countB).latch (hy.symm ▸ hjack)) hsup
  obtain ⟨r, hr, hqr, hrA, hrB⟩ := h.slot ht hp he (by rw [hread]; rfl) (by rw [hread]; rfl)
    (by rw [withElectric_chan, if_neg (chanB_ne_chanA n)]) hsst htouch.state
  exact ⟨r, by simpa using hr, htouch.trans hqr, hrA.trans hread, hrB⟩

/-- The whole intake of a node with no level sequence about. -/
theorem JackSlot.exec_user (hl : s.lvs.seq.state = .idle) (hm : (s.chan (chanA n)).movesFor .level = false) (hi : i ≤ 100)
    (hq : a = true → p.sgu.queue = []) :
    ∃ r, exec (.slotIntake n reply) s = .next (finish r) ∧ Touches n p r ∧ r.chan (chanA n) = f.readA y := by
  have hsup (w : State) (hw : w.lvs = s.lvs) : supportActs w (chanA n) = [] := by
    unfold supportActs
    simp [hw, hl]
  have hpos := (touches_position p n (nodeOf_chanB n) (.inr rfl) f.countB).blocks.2.1
  obtain ⟨r, hr, hpr, hrA, hrB⟩ := h.reads ht hp hA (hsup _ (hpos.trans ht.lvs))
  obtain ⟨hsgu, hlvs, -⟩ := hpr.blocks
  have hstill : Still r := hpr.still h.jacks (by rw [hrA, ht.chan]; rfl) (by rw [hrB]; rfl) ht.still
  have hnone : (s.nodeChans n).filter (fun c => (s.chan c).movesFor .level) = [] := by
    refine List.filter_eq_nil_iff.mpr fun c hc => ?_
    obtain rfl | rfl : c = chanA n ∨ c = chanB n := by simpa using List.mem_of_mem_filter hc
    · simp [hm]
    · simp [Channel.movesFor, h.restB]
  have hend : Does (2 + 2) false (slotEnd s n) r r.evaluated := by
    unfold slotEnd
    rw [hnone]
    exact does_append (does_intakeNil (by rw [hlvs, ht.lvs]; exact hl)) (does_evaluate hstill (hpr.parked ht.parked) false)
  exact ⟨r, h.exec_ended hr hend (by omega) hstill (hpr.parked ht.parked) fun ha => hsgu ▸ hq (by simpa using ha), hpr, hrA⟩
end

/-! ## A jack of the user comes to its target or its stroke (R51) -/

/-- Output A's count has come in and its motion has ended. -/
def strokeEnded (s : State) (n : Fin 8) (cnt : BitVec 16) : State :=
  (withPosition s (chanA n) cnt).setChan (chanA n)
    (((withPosition s (chanA n) cnt).chan (chanA n)).endMotion (withPosition s (chanA n) cnt).frame)

theorem touches_strokeEnded (s : State) (n : Fin 8) (cnt : BitVec 16) : Touches n s (strokeEnded s n cnt) :=
  (touches_position s n (nodeOf_chanA n) (.inl rfl) cnt).trans (touches_setChan _ n (.inl rfl) _)

theorem JackSlot.tested {s : State} {n : Fin 8} {reply : SlotReply} {f : Status} (h : JackSlot s n reply f) :
    Tested n s.closeSlot (withPosition s.closeSlot (chanA n) f.countA)
      ((withPosition s.closeSlot (chanA n) f.countA).chan (chanA n)) :=
  tested_position (z := s.closeSlot) ⟨h.steady.still.exposed, h.steady.still.jacks⟩ ⟨h.steady.parked.park, h.steady.parked.alarm⟩
    h.jacks h.restB f.countA

section
variable {s : State} {n : Fin 8} {reply : SlotReply} {f : Status} {m : Motion} (h : JackSlot s n reply f)
  (hA : PlainReport s (chanA n) f.condA f.pressureA) (hl : s.lvs.seq.state = .idle) (hm : (s.chan (chanA n)).motion = some m)
  (hmo : m.origin = .user) (hc : (s.outRec (chanA n)).lastCount ≠ none)
include h hA hl hm hmo hc

/-- Neither the target nor the stroke is reached: the report is taken in. -/
theorem JackSlot.exec_short
    (hh : m.hits ((withPosition s.closeSlot (chanA n) f.countA).chan (chanA n)).position = false)
    (hs : ((withPosition s.closeSlot (chanA n) f.countA).chan (chanA n)).position < (s.jackPar (chanA n)).stroke) :
    ∃ r, exec (.slotIntake n reply) s = .next (finish r) ∧ Touches n s.closeSlot r ∧
      r.chan (chanA n) = f.readA ((withPosition s.closeSlot (chanA n) f.countA).chan (chanA n)) := by
  have ht := h.tested
  have hmw : ((withPosition s.closeSlot (chanA n) f.countA).chan (chanA n)).motion = some m := (withPosition_motion _ _ _ _).trans hm
  have htouch := touches_position s.closeSlot n (nodeOf_chanA n) (.inl rfl) f.countA
  have hstroke : (withPosition s.closeSlot (chanA n) f.countA).jackPar (chanA n) = s.jackPar (chanA n) := by
    unfold State.jackPar
    rw [ht.sst]
    rfl
  have htest := jackTest_short hmw hh (hstroke ▸ hs)
  have hp : Does 2 false [.position (chanA n) f.countA] s.closeSlot (withPosition s.closeSlot (chanA n) f.countA) :=
    does_position_tested hc (does_done (by simp) htest (does_nil _))
  obtain ⟨r, he, hr, hrA⟩ := h.exec_user ht hp hA hl (by simp [Channel.movesFor, hm, hmo]) (by omega) nofun
  exact ⟨r, he, htouch.trans hr, hrA⟩

/-- The tests of R51 end the record, and with the unit's last its work. -/
theorem JackSlot.exec_tested {why : Reason} (hw : (s.unit .jacks).state ≠ .idle) (ho : (s.unit .jacks).origin = some .user)
    (htest : act (.jackTest (chanA n)) (withPosition s.closeSlot (chanA n) f.countA) =
      { st := withPosition s.closeSlot (chanA n) f.countA, acts := [.chanEnd (chanA n) why] }) :
    ((∃ d ∈ s.unitChans .jacks, d ≠ chanA n ∧ (s.chan d).motion ≠ none) →
      ∃ r, exec (.slotIntake n reply) s = .next (finish r) ∧ Touches n (strokeEnded s.closeSlot n f.countA) r ∧ r.chan (chanA n) =
        f.readA (((withPosition s.closeSlot (chanA n) f.countA).chan (chanA n)).endMotion (withPosition s.closeSlot (chanA n) f.countA).frame)) ∧
    ((¬∃ d ∈ s.unitChans .jacks, d ≠ chanA n ∧ (s.chan d).motion ≠ none) → s.queueOnly .jacks →
      ∃ r, exec (.slotIntake n reply) s = .next (finish r) ∧
        Touches n ((strokeEnded s.closeSlot n f.countA).endUnit .jacks why).evaluated r ∧ r.chan (chanA n) =
        f.readA (((withPosition s.closeSlot (chanA n) f.countA).chan (chanA n)).endMotion (withPosition s.closeSlot (chanA n) f.countA).frame)) := by
  have ht := h.tested
  have htouch := touches_position s.closeSlot n (nodeOf_chanA n) (.inl rfl) f.countA
  obtain ⟨hsgu, -, -, -, -, -, -, -, hunits, -⟩ := htouch.blocks
  have hunit (u : UnitId) : (withPosition s.closeSlot (chanA n) f.countA).unit u = s.unit u :=
    congrArg (fun l => Vector.get l (unitIdx u)) hunits
  have hu : unitOfChan (chanA n) = .jacks := unitOfChan_slots (u := .jacks) h.jacks
  have hmw : ((withPosition s.closeSlot (chanA n) f.countA).chan (chanA n)).motion = some m := (withPosition_motion _ _ _ _).trans hm
  have hothers : (∃ d ∈ (withPosition s.closeSlot (chanA n) f.countA).unitChans .jacks, d ≠ chanA n ∧
      ((withPosition s.closeSlot (chanA n) f.countA).chan d).motion ≠ none) ↔
      ∃ d ∈ s.unitChans .jacks, d ≠ chanA n ∧ (s.chan d).motion ≠ none := by
    simp only [unitChans_position, withPosition_motion] <;> rfl
  obtain ⟨hother, hlast⟩ := does_chanEnd ht.still ht.parked hmw hmo (by rw [hu, hunit]; exact hw) (by rw [hu, hunit]; exact ho) why
  rw [hu, hothers] at hother hlast
  have hpos {k : Nat} {a : Bool} {t : State} (hd : Does k a [.chanEnd (chanA n) why] (withPosition s.closeSlot (chanA n) f.countA) t) :
      Does (k + 1 + 1) a [.position (chanA n) f.countA] s.closeSlot t :=
    does_position_tested hc (does_act (by simp) htest hd)
  have hlevel : (s.chan (chanA n)).movesFor .level = false := by simp [Channel.movesFor, hm, hmo]
  refine ⟨fun hx => h.exec_user ht.ended (hpos (hother hx)) hA hl hlevel (by omega) nofun, fun hx hq => ?_⟩
  have hactive : ((strokeEnded s.closeSlot n f.countA).unit .jacks).state ≠ .idle := by
    show ((withPosition s.closeSlot (chanA n) f.countA).unit .jacks).state ≠ .idle
    rw [hunit]
    exact hw
  refine h.exec_user (ht.ended.unitEnded hmw h.jacks hactive why) (hpos (hlast hx)) hA hl hlevel (by omega) fun _ => ?_
  refine endUnit_queue (s := strokeEnded s.closeSlot n f.countA) hactive ?_ why
  show ∀ e ∈ (withPosition s.closeSlot (chanA n) f.countA).sgu.queue, e.unit = .jacks
  rw [hsgu]
  exact hq
end

theorem JackSlot.tested_end {s : State} {n : Fin 8} {reply : SlotReply} {f : Status} {m : Motion} (h : JackSlot s n reply f)
    (hm : (s.chan (chanA n)).motion = some m) (hd : m.dir = .extend) (hk : (s.chan (chanA n)).known = true)
    (he : m.hits ((withPosition s.closeSlot (chanA n) f.countA).chan (chanA n)).position = true ∨
      ((s.jackPar (chanA n)).stroke : Int) ≤ ((withPosition s.closeSlot (chanA n) f.countA).chan (chanA n)).position) :
    act (.jackTest (chanA n)) (withPosition s.closeSlot (chanA n) f.countA) = { st := withPosition s.closeSlot (chanA n) f.countA
                                                                                acts := [.chanEnd (chanA n) (if
      m.hits ((withPosition s.closeSlot (chanA n) f.countA).chan (chanA n)).position then .target else .ended)] } := by
  have ht := h.tested
  have hmw : ((withPosition s.closeSlot (chanA n) f.countA).chan (chanA n)).motion = some m := (withPosition_motion _ _ _ _).trans hm
  have hjack : ((withPosition s.closeSlot (chanA n) f.countA).chan (chanA n)).isJack = true := ht.alike.isJack.trans h.kind
  have hknown : ((withPosition s.closeSlot (chanA n) f.countA).chan (chanA n)).known = true := ht.alike.known.trans hk
  have hstroke : (withPosition s.closeSlot (chanA n) f.countA).jackPar (chanA n) = s.jackPar (chanA n) := by
    unfold State.jackPar
    rw [ht.sst]
    rfl
  cases hh : m.hits ((withPosition s.closeSlot (chanA n) f.countA).chan (chanA n)).position with
  | true => exact jackTest_target hmw hjack hd hknown hh
  | false => exact jackTest_stroke hmw hjack hd hknown hh (hstroke.symm ▸ he.resolve_left (by rw [hh]; exact Bool.false_ne_true))

/-! ## What an intake of a jack leaves of the part -/

theorem transmitted_congr {s t : State} (hp : t.pli = s.pli) (hs : t.sst = s.sst) : t.transmitted = s.transmitted := by
  unfold State.transmitted State.softResetDue
  rw [hp, hs]

theorem endUnit_pli {s : State} {u : UnitId} (h : (s.unit u).state ≠ .idle) (why : Reason) :
    (s.endUnit u why).pli = s.pli.offer s.par.noticeMask (.motionEnd u why) := by
  obtain ⟨v, w, e, -⟩ := endUnit_eq h why
  rw [e]
  rfl

section
variable {s r : State} {n : Fin 8} (hn : n ≠ 7)
include hn

/-- An intake that ends no unit's work leaves the blocks and the units as they were. -/
theorem stands_of_touches (h : Touches n s.closeSlot r) : (∀ v, (finish r).unit v = s.unit v) ∧ (finish r).flt = s.flt ∧
    SlotAside n s (finish r) ∧ (finish r).wgd = s.wgd ∧ (finish r).ciu.stow = s.ciu.stow := by
  obtain ⟨-, -, hwgd, hciu, hflt, -, -, -, hunits, -, haside⟩ := h.blocks
  exact ⟨fun v => congrArg (fun l => Vector.get l (unitIdx v)) hunits, hflt, slotAside_finish hn haside, hwgd, by rw [finish_ciu, hciu]; rfl⟩

/-- An intake that ends the work of JACKS leaves the rest as the end of the work does. -/
theorem stands_of_ended {e : State} {why : Reason} (he : Touches n s.closeSlot e) (hw : (s.unit .jacks).state ≠ .idle)
    (h : Touches n (e.endUnit .jacks why).evaluated r) : (finish r).unit .jacks = .reset ∧
    (finish r).sgu.grants = s.sgu.grants.filter (fun g => decide (g.unit ≠ .jacks)) ∧
    (finish r).pli = ({ s with pli := s.pli.offer s.par.noticeMask (.motionEnd .jacks why) } : State).transmitted ∧
    (finish r).flt = s.flt ∧ SlotAside n s (finish r) ∧ (finish r).wgd = s.wgd ∧ (finish r).ciu.stow = s.ciu.stow ∧
    ∀ v, v ≠ .jacks → (finish r).unit v = s.unit v := by
  obtain ⟨hsgu, -, hwgd, -, hflt, hpli, hsst, -, -, -, haside⟩ := he.blocks
  obtain ⟨hunit, -⟩ := stands_of_touches hn he
  obtain ⟨hsgu', -, hwgd', hciu', hflt', hpli', hsst', -, hunits', -, haside'⟩ := h.blocks
  have hactive : (e.unit .jacks).state ≠ .idle := by
    rw [← finish_unit, hunit]
    exact hw
  have hended := endUnit_ended hactive why
  have hunitr (v : UnitId) : (finish r).unit v = (e.endUnit .jacks why).unit v :=
    congrArg (fun l => Vector.get l (unitIdx v)) hunits'
  refine ⟨(hunitr _).trans hended.idle, ?_, ?_, ?_, slotAside_finish hn ?_, ?_, ?_, fun v hv => ?_⟩
  · rw [finish_sgu, hsgu']
    exact hended.grants.trans (by rw [hsgu]; rfl)
  · refine transmitted_congr (hpli'.trans ((endUnit_pli hactive why).trans ?_)) (hsst'.trans ((endUnit_sst e _ _).trans hsst))
    unfold State.par
    rw [hpli, hsst]
    rfl
  · exact hflt'.trans ((endUnit_flt e _ _).trans hflt)
  · exact haside'.trans ((aside_endUnit e _ _).trans haside)
  · exact hwgd'.trans ((endUnit_wgd e _ _).trans hwgd)
  · rw [finish_ciu, hciu']
    show (e.endUnit .jacks why).ciu.stow = _
    rw [endUnit_ciu, he.blocks.2.2.2.1]
    rfl
  · rw [hunitr, hended.others v hv, ← finish_unit, hunit]
end

end Sys2Proof.Machine
end

section
/-! SUPPORT. A jack of a level sequence comes to what its phase wants (R54, R95, R101, R102, R105). -/

namespace Sys2Proof.Machine

/-! ## What an intake under a level sequence leaves of the part -/

/-- From s to t nothing changed but the channels and the record of node n, the fault list and the notices, the level sequence,
and the TRAVEL line. -/
structure Calm (n : Fin 8) (s t : State) : Prop where
  aside : t.aside = s.aside
  sgu : t.sgu = s.sgu
  wgd : t.wgd = s.wgd
  ciu : t.ciu = { s.ciu with travel := t.ciu.travel }
  units : t.chc.units = s.chc.units
  rooms : t.chc.rooms = s.chc.rooms
  others : ∀ d, d ≠ chanA n → d ≠ chanB n → t.chan d = s.chan d

theorem Calm.trans {n : Fin 8} {s t u : State} (h : Calm n s t) (k : Calm n t u) : Calm n s u := by
  refine ⟨k.aside.trans h.aside, k.sgu.trans h.sgu, k.wgd.trans h.wgd, ?_, k.units.trans h.units, k.rooms.trans h.rooms,
    fun d ha hb => (k.others d ha hb).trans (h.others d ha hb)⟩
  rw [k.ciu, h.ciu]

theorem Touches.calm {n : Fin 8} {s t : State} (h : Touches n s t) : Calm n s t := by
  obtain ⟨hsgu, -, hwgd, hciu, -, -, -, -, hunits, hrooms, haside⟩ := h.blocks
  exact ⟨haside, hsgu, hwgd, by rw [hciu], hunits, hrooms, h.others⟩

section
variable {n : Fin 8} {s t : State} (h : Calm n s t)
include h

theorem Calm.sst : t.sst = s.sst := congrArg (fun a => a.2.1) h.aside

theorem Calm.frame : t.frame = s.frame := congrArg (fun a => a.1.1) h.aside

theorem Calm.unit (u : UnitId) : t.unit u = s.unit u := congrArg (fun l => Vector.get l (unitIdx u)) h.units

theorem Calm.jackPar (c : Fin 16) : t.jackPar c = s.jackPar c := by
  unfold State.jackPar
  rw [h.sst]

theorem Calm.parked (hp : Parked s) : Parked t := by
  refine ⟨fun hr => ?_, ?_⟩
  · unfold State.parkReleased
    rw [h.ciu]
    exact hp.park (h.sst ▸ hr)
  · rw [h.ciu]
    exact hp.alarm

/-- No jack retracts and no exposed awning is listed anew: a still state stays still. -/
theorem Calm.still (hj : chanA n ∈ jackChans) (hA : (t.chan (chanA n)).moves .retract = false)
    (hB : (t.chan (chanB n)).motion = (s.chan (chanB n)).motion)
    (hf : ∀ e ∈ t.flt.entries, e.present = true → e ∈ s.flt.entries) (hs : Still s) : Still t := by
  refine still_jackChans hs (fun d hd => h.others d (fun e => hd (e ▸ hj)) fun e => hd (e ▸ (chanA_jack hj).2))
    (congrArg Sst.params h.sst) (fun r => by simp only [State.room, h.rooms]) hf fun d _ hm => ?_
  by_cases hdA : d = chanA n
  · rw [hdA]
    exact hA
  · by_cases hdB : d = chanB n
    · rw [hdB] at hm ⊢
      unfold Channel.moves at hm ⊢
      rwa [hB]
    · rwa [h.others d hdA hdB]

/-- The event leaves the grants, JACKS and all else as they were. -/
theorem Calm.stands (hn : n ≠ 7) : (finish t).unit .jacks = s.unit .jacks ∧ GrantsStand s (finish t) ∧ (finish t).wgd = s.wgd ∧
    (finish t).ciu.stow = s.ciu.stow ∧ SlotAside n s (finish t) ∧
    (∀ d, d ≠ chanA n → d ≠ chanB n → (finish t).chan d = s.chan d) ∧ ∀ u, u ≠ .jacks → (finish t).unit u = s.unit u := by
  refine ⟨h.unit _, ⟨?_, ?_, ?_⟩, h.wgd, ?_, slotAside_finish hn h.aside, h.others, fun u _ => h.unit u⟩
  · rw [finish_sgu, h.sgu]
  · rw [finish_sgu, h.sgu]
  · rw [finish_sgu, h.sgu]
  · rw [finish_ciu, h.ciu]
end

theorem calm_setChan (s : State) (n : Fin 8) (x : Channel) : Calm n s (s.setChan (chanA n) x) := (touches_setChan s n (.inl rfl) x).calm

theorem calm_evaluated (n : Fin 8) (s : State) : Calm n s s.evaluated := ⟨rfl, rfl, rfl, rfl, rfl, rfl, fun _ _ _ => rfl⟩

theorem calm_settling (n : Fin 8) (s : State) : Calm n s s.enterSettling :=
  ⟨aside_offer _ _, rfl, rfl, rfl, rfl, rfl, fun _ _ _ => rfl⟩

theorem aside_gone (k : FaultKind) (sj : Subject) (s : State) : (actGone k sj s).st.aside = s.aside := by
  unfold actGone
  split
  · rfl
  · split
    · rfl
    · split
      · exact aside_offer _ _
      · rfl

/-! ## The acts of a phase -/

theorem anyRecord_iff (s : State) (l : List (Fin 16)) : s.anyRecord l = true ↔ ∃ d ∈ l, (s.chan d).motion ≠ none := by
  unfold State.anyRecord
  simp only [List.any_eq_true, Option.isSome_iff_ne_none]

section
variable {s : State} (hr : s.lvs.seq.recorded = none)
include hr

theorem progress_contact {since : FrameNo} (hst : s.lvs.seq.state = .contact) (hps : s.lvs.seq.phaseStart = some since) :
    act .lvsProgress s = .done (if s.cornersLatched && !s.anyRecord cornerChans then s.enterSettling else s) := by
  show actLvsProgress s = _
  unfold actLvsProgress
  simp only [hr, hst, hps, Option.isSome_none, Option.isSome_some, Bool.true_and, Bool.false_eq_true, if_false]
  split <;> rfl

theorem progress_lifting (hst : s.lvs.seq.state = .lifting) :
    act .lvsProgress s = .done (if !s.anyRecord cornerChans then s.enterSettling else s) := by
  show actLvsProgress s = _
  unfold actLvsProgress
  simp only [hr, hst, Option.isSome_none, Bool.false_eq_true, if_false]
  cases s.anyRecord cornerChans <;> rfl

theorem progress_support (hst : s.lvs.seq.state = .support) :
    act .lvsProgress s = if s.anyRecord supportChans then .done s
      else { st := s, acts := [.lvsEnd (s.lvs.seq.pending.getD .notLevel) .none s.lvs.seq.prev] } := by
  show actLvsProgress s = _
  unfold actLvsProgress
  simp only [hr, hst, Option.isSome_none, Bool.false_eq_true, if_false]
end

/-- A jack with its record has not failed its phase. -/
theorem noGround_moving {s : State} {c : Fin 16} (h : (s.chan c).motion ≠ none) : s.noGround [c] = [] := by
  unfold State.noGround
  rw [List.filter_cons_of_neg, List.filter_nil]
  simp [Option.isNone_iff_eq_none, h]

/-- A corner jack that is grounded has reached what CONTACT wants (R95, R96). -/
theorem noGround_latched {s : State} {c : Fin 16} (hst : s.lvs.seq.state = .contact) (h : (s.chan c).latch = true) : s.noGround [c] = [] := by
  unfold State.noGround
  rw [List.filter_cons_of_neg, List.filter_nil]
  simp [hst, h]

theorem noGround_lifting {s : State} (hst : s.lvs.seq.state = .lifting) (l : List (Fin 16)) : s.noGround l = [] := by
  unfold State.noGround
  simp [hst]

/-- A support jack at its level has reached what SUPPORT wants (R105, R106). -/
theorem noGround_supported {s : State} {c : Fin 16} (hst : s.lvs.seq.state = .support) (h : s.supportLevel c ≤ (s.chan c).pressure) :
    s.noGround [c] = [] := by
  unfold State.noGround
  rw [List.filter_cons_of_neg, List.filter_nil]
  simp [hst, Nat.not_lt.mpr h]

/-- A phase that no jack has failed is looked at for its end. -/
theorem does_lvsIntake {s t : State} {l : List (Fin 16)} {m : Nat} {x : Bool} (h : s.noGround l = []) (hd : Does m x [.lvsProgress] s t) :
    Does (m + 1) x [.lvsIntake l] s t := by
  refine does_act (o := { st := s, acts := [.lvsProgress] }) (by simp) ?_ hd
  show actLvsIntake l s = _
  unfold actLvsIntake
  simp only [h, List.length_nil, if_true]

end Sys2Proof.Machine
end

section
/-! SUPPORT. The event of a jack under a level sequence, phase by phase. -/

namespace Sys2Proof.Machine

/-- The intake of slot n under a level sequence: output A's channel, the list and the sequence it leaves; the partner has taken its
report in and the rest of the part stands. -/
def LeftBy (s : State) (n : Fin 8) (reply : SlotReply) (f : Status) (flt : Flt) (v : Channel) (lvs : Lvs) : Prop :=
  ∃ r, exec (.slotIntake n reply) s = .next (finish r) ∧ Calm n s r ∧ r.chan (chanA n) = v ∧
    r.chan (chanB n) = s.intakeChan (chanB n) f.countB f.currentB f.pressureB ∧ r.lvs = lvs ∧ r.flt = flt

/-- The sequence settles from now on (R97). -/
def State.settlingNow (s : State) : Lvs :=
  { s.lvs with seq := { s.lvs.seq with state := .settling, phaseStart := some s.frame, samples := 0 } }

/-- Output A's jack extends for the sequence as its slot comes in (R101, R105). -/
structure LevelSlot (s : State) (n : Fin 8) (reply : SlotReply) (f : Status) (st : LvState) (since : FrameNo) (m : Motion) : Prop
    extends JackSlot s n reply f where
  levelling : s.Levelling st since
  motion : (s.chan (chanA n)).motion = some m
  dir : m.dir = .extend
  origin : m.origin = .level
  counted : (s.outRec (chanA n)).lastCount ≠ none
  short : ((withPosition s.closeSlot (chanA n) f.countA).chan (chanA n)).position < (s.jackPar (chanA n)).stroke

section
variable {s : State} {n : Fin 8} {reply : SlotReply} {f : Status} {st : LvState} {since : FrameNo} {m : Motion}
  (h : LevelSlot s n reply f st since m)
include h

theorem LevelSlot.movesLevel : (s.chan (chanA n)).movesFor .level = true := by
  simp [Channel.movesFor, h.motion, h.origin]

theorem LevelSlot.slotEnd_eq : slotEnd s n = [.lvsIntake [chanA n]] ++ [.restCheck false] := by
  have hB : (s.chan (chanB n)).movesFor .level = false := by simp [Channel.movesFor, h.restB]
  simp only [slotEnd, State.nodeChans, List.filter_cons, List.filter_nil, h.popA, h.popB, h.movesLevel, hB, if_true, Bool.false_eq_true,
    if_false]
  rfl

theorem LevelSlot.not_retracting {x : Channel} (hx : x.motion = some m) : x.moves .retract = false := by
  unfold Channel.moves
  rw [hx]
  exact decide_eq_false (by rw [h.dir]; nofun)

theorem LevelSlot.positioned : ((withPosition s.closeSlot (chanA n) f.countA).chan (chanA n)).motion = some m :=
  (withPosition_motion _ _ _ _).trans h.motion

/-- The count brings the jack neither to its target nor to its stroke. -/
theorem LevelSlot.does_short (hh : m.hits ((withPosition s.closeSlot (chanA n) f.countA).chan (chanA n)).position = false) :
    Does 2 false [.position (chanA n) f.countA] s.closeSlot (withPosition s.closeSlot (chanA n) f.countA) := by
  have hstroke := (touches_position s.closeSlot n (nodeOf_chanA n) (.inl rfl) f.countA).calm.jackPar (chanA n)
  refine does_position_tested h.counted (does_done (by simp) (jackTest_short h.positioned hh ?_) (does_nil _))
  rw [hstroke]
  exact h.short

/-- The count brings the jack to its target: it holds there (R51, R102). -/
theorem LevelSlot.does_target (hk : ((withPosition s.closeSlot (chanA n) f.countA).chan (chanA n)).known = true)
    (hh : m.hits ((withPosition s.closeSlot (chanA n) f.countA).chan (chanA n)).position = true) :
    Does 3 false [.position (chanA n) f.countA] s.closeSlot (strokeEnded s.closeSlot n f.countA) := by
  have hjack : ((withPosition s.closeSlot (chanA n) f.countA).chan (chanA n)).isJack = true := h.tested.alike.isJack.trans h.kind
  exact does_position_tested h.counted (does_act (by simp) (jackTest_target h.positioned hjack h.dir hk hh)
    (does_act (by simp) (chanEnd_level h.positioned h.origin .target) (does_nil _)))

end

theorem calm_closeSlot (n : Fin 8) (s : State) : Calm n s s.closeSlot := ⟨rfl, rfl, rfl, rfl, rfl, rfl, fun _ _ _ => rfl⟩

theorem moves_ended {x : Channel} (h : x.motion = none) (d : Dir) : x.moves d = false := by
  unfold Channel.moves
  rw [h]

theorem intakeChan_congr {s t : State} {c : Fin 16} (hc : t.chan c = s.chan c) (ho : t.outRec c = s.outRec c) (cnt : BitVec 16) (i p : Nat) :
    t.intakeChan c cnt i p = s.intakeChan c cnt i p := by
  unfold State.intakeChan
  rw [hc, ho]

/-- What output A's count does leaves the partner's report to come (R30). -/
theorem intakeChan_strokeEnded (s : State) (n : Fin 8) (cnt cnt' : BitVec 16) (i p : Nat) :
    (strokeEnded s n cnt).intakeChan (chanB n) cnt' i p = s.intakeChan (chanB n) cnt' i p := by
  have hBA := chanB_ne_chanA n
  refine intakeChan_congr ?_ ?_ cnt' i p
  · exact (State.setChan_chan _ _ _ _).trans ((if_neg hBA).trans ((withPosition_chan _ _ _ _).trans (if_neg hBA)))
  · exact (withPosition_outRec _ _ _ _).trans (if_neg hBA.symm)

theorem intakeChan_position (s : State) (n : Fin 8) (cnt cnt' : BitVec 16) (i p : Nat) :
    (withPosition s (chanA n) cnt).intakeChan (chanB n) cnt' i p = s.intakeChan (chanB n) cnt' i p := by
  have hBA := chanB_ne_chanA n
  exact intakeChan_congr ((withPosition_chan _ _ _ _).trans (if_neg hBA)) ((withPosition_outRec _ _ _ _).trans (if_neg hBA.symm)) cnt' i p

/-! ## After the count -/

/-- What slot n's delivery, message and count leave under a level sequence: output A's channel is v. -/
structure Delivered (s : State) (n : Fin 8) (f : Status) (flt : Flt) (v : Channel) (r : State) : Prop where
  does : Does 100 false (deliveryActs s.closeSlot n f ++ [.message n f.ctl f.data, .countValid n]) s.closeSlot r
  calm : Calm n s r
  chanA : r.chan (chanA n) = v
  chanB : r.chan (chanB n) = s.intakeChan (chanB n) f.countB f.currentB f.pressureB
  lvs : r.lvs = s.lvs
  flt : r.flt = flt

section
variable {s r : State} {n : Fin 8} {f : Status} {flt : Flt} {v : Channel} (k : Delivered s n f flt v r)
include k

/-- What a channel other than output A shows is what it showed. -/
theorem Delivered.others_stand {d : Fin 16} (hd : d ≠ Machine.chanA n) :
    (r.chan d).motion = (s.chan d).motion ∧ (r.chan d).latch = (s.chan d).latch := by
  by_cases hdB : d = Machine.chanB n
  · rw [hdB, k.chanB]
    exact ⟨rfl, rfl⟩
  · rw [k.calm.others d hd hdB]
    exact ⟨rfl, rfl⟩

theorem Delivered.records (hv : v.motion = none) (l : List (Fin 16)) :
    r.anyRecord l = false ↔ ∀ d ∈ l, d ≠ Machine.chanA n → (s.chan d).motion = none := by
  rw [Bool.eq_false_iff, Ne, anyRecord_iff]
  push Not
  refine forall₂_congr fun d _ => ?_
  by_cases hd : d = Machine.chanA n
  · simp [hd, k.chanA, hv]
  · simp [hd, (k.others_stand hd).1]

theorem Delivered.keeps_record (hv : v.motion ≠ none) {l : List (Fin 16)} (hc : Machine.chanA n ∈ l) : r.anyRecord l = true :=
  (anyRecord_iff r l).mpr ⟨_, hc, k.chanA ▸ hv⟩

end

section
variable {s r : State} {n : Fin 8} {reply : SlotReply} {f : Status} {st : LvState} {since : FrameNo} {m : Motion} {flt : Flt} {v : Channel}
  (h : LevelSlot s n reply f st since m) (k : Delivered s n f flt v r) (hv : v.moves .retract = false)
  (hf : ∀ e ∈ flt.entries, e.present = true → e ∈ s.flt.entries)
include h k hv hf

theorem LevelSlot.still_delivered : Still r :=
  k.calm.still h.jacks (k.chanA ▸ hv) (by rw [k.chanB]; rfl) (fun e he => hf e (k.flt ▸ he)) h.steady.still

/-- The event, where the phase goes on or settles. -/
theorem LevelSlot.leftBy (hg : r.noGround [chanA n] = []) {b : Bool} (hp : act .lvsProgress r = .done (if b then r.enterSettling else r)) :
    LeftBy s n reply f flt v (if b then s.settlingNow else s.lvs) := by
  have hstill := h.still_delivered k hv hf
  have hparked := k.calm.parked h.steady.parked
  obtain ⟨u, hu⟩ : ∃ u, u = if b then r.enterSettling else r := ⟨_, rfl⟩
  rw [← hu] at hp
  have hur : Calm n r u ∧ Still u ∧ u.chan = r.chan ∧ u.flt = r.flt ∧ u.lvs = if b then s.settlingNow else s.lvs := by
    cases b with
    | false => exact hu ▸ ⟨(Touches.calm ⟨rfl, fun _ _ _ => rfl, rfl⟩), hstill, rfl, rfl, k.lvs⟩
    | true =>
      refine hu ▸ ⟨calm_settling n r, ⟨hstill.exposed, hstill.jacks⟩, rfl, rfl, ?_⟩
      show r.settlingNow = s.settlingNow
      unfold State.settlingNow
      rw [k.lvs, k.calm.frame]
  obtain ⟨hcalmu, hstillu, hchan, hflt, hlvsu⟩ := hur
  have hend : Does (1 + 1 + 2) false (slotEnd s n) r u.evaluated := by
    rw [h.slotEnd_eq]
    exact does_append (does_lvsIntake hg (does_done (by simp) hp (does_nil _))) (does_evaluate hstillu (hcalmu.parked hparked) false)
  exact ⟨u, h.exec_ended k.does hend (by omega) hstillu (hcalmu.parked hparked) nofun, k.calm.trans hcalmu, hchan ▸ k.chanA,
    hchan ▸ k.chanB, hlvsu, hflt.trans k.flt⟩
end

/-- The delivery of readings that change no latch, after what the position tests do. -/
theorem LevelSlot.delivered {s p : State} {n : Fin 8} {reply : SlotReply} {f : Status} {st : LvState} {since : FrameNo} {m : Motion}
    {y : Channel} {i : Nat} (h : LevelSlot s n reply f st since m) (ht : Tested n s.closeSlot p y)
    (hp : Does i false [.position (chanA n) f.countA] s.closeSlot p) (hi : i ≤ 50) (hsp : Touches n s.closeSlot p)
    (hB : p.intakeChan (chanB n) f.countB f.currentB f.pressureB = s.intakeChan (chanB n) f.countB f.currentB f.pressureB)
    (hA : PlainReport s (chanA n) f.condA f.pressureA)
    (hsup : ∀ w : State, w.lvs = s.lvs → w.sst = s.sst → w.chan (chanA n) = f.readA y → supportActs w (chanA n) = []) :
    ∃ r, Delivered s n f s.flt (f.readA y) r := by
  have hw : Touches n p (withElectric (withPosition p (chanB n) f.countB) (chanA n) f.currentA f.pressureA) :=
    (touches_position p n (nodeOf_chanB n) (.inr rfl) f.countB).trans (touches_electric _ n (.inl rfl) _ _)
  obtain ⟨-, hwl, -, -, -, -, hws, -⟩ := (hsp.trans hw).blocks
  obtain ⟨r, hr, hpr, hrA, hrB⟩ := h.reads ht hp hA (hsup _ hwl hws (h.read ht))
  obtain ⟨-, hlvs, -, -, hflt, -⟩ := (hsp.trans hpr).blocks
  exact ⟨r, does_mono hr (by omega), (calm_closeSlot n s).trans (hsp.trans hpr).calm, hrA, hrB.trans hB, hlvs, hflt⟩

theorem supportActs_phase {s : State} (h : s.lvs.seq.state ≠ .support) (c : Fin 16) : supportActs s c = [] := by
  unfold supportActs
  simp [h]

/-! ## LIFTING (R101, R102) -/

section
variable {s : State} {n : Fin 8} {reply : SlotReply} {f : Status} {since : FrameNo} {m : Motion}
  (h : LevelSlot s n reply f .lifting since m) (hA : PlainReport s (chanA n) f.condA f.pressureA)
include h hA

/-- Short of its target a corner jack goes on. -/
theorem LevelSlot.lifts_short (hc : chanA n ∈ cornerChans)
    (hh : m.hits ((withPosition s.closeSlot (chanA n) f.countA).chan (chanA n)).position = false) :
    LeftBy s n reply f s.flt (f.readA ((withPosition s.closeSlot (chanA n) f.countA).chan (chanA n))) s.lvs := by
  have hseq : ∀ w : State, w.lvs = s.lvs → w.lvs.seq.state = .lifting := fun w hw => hw ▸ h.levelling.state
  have hsp := touches_position s.closeSlot n (nodeOf_chanA n) (.inl rfl) f.countA
  obtain ⟨r, k⟩ := h.delivered h.tested (h.does_short hh) (by omega) hsp (intakeChan_position s.closeSlot _ _ _ _ _) hA
    fun w hw _ _ => supportActs_phase (by rw [hseq w hw]; nofun) _
  have hmotion : (f.readA ((withPosition s.closeSlot (chanA n) f.countA).chan (chanA n))).motion = some m := h.positioned
  have hrecord := k.keeps_record (by rw [hmotion]; nofun) hc
  have hp := progress_lifting (s := r) (k.lvs ▸ h.levelling.recorded) (hseq r k.lvs)
  have hleft := h.leftBy k (h.not_retracting hmotion) (fun e he _ => he) (noGround_lifting (hseq r k.lvs) _) hp
  rwa [hrecord] at hleft

/-- At its target it holds; with the last of them the sequence settles. -/
theorem LevelSlot.lifts_held (hk : ((withPosition s.closeSlot (chanA n) f.countA).chan (chanA n)).known = true)
    (hh : m.hits ((withPosition s.closeSlot (chanA n) f.countA).chan (chanA n)).position = true) :
    ∃ b : Bool, (b = true ↔ ∀ d ∈ cornerChans, d ≠ chanA n → (s.chan d).motion = none) ∧
      LeftBy s n reply f s.flt ((f.readA ((withPosition s.closeSlot (chanA n) f.countA).chan (chanA n))).endMotion s.frame)
        (if b then s.settlingNow else s.lvs) := by
  have hseq : ∀ w : State, w.lvs = s.lvs → w.lvs.seq.state = .lifting := fun w hw => hw ▸ h.levelling.state
  have hsp := touches_strokeEnded s.closeSlot n f.countA
  obtain ⟨r, k⟩ := h.delivered h.tested.ended (h.does_target hk hh) (by omega) hsp (intakeChan_strokeEnded s.closeSlot _ _ _ _ _) hA
    fun w hw _ _ => supportActs_phase (by rw [hseq w hw]; nofun) _
  have hv : f.readA (((withPosition s.closeSlot (chanA n) f.countA).chan (chanA n)).endMotion
      (withPosition s.closeSlot (chanA n) f.countA).frame) =
      (f.readA ((withPosition s.closeSlot (chanA n) f.countA).chan (chanA n))).endMotion s.frame := by
    rw [(touches_position s.closeSlot n (nodeOf_chanA n) (.inl rfl) f.countA).calm.frame]
    exact endMotion_readings _ _ _ _
  rw [hv] at k
  have hmotion := endMotion_motion (f.readA ((withPosition s.closeSlot (chanA n) f.countA).chan (chanA n))) s.frame
  have hp := progress_lifting (s := r) (k.lvs ▸ h.levelling.recorded) (hseq r k.lvs)
  refine ⟨!r.anyRecord cornerChans, ?_, h.leftBy k (moves_ended hmotion _) (fun e he _ => he) (noGround_lifting (hseq r k.lvs) _) hp⟩
  rw [Bool.not_eq_true', k.records hmotion]
end

end Sys2Proof.Machine
end

section
/-! SUPPORT. A jack comes to the ground in CONTACT and to its level in SUPPORT (R54, R95, R105). -/

namespace Sys2Proof.Machine

theorem hits_toEnd {m : Motion} (h : m.target = .toEnd) (p : Int) : m.hits p = false := by
  unfold Motion.hits
  rw [h]

theorem latchAfter_clear (p : JackParams) (pr : Nat) : latchAfter false p pr = decide (p.contactThreshold ≤ pr) := rfl

/-! ## CONTACT (R54, R95) -/

theorem cornersLatched_iff (s : State) : s.cornersLatched = true ↔ ∀ d ∈ cornerChans, (s.chan d).latch = true := List.all_eq_true

/-- The delivery, where the act of output A's readings is given. -/
theorem LevelSlot.delivered_by {s q : State} {n : Fin 8} {reply : SlotReply} {f : Status} {st : LvState} {since : FrameNo} {m : Motion}
    {flt : Flt} (h : LevelSlot s n reply f st since m) (hh : m.target = .toEnd)
    (hq : Does 10 false [.electric (chanA n) f.currentA f.pressureA]
      (withPosition (withPosition s.closeSlot (chanA n) f.countA) (chanB n) f.countB) q)
    (hcalm : Calm n (withPosition (withPosition s.closeSlot (chanA n) f.countA) (chanB n) f.countB) q)
    (hA : JudgedAlike { q.chan (chanA n) with latch := (s.chan (chanA n)).latch } (s.chan (chanA n)))
    (hB : q.chan (chanB n) = (withPosition (withPosition s.closeSlot (chanA n) f.countA) (chanB n) f.countB).chan (chanB n))
    (hn : q.nlc = (withPosition (withPosition s.closeSlot (chanA n) f.countA) (chanB n) f.countB).nlc)
    (hlvs : q.lvs = s.lvs) (hflt : q.flt = flt) : ∃ r, Delivered s n f flt (q.chan (chanA n)) r := by
  have hsw := touches_position s.closeSlot n (nodeOf_chanA n) (.inl rfl) f.countA
  have hww := touches_position (withPosition s.closeSlot (chanA n) f.countA) n (nodeOf_chanB n) (.inr rfl) f.countB
  have hnode : (q.node n).state = ((withPosition s.closeSlot (chanA n) f.countA).node n).state := by
    rw [← hww.state]
    unfold State.node
    rw [hn]
  have halike := h.tested.alike
  obtain ⟨r, hr, hqr, hrA, hrB⟩ := h.slot h.tested (h.does_short (hits_toEnd hh _)) hq (hA.cond.trans halike.cond.symm)
    (hA.known.trans halike.known.symm) hB ((hww.calm.trans hcalm).sst) hnode
  obtain ⟨-, hlvsr, -, -, hfltr, -⟩ := hqr.blocks
  exact ⟨r, does_mono hr (by omega), (calm_closeSlot n s).trans (hsw.calm.trans (hww.calm.trans (hcalm.trans hqr.calm))), hrA,
    hrB.trans (intakeChan_position s.closeSlot _ _ _ _ _), hlvsr.trans hlvs, hfltr.trans hflt⟩

/-- The corner jack's latch sets in CONTACT: a GROUND_LOST of it ends and it holds (R54, R95). -/
theorem does_electric_grounded {w : State} {n : Fin 8} {m : Motion} (hj : (w.chan (chanA n)).isJack = true)
    (hl : (w.chan (chanA n)).latch = false) {pr : Nat} (hp : (w.jackPar (chanA n)).contactThreshold ≤ pr) (hc : chanA n ∈ cornerChans)
    (hst : w.lvs.seq.state = .contact) (hm : (w.chan (chanA n)).motion = some m) (ho : m.origin = .level)
    (hg : w.flt.single .groundLost (.chan (chanA n))) (hjacks : chanA n ∈ jackChans) (hs : Still w) (hpk : Parked w) (i : Nat) :
    ∃ q, Does 10 false [.electric (chanA n) i pr] w q ∧ Calm n w q ∧ q.chan (chanA n) =
      ({ w.chan (chanA n) with current := i, pressure := pr, latch := true } : Channel).endMotion w.frame ∧
      q.chan (chanB n) = w.chan (chanB n) ∧ q.nlc = w.nlc ∧ q.lvs = w.lvs ∧ q.flt = w.flt.ended .groundLost (.chan (chanA n)) := by
  let x : Channel := { w.chan (chanA n) with current := i, pressure := pr, latch := true }
  let s1 := w.setChan (chanA n) x
  have hx : s1.chan (chanA n) = x := by simp [s1]
  have hmoves : (s1.chan (chanA n)).movesFor .level = true := by
    rw [hx]
    simp [x, Channel.movesFor, hm, ho]
  have hlatch : latchActs s1 (chanA n) false true = [.gone .groundLost (.chan (chanA n)), .chanEnd (chanA n) .target, .restCheck false] := by
    have hst1 : s1.lvs.seq.state = .contact := hst
    unfold latchActs
    simp only [hc, hst1, hmoves, Bool.not_false, Bool.and_self, decide_true, if_true]
    rfl
  have hact : act (.electric (chanA n) i pr) w =
      { st := s1, acts := [.gone .groundLost (.chan (chanA n)), .chanEnd (chanA n) .target, .restCheck false] } := by
    have hsup : supportActs s1 (chanA n) = [] := supportActs_phase (by rw [show s1.lvs = w.lvs from rfl, hst]; nofun) _
    show actElectric _ _ _ _ = _
    unfold actElectric
    simp only [hj, if_true, hl, latchAfter_clear, decide_eq_true hp]
    exact congrArg (fun l => ({ st := s1, acts := l } : Out)) (by rw [hlatch, hsup]; rfl)
  obtain ⟨p, -, hgone⟩ := gone_ended .groundLost (.chan (chanA n)) s1 hg
  let s2 : State := { s1 with flt := s1.flt.ended .groundLost (.chan (chanA n)), pli := p }
  let s3 := s2.setChan (chanA n) ((s2.chan (chanA n)).endMotion s2.frame)
  have haside : s2.aside = s1.aside := by
    have := aside_gone .groundLost (.chan (chanA n)) s1
    rwa [hgone] at this
  have hcalm : Calm n w s3 :=
    (calm_setChan w n x).trans (Calm.trans (t := s2) ⟨haside, rfl, rfl, rfl, rfl, rfl, fun _ _ _ => rfl⟩ (calm_setChan s2 n _))
  have h3A : s3.chan (chanA n) = x.endMotion w.frame := by
    rw [State.setChan_chan, if_pos rfl]
    exact congrArg (Channel.endMotion · w.frame) hx
  have h3B : s3.chan (chanB n) = w.chan (chanB n) := by
    rw [State.setChan_chan, if_neg (chanB_ne_chanA n)]
    exact (State.setChan_chan _ _ _ _).trans (if_neg (chanB_ne_chanA n))
  have hstill : Still s3 := hcalm.still hjacks (by rw [h3A]; exact moves_ended (endMotion_motion _ _) _) (by rw [h3B])
    (fun e he hpr => mem_ended he hpr) hs
  have hend : act (.chanEnd (chanA n) .target) s2 = { st := s3, acts := [] } := by
    refine chanEnd_level (m := m) ?_ ho .target
    show (s1.chan (chanA n)).motion = _
    rw [hx]
    exact hm
  have hd := does_act (by simp) hact (does_append (does_done (a := .gone .groundLost (.chan (chanA n))) (by simp) hgone (does_nil _))
    (does_append (does_act (by simp) hend (does_nil _)) (does_evaluate hstill (hcalm.parked hpk) false)))
  exact ⟨s3.evaluated, does_mono hd (by omega), hcalm.trans (calm_evaluated n s3), h3A, h3B, rfl, rfl, rfl⟩

section
variable {s : State} {n : Fin 8} {reply : SlotReply} {f : Status} {since : FrameNo} {m : Motion}
  (h : LevelSlot s n reply f .contact since m) (hh : m.target = .toEnd) (hc : chanA n ∈ cornerChans)
  (hl : (s.chan (chanA n)).latch = false)
include h hh hc hl

/-- A corner jack that has not reached the ground goes on. -/
theorem LevelSlot.contact_short (hp : f.pressureA < (s.jackPar (chanA n)).contactThreshold) :
    LeftBy s n reply f s.flt (f.readA ((withPosition s.closeSlot (chanA n) f.countA).chan (chanA n))) s.lvs := by
  have hseq : ∀ w : State, w.lvs = s.lvs → w.lvs.seq.state = .contact := fun w hw => hw ▸ h.levelling.state
  have hA : PlainReport s (chanA n) f.condA f.pressureA := by
    refine ⟨h.condA, h.homeA, fun _ => ?_⟩
    rw [hl, latchAfter_clear]
    exact decide_eq_false (Nat.not_le.mpr hp)
  obtain ⟨r, k⟩ := h.delivered h.tested (h.does_short (hits_toEnd hh _)) (by omega)
    (touches_position s.closeSlot n (nodeOf_chanA n) (.inl rfl) f.countA) (intakeChan_position s.closeSlot _ _ _ _ _) hA
    fun w hw _ _ => supportActs_phase (by rw [hseq w hw]; nofun) _
  have hmotion : (f.readA ((withPosition s.closeSlot (chanA n) f.countA).chan (chanA n))).motion = some m := h.positioned
  have hrecord := k.keeps_record (by rw [hmotion]; nofun) hc
  have hpr := progress_contact (s := r) (k.lvs ▸ h.levelling.recorded) (hseq r k.lvs) (k.lvs ▸ h.levelling.start)
  have hleft := h.leftBy k (h.not_retracting hmotion) (fun e he _ => he) (noGround_moving (by rw [k.chanA, hmotion]; nofun)) hpr
  rwa [hrecord, Bool.not_true, Bool.and_false] at hleft

/-- A corner jack reaches the ground and holds; with the last of them the sequence settles (R95). -/
theorem LevelSlot.contact_found (hg : s.flt.single .groundLost (.chan (chanA n))) (hp : (s.jackPar (chanA n)).contactThreshold ≤ f.pressureA) :
    ∃ b : Bool, (b = true ↔ ∀ d ∈ cornerChans, d ≠ chanA n → (s.chan d).latch = true ∧ (s.chan d).motion = none) ∧
      LeftBy s n reply f (s.flt.ended .groundLost (.chan (chanA n)))
        (({ f.readA ((withPosition s.closeSlot (chanA n) f.countA).chan (chanA n)) with latch := true } : Channel).endMotion s.frame)
        (if b then s.settlingNow else s.lvs) := by
  have hsw := touches_position s.closeSlot n (nodeOf_chanA n) (.inl rfl) f.countA
  have hww := touches_position (withPosition s.closeSlot (chanA n) f.countA) n (nodeOf_chanB n) (.inr rfl) f.countB
  obtain ⟨-, hlvs, -, -, hflt, -⟩ := (hsw.trans hww).blocks
  have hwA : (withPosition (withPosition s.closeSlot (chanA n) f.countA) (chanB n) f.countB).chan (chanA n) =
      (withPosition s.closeSlot (chanA n) f.countA).chan (chanA n) := by
    rw [withPosition_chan, if_neg (chanA_ne_chanB n)]
  have halike := h.tested.alike
  have hstill := hww.still h.jacks (by rw [hwA]) (withPosition_motion _ _ _ _) h.tested.still
  obtain ⟨q, hq, hcalm, hqA, hqB, hqn, hqlvs, hqflt⟩ := does_electric_grounded (i := f.currentA) (hwA ▸ halike.isJack.trans h.kind)
    (hwA ▸ halike.latch.trans hl) ((hsw.trans hww).calm.jackPar (chanA n) ▸ hp) hc (hlvs ▸ h.levelling.state) (hwA ▸ h.positioned) h.origin
    (hflt ▸ hg) h.jacks hstill (hww.parked h.tested.parked)
  have hqA' : q.chan (chanA n) =
      ({ f.readA ((withPosition s.closeSlot (chanA n) f.countA).chan (chanA n)) with latch := true } : Channel).endMotion s.frame := by
    rw [hqA, hwA, (hsw.trans hww).calm.frame]
    rfl
  have hcore := core_endMotion
    ({ f.readA ((withPosition s.closeSlot (chanA n) f.countA).chan (chanA n)) with latch := true } : Channel) s.frame
  obtain ⟨r, k⟩ := h.delivered_by hh hq hcalm
    (by rw [hqA']; exact ⟨hcore.kind.trans halike.kind, hcore.known.trans halike.known, hcore.cond.trans halike.cond, rfl⟩)
    hqB hqn (hqlvs.trans hlvs) (hqflt.trans (congrArg (Flt.ended · _ _) hflt))
  rw [hqA'] at k
  have hmotion := endMotion_motion
    ({ f.readA ((withPosition s.closeSlot (chanA n) f.countA).chan (chanA n)) with latch := true } : Channel) s.frame
  have hlatch : (r.chan (chanA n)).latch = true := by
    rw [k.chanA, hcore.latch]
  have hseq : r.lvs.seq.state = .contact := k.lvs ▸ h.levelling.state
  have hpr := progress_contact (s := r) (k.lvs ▸ h.levelling.recorded) hseq (k.lvs ▸ h.levelling.start)
  refine ⟨r.cornersLatched && !r.anyRecord cornerChans, ?_,
    h.leftBy k (moves_ended hmotion _) (fun e he hp => mem_ended he hp) (noGround_latched hseq hlatch) hpr⟩
  rw [Bool.and_eq_true, Bool.not_eq_true', k.records hmotion, cornersLatched_iff]
  constructor
  · rintro ⟨hlatched, hmotions⟩ d hd hne
    exact ⟨(k.others_stand hne).2.symm.trans (hlatched d hd), hmotions d hd hne⟩
  · refine fun hall => ⟨fun d hd => ?_, fun d hd hne => (hall d hd hne).2⟩
    by_cases hne : d = chanA n
    · rw [hne, hlatch]
    · exact (k.others_stand hne).2.trans (hall d hd hne).1
end

/-! ## SUPPORT (R105) -/

/-- A support jack's pressure reaches its support level: it holds (R105). -/
theorem does_electric_supported {w : State} {n : Fin 8} {m : Motion} (hj : (w.chan (chanA n)).isJack = true) {i pr : Nat}
    (hl : latchAfter (w.chan (chanA n)).latch (w.jackPar (chanA n)) pr = (w.chan (chanA n)).latch) (hc : chanA n ∈ supportChans)
    (hst : w.lvs.seq.state = .support) (hp : w.supportLevel (chanA n) ≤ pr) (hm : (w.chan (chanA n)).motion = some m)
    (ho : m.origin = .level) : Does 2 false [.electric (chanA n) i pr] w ((withElectric w (chanA n) i pr).setChan (chanA n)
      (({ w.chan (chanA n) with current := i, pressure := pr } : Channel).endMotion w.frame)) := by
  let x : Channel := { w.chan (chanA n) with current := i, pressure := pr }
  have hst1 : w.setChan (chanA n) { w.chan (chanA n) with current := i, pressure := pr, latch := (w.chan (chanA n)).latch } =
      withElectric w (chanA n) i pr := by simp [withElectric, hj]
  have hx : (withElectric w (chanA n) i pr).chan (chanA n) = x := by
    rw [withElectric_chan, if_pos rfl, hj]
    rfl
  have hsup : supportActs (withElectric w (chanA n) i pr) (chanA n) = [.chanEnd (chanA n) .target] := by
    have hlevel : (withElectric w (chanA n) i pr).supportLevel (chanA n) ≤ pr := hp
    have hstate : (withElectric w (chanA n) i pr).lvs.seq.state = .support := hst
    unfold supportActs
    rw [hx]
    have hmoves : x.movesFor .level = true := by simp [x, Channel.movesFor, hm, ho]
    simp only [hc, hstate, hmoves, show x.pressure = pr from rfl, hlevel, decide_true, Bool.and_self, if_true]
  have hact : act (.electric (chanA n) i pr) w = { st := withElectric w (chanA n) i pr, acts := [.chanEnd (chanA n) .target] } := by
    have hlatch (b : Bool) : latchActs (withElectric w (chanA n) i pr) (chanA n) b b = [] := by cases b <;> rfl
    show actElectric _ _ _ _ = _
    unfold actElectric
    simp only [hj, if_true, hl, hst1, hlatch, hsup, List.nil_append]
  have hend : act (.chanEnd (chanA n) .target) (withElectric w (chanA n) i pr) =
      { st := (withElectric w (chanA n) i pr).setChan (chanA n) (x.endMotion w.frame), acts := [] } := by
    have hmx : ((withElectric w (chanA n) i pr).chan (chanA n)).motion = some m := by
      rw [hx]
      exact hm
    rw [chanEnd_level hmx ho, hx]
    rfl
  exact does_act (by simp) hact (does_act (by simp) hend (does_nil _))

section
variable {s : State} {n : Fin 8} {reply : SlotReply} {f : Status} {since : FrameNo} {m : Motion}
  (h : LevelSlot s n reply f .support since m) (hh : m.target = .toEnd) (hc : chanA n ∈ supportChans)
  (hA : PlainReport s (chanA n) f.condA f.pressureA)
include h hh hc hA

/-- A support jack below its level goes on. -/
theorem LevelSlot.support_short (hp : f.pressureA < s.supportLevel (chanA n)) :
    LeftBy s n reply f s.flt (f.readA ((withPosition s.closeSlot (chanA n) f.countA).chan (chanA n))) s.lvs := by
  obtain ⟨r, k⟩ := h.delivered h.tested (h.does_short (hits_toEnd hh _)) (by omega)
    (touches_position s.closeSlot n (nodeOf_chanA n) (.inl rfl) f.countA) (intakeChan_position s.closeSlot _ _ _ _ _) hA
    fun w _ hw hx => by
      have hlevel : ¬w.supportLevel (chanA n) ≤ (w.chan (chanA n)).pressure := by
        unfold State.supportLevel State.jackPar at hp ⊢
        rw [hx, hw]
        exact Nat.not_le.mpr hp
      unfold supportActs
      rw [decide_eq_false hlevel, Bool.and_false]
      rfl
  have hmotion : (f.readA ((withPosition s.closeSlot (chanA n) f.countA).chan (chanA n))).motion = some m := h.positioned
  have hpr := progress_support (s := r) (k.lvs ▸ h.levelling.recorded) (k.lvs ▸ h.levelling.state)
  rw [k.keeps_record (by rw [hmotion]; nofun) hc, if_pos rfl] at hpr
  exact h.leftBy (b := false) k (h.not_retracting hmotion) (fun e he _ => he) (noGround_moving (by rw [k.chanA, hmotion]; nofun)) hpr

/-- What the delivery leaves of a support jack that has come to its level. -/
theorem LevelSlot.delivered_supported (hp : s.supportLevel (chanA n) ≤ f.pressureA) : ∃ r, Delivered s n f s.flt
    ((f.readA ((withPosition s.closeSlot (chanA n) f.countA).chan (chanA n))).endMotion s.frame) r ∧ r.noGround [chanA n] = [] := by
  have hsw := touches_position s.closeSlot n (nodeOf_chanA n) (.inl rfl) f.countA
  have hww := touches_position (withPosition s.closeSlot (chanA n) f.countA) n (nodeOf_chanB n) (.inr rfl) f.countB
  obtain ⟨-, hlvs, -, -, hflt, -⟩ := (hsw.trans hww).blocks
  have hwA : (withPosition (withPosition s.closeSlot (chanA n) f.countA) (chanB n) f.countB).chan (chanA n) =
      (withPosition s.closeSlot (chanA n) f.countA).chan (chanA n) := by
    rw [withPosition_chan, if_neg (chanA_ne_chanB n)]
  have halike := h.tested.alike
  have hjack : ((withPosition (withPosition s.closeSlot (chanA n) f.countA) (chanB n) f.countB).chan (chanA n)).isJack = true :=
    hwA ▸ halike.isJack.trans h.kind
  have hlevel (w : State) (hw : w.sst = s.sst) : w.supportLevel (chanA n) = s.supportLevel (chanA n) := by
    unfold State.supportLevel State.jackPar
    rw [hw]
  have hq := does_electric_supported (i := f.currentA) hjack ((h.tested.reads hA f.countB).latch hjack) hc (hlvs ▸ h.levelling.state)
    (hlevel _ (hsw.trans hww).calm.sst ▸ hp) (hwA ▸ h.positioned) h.origin
  rw [hwA, (hsw.trans hww).calm.frame] at hq
  have hcore := core_endMotion (f.readA ((withPosition s.closeSlot (chanA n) f.countA).chan (chanA n))) s.frame
  have htouch := touches_electric (withPosition (withPosition s.closeSlot (chanA n) f.countA) (chanB n) f.countB) n (.inl rfl) f.currentA
    f.pressureA
  obtain ⟨r, k⟩ := h.delivered_by (flt := s.flt) hh (does_mono hq (by omega)) (htouch.calm.trans (calm_setChan _ n _))
    (by rw [State.setChan_chan, if_pos rfl]
        exact ⟨hcore.kind.trans halike.kind, hcore.known.trans halike.known, hcore.cond.trans halike.cond, rfl⟩)
    (by rw [State.setChan_chan, if_neg (chanB_ne_chanA n), withElectric_chan, if_neg (chanB_ne_chanA n)]) rfl hlvs hflt
  rw [State.setChan_chan, if_pos rfl] at k
  have hpressure : ((f.readA ((withPosition s.closeSlot (chanA n) f.countA).chan (chanA n))).endMotion s.frame).pressure = f.pressureA := by
    rw [← endMotion_readings]
    rfl
  refine ⟨r, k, noGround_supported (k.lvs ▸ h.levelling.state) ?_⟩
  rw [k.chanA, hlevel r k.calm.sst]
  exact hpressure.symm ▸ hp
end

end Sys2Proof.Machine
end

section
/-! SUPPORT. The end of SUPPORT and of its sequence with the last support jack at its level (R105, R107). -/

namespace Sys2Proof.Machine

section
variable {s : State} {n : Fin 8} {reply : SlotReply} {f : Status} {since : FrameNo} {m : Motion}
  (h : LevelSlot s n reply f .support since m) (hh : m.target = .toEnd) (hc : chanA n ∈ supportChans)
  (hA : PlainReport s (chanA n) f.condA f.pressureA) (hp : s.supportLevel (chanA n) ≤ f.pressureA)
include h hh hc hA hp

/-- A support jack at its level holds while the other extends. -/
theorem LevelSlot.support_held (hl : ¬∀ d ∈ supportChans, d ≠ chanA n → (s.chan d).motion = none) : LeftBy s n reply f s.flt
    ((f.readA ((withPosition s.closeSlot (chanA n) f.countA).chan (chanA n))).endMotion s.frame) s.lvs := by
  obtain ⟨r, k, hg⟩ := h.delivered_supported hh hc hA hp
  have hmotion := endMotion_motion (f.readA ((withPosition s.closeSlot (chanA n) f.countA).chan (chanA n))) s.frame
  have hpr := progress_support (s := r) (k.lvs ▸ h.levelling.recorded) (k.lvs ▸ h.levelling.state)
  have hrecord : r.anyRecord supportChans = true := by
    rw [← Bool.not_eq_false, k.records hmotion]
    exact hl
  rw [hrecord, if_pos rfl] at hpr
  exact h.leftBy (b := false) k (moves_ended hmotion _) (fun e he _ => he) hg hpr

/-- With the last support jack at its level the sequence ends with the pending outcome. -/
theorem LevelSlot.support_over (hl : ∀ d ∈ supportChans, d ≠ chanA n → (s.chan d).motion = none) {o : LvOutcome} {p : Int × Int}
    (ho : s.lvs.seq.pending = some o) (hpv : s.lvs.seq.prev = some p) : ∃ r, Delivered s n f s.flt
      ((f.readA ((withPosition s.closeSlot (chanA n) f.countA).chan (chanA n))).endMotion s.frame) r ∧
      exec (.slotIntake n reply) s = .next (finish (r.levelOver o .none p)) := by
  obtain ⟨r, k, hg⟩ := h.delivered_supported hh hc hA hp
  have hmotion := endMotion_motion (f.readA ((withPosition s.closeSlot (chanA n) f.countA).chan (chanA n))) s.frame
  have hstill := h.still_delivered k (moves_ended hmotion _) (fun e he _ => he)
  have hparked := k.calm.parked h.steady.parked
  have hseq : r.lvs.seq.state = .support := k.lvs ▸ h.levelling.state
  have hpr := progress_support (s := r) (k.lvs ▸ h.levelling.recorded) hseq
  rw [(k.records hmotion supportChans).mpr hl, if_neg Bool.false_ne_true, k.lvs, ho, hpv] at hpr
  obtain ⟨hactive, horigin⟩ := h.levelling.jacks
  have hover := does_lvsEnd o .none hstill hparked (by rw [hseq]; nofun) (k.calm.unit _ ▸ horigin) (some p)
  have hstill' := still_levelOver o .none p hstill
  have hparked' := parked_levelOver o .none p hparked
  have hend : Does (4 + 1 + 1 + 2) true (slotEnd s n) r (r.levelOver o .none p).evaluated.evaluated := by
    rw [h.slotEnd_eq]
    exact does_append (does_lvsIntake hg (does_act (by simp) hpr hover))
      (does_evaluate (still_evaluated hstill') (parked_evaluated hparked') false)
  refine ⟨r, k, ?_⟩
  rw [h.exec_ended k.does hend (by omega) (still_evaluated hstill') (parked_evaluated hparked') fun _ => ?_, finish_evaluated]
  refine levelOver_queue (s := r) o .none p ?_ ?_
  · rw [k.calm.unit, hactive]
    nofun
  · unfold State.queueOnly
    rw [k.calm.sgu, h.levelling.queue]
    nofun
end

/-! ## What the end of the sequence leaves -/

theorem levelOver_lvs (s : State) (o : LvOutcome) (cause : Cause) (final : Int × Int) : (s.levelOver o cause final).lvs =
    { seq := .reset, result := { outcome := o, cause := cause, endedIn := some s.lvs.seq.state, passes := s.lvs.seq.passes
                                 pitch := final.1, roll := final.2, clamped := s.lvs.seq.clamped, positions := s.jackPositions } } := rfl

theorem endMotion_resting {x : Channel} (h : x.motion = none) (now : FrameNo) : x.endMotion now = x := by
  unfold Channel.endMotion
  simp only [h]

theorem unwait_idle {x : Channel} (h : x.state ≠ .waiting) : x.unwait = x := if_neg h

section
variable {s r : State} {n : Fin 8} {f : Status} {flt : Flt} {v : Channel} (k : Delivered s n f flt v r) (hj : Machine.chanA n ∈ jackChans)
  (hw : (s.unit .jacks).state ≠ .idle)
include k hj hw

/-- The channels once the sequence has ended, where no other jack moves or waits. -/
theorem Delivered.over_chans (hv : v.motion = none)
    (hr : ∀ d ∈ jackChans, d ≠ Machine.chanA n → (s.chan d).motion = none ∧ (s.chan d).state ≠ .waiting) (o : LvOutcome) (cause : Cause)
    (p : Int × Int) : (r.levelOver o cause p).chan (Machine.chanA n) = v.unwait ∧
      (r.levelOver o cause p).chan (Machine.chanB n) = s.intakeChan (Machine.chanB n) f.countB f.currentB f.pressureB ∧
      ∀ d, d ≠ Machine.chanA n → d ≠ Machine.chanB n → (r.levelOver o cause p).chan d = s.chan d := by
  have hended := endUnit_ended (s := r) (by rw [k.calm.unit]; exact hw) o.reason
  have hstay (d : Fin 16) (hd : d ∈ jackChans) (hne : d ≠ Machine.chanA n) (hstate : (r.chan d).state = (s.chan d).state) :
      (r.levelOver o cause p).chan d = r.chan d := by
    obtain ⟨hm, hwait⟩ := hr d hd hne
    rw [levelOver_chan, hended.chans d hd, endMotion_resting ((k.others_stand hne).1.trans hm), unwait_idle (by rwa [hstate])]
  refine ⟨?_, ?_, fun d hA hB => ?_⟩
  · rw [levelOver_chan, hended.chans _ hj, k.chanA, endMotion_resting hv]
  · rw [hstay _ (chanA_jack hj).2 (chanB_ne_chanA n) (by rw [k.chanB]; rfl), k.chanB]
  · by_cases hd : d ∈ jackChans
    · rw [hstay d hd hA (by rw [k.calm.others d hA hB]), k.calm.others d hA hB]
    · rw [levelOver_chan, hended.otherChans d hd, k.calm.others d hA hB]

/-- The rest of the part once the sequence has ended. -/
theorem Delivered.over_stands (o : LvOutcome) (cause : Cause) (p : Int × Int) :
    (finish (r.levelOver o cause p)).flt = flt ∧ (finish (r.levelOver o cause p)).unit .jacks = .reset ∧
    (finish (r.levelOver o cause p)).sgu.grants = s.sgu.grants.filter (fun e => decide (e.unit ≠ .jacks)) ∧
    (finish (r.levelOver o cause p)).wgd = s.wgd ∧ (finish (r.levelOver o cause p)).ciu.stow = s.ciu.stow ∧
    SlotAside n s (finish (r.levelOver o cause p)) ∧ ∀ u, u ≠ .jacks → (finish (r.levelOver o cause p)).unit u = s.unit u := by
  have hended := endUnit_ended (s := r) (by rw [k.calm.unit]; exact hw) o.reason
  refine ⟨(levelOver_flt r o cause p).trans k.flt, hended.idle, ?_, (levelOver_wgd r o cause p).trans k.calm.wgd, ?_,
    slotAside_finish (chanA_jack hj).1 ((aside_levelOver r o cause p).trans k.calm.aside), fun u hu => (hended.others u hu).trans (k.calm.unit u)⟩
  · rw [finish_sgu]
    exact hended.grants.trans (by rw [k.calm.sgu])
  · rw [finish_ciu, levelOver_ciu, k.calm.ciu]
end

/-- The positions the sequence's result gives. -/
theorem Delivered.positions {s r : State} {n : Fin 8} {f : Status} {flt : Flt} {v : Channel} (k : Delivered s n f flt v r)
    (hk : v.kind = (s.chan (Machine.chanA n)).kind) : r.jackPositions = (jackChans.filter s.populated).map fun d =>
      (d, if d = Machine.chanA n then v.position else if d = Machine.chanB n then
        (s.intakeChan (Machine.chanB n) f.countB f.currentB f.pressureB).position else (s.chan d).position) := by
  have hkind (d : Fin 16) : (r.chan d).kind = (s.chan d).kind ∧ (r.chan d).position = if d = Machine.chanA n then v.position
      else if d = Machine.chanB n then (s.intakeChan (Machine.chanB n) f.countB f.currentB f.pressureB).position
      else (s.chan d).position := by
    by_cases hA : d = Machine.chanA n
    · rw [if_pos hA, hA, k.chanA]
      exact ⟨hk, rfl⟩
    · by_cases hB : d = Machine.chanB n
      · rw [if_neg hA, if_pos hB, hB, k.chanB]
        exact ⟨rfl, rfl⟩
      · rw [if_neg hA, if_neg hB, k.calm.others d hA hB]
        exact ⟨rfl, rfl⟩
  have hpop : r.populated = s.populated := by
    funext d
    unfold State.populated
    rw [(hkind d).1]
  unfold State.jackPositions
  rw [hpop]
  exact List.map_congr_left fun d _ => Prod.ext rfl (hkind d).2

theorem corner_jack {c : Fin 16} : c ∈ cornerChans → c ∈ jackChans := by
  revert c
  decide

theorem support_jack {c : Fin 16} : c ∈ supportChans → c ∈ jackChans := by
  revert c
  decide

theorem not_nodeChans {s : State} {n : Fin 8} {d : Fin 16} (hA : s.populated (chanA n) = true) (hB : s.populated (chanB n) = true)
    (h : d ∉ s.nodeChans n) : d ≠ chanA n ∧ d ≠ chanB n := by
  simp only [State.nodeChans, List.mem_filter, List.mem_cons, List.not_mem_nil, or_false, not_and] at h
  exact ⟨fun e => h (.inl e) (e ▸ hA), fun e => h (.inr e) (e ▸ hB)⟩

end Sys2Proof.Machine
end

section
namespace Sys2Proof

open Machine

/-- Settles O24: the acts of the deadline, of the position tests and of the readings end one record, alone or with the unit's work or
the phase. -/
theorem attendanceReleasesAJack : Obligations.AttendanceReleasesAJack := by
  refine ⟨fun c m f s hs hover hw ho hpe hc hm hmo ha hf hdue hothers => ?attendance, ?stroke, ?level⟩
  case attendance =>
    have hu : unitOfChan c = .jacks := unitOfChan_slots (List.mem_of_mem_filter hc)
    have hactive : (s.unit (unitOfChan c)).state ≠ .idle := by rw [hu, hw]; nofun
    have hexec : exec (.attendanceExpiry .jacks) s = event s { st := s, acts := [.chanEnd c .released] } := by
      show expiry s { st := s, acts := s.expire .jacks } = _
      rw [expiry_over hover, expire_jack ho hpe hc hm ha hf hdue hothers]
    obtain ⟨hother, hlast⟩ := does_chanEnd hs.still hs.parked hm hmo hactive (hu ▸ ho) .released
    rw [hu] at hother hlast
    refine ⟨fun h => ?_, fun h hq => ?_⟩
    · rw [hexec]
      exact event_does hs.running (hother h) (by omega) (still_endMotion hs.still c) (parked_setChan hs.parked c _) nofun
    · rw [hexec]
      refine event_ends hs.running (hlast ?_) (by omega) (endUnit_still (still_endMotion hs.still c) _ _)
        (endUnit_parked (parked_setChan hs.parked c _) _ _) fun _ => endUnit_queue (s := s.setChan c _) (hu ▸ hactive) hq _
      rintro ⟨d, hd, hne, hmd⟩
      exact hmd (h d hd hne)
  case stroke =>
    intro n reply f m s hs hl hready hf hcA hcB hpA hpB hw ho hpe hk hm hmo hd hknown hmB hc x hit ends others hcond
    have hjack : (s.chan (chanA n)).isJack = true := by
      unfold Channel.isJack
      rw [hk]
      rfl
    have h : JackSlot s n reply f :=
      ⟨hs, hready, hf, List.mem_of_mem_filter hcA, List.of_mem_filter hcA, List.of_mem_filter hcB, hjack, hpA.cond, hpA.home, hpB, hmB⟩
    have hactive : (s.unit .jacks).state ≠ .idle := by rw [hw]; nofun
    have hx : x = f.readA ((withPosition s.closeSlot (chanA n) f.countA).chan (chanA n)) := h.intakeA
    have hhit : hit = m.hits ((withPosition s.closeSlot (chanA n) f.countA).chan (chanA n)).position := by
      rw [show ((withPosition s.closeSlot (chanA n) f.countA).chan (chanA n)).position = x.position from hx ▸ rfl]
      exact m.hits_eq x.position
    have hends : ends ↔ m.hits ((withPosition s.closeSlot (chanA n) f.countA).chan (chanA n)).position = true ∨
        ((s.jackPar (chanA n)).stroke : Int) ≤ ((withPosition s.closeSlot (chanA n) f.countA).chan (chanA n)).position := by
      rw [← hhit, show ((withPosition s.closeSlot (chanA n) f.countA).chan (chanA n)).position = x.position from hx ▸ rfl]
    have hn := (chanA_jack h.jacks).1
    by_cases he : ends
    · have hxe : f.readA (((withPosition s.closeSlot (chanA n) f.countA).chan (chanA n)).endMotion
          (withPosition s.closeSlot (chanA n) f.countA).frame) = x.endMotion s.frame := by
        rw [hx, (touches_position s.closeSlot n (nodeOf_chanA n) (.inl rfl) f.countA).blocks.2.2.2.2.2.2.2.1]
        exact endMotion_readings _ _ _ _
      obtain ⟨hother, hlast⟩ := h.exec_tested hpA hl hm hmo hc hactive ho (h.tested_end hm hd hknown (hends.mp he))
      rw [← hhit] at hlast
      by_cases hothers : others
      · obtain ⟨r, hr, hrt, hrA⟩ := hother hothers
        obtain ⟨hunit, hrest⟩ := stands_of_touches hn ((touches_strokeEnded _ _ _).trans hrt)
        obtain ⟨hflt, haside, hwgd, hstow⟩ := hrest
        exact ⟨finish r, hr, fun k => absurd he k, fun _ => hrA.trans hxe, fun _ _ => hunit _, fun _ k => absurd hothers k, hflt, haside,
          hwgd, hstow, fun v _ => hunit v⟩
      · obtain ⟨r, hr, hrt, hrA⟩ := hlast hothers ((hcond.resolve_left (not_not.mpr he)).resolve_left hothers)
        obtain ⟨hunit, hgrants, hpli, hrest⟩ := stands_of_ended hn (touches_strokeEnded _ _ _) hactive hrt
        exact ⟨finish r, hr, fun k => absurd he k, fun _ => hrA.trans hxe, fun _ k => absurd k hothers, fun _ _ => ⟨hunit, hgrants, hpli⟩, hrest⟩
    · obtain ⟨hh, hstroke⟩ := not_or.mp (hends.not.mp he)
      obtain ⟨r, hr, hrt, hrA⟩ := h.exec_short hpA hl hm hmo hc (by simpa using hh) (not_le.mp hstroke)
      obtain ⟨hunit, hflt, haside, hwgd, hstow⟩ := stands_of_touches hn hrt
      exact ⟨finish r, hr, fun _ => ⟨hrA.trans hx.symm, hunit _⟩, fun k => absurd k he, fun k => absurd k he, fun k => absurd k he, hflt,
        haside, hwgd, hstow, fun v _ => hunit v⟩
  case level =>
    intro st since n reply f m s hL hready hf hpopB c hpopA hk hcond hhome hpB hmB hm hdir hmo hlc x y jack hshort q rest holds becomes
      settling last
    have hslot (hj : c ∈ jackChans) : LevelSlot s n reply f st since m ∧
        f.readA ((withPosition s.closeSlot c f.countA).chan c) = x := by
      have h : JackSlot s n reply f :=
        ⟨hL.steady, hready, hf, hj, hpopA, hpopB, decide_eq_true hk, hcond, hhome, hpB, hmB⟩
      have hx : x = f.readA ((withPosition s.closeSlot c f.countA).chan c) := h.intakeA
      exact ⟨⟨h, hL, hm, hdir, hmo, hlc, show (f.readA ((withPosition s.closeSlot c f.countA).chan c)).position < _ from hx ▸ hshort⟩, hx.symm⟩
    have hleft {flt : Flt} {z : Channel} {lvs : Lvs} (hj : c ∈ jackChans) (k : LeftBy s n reply f flt z lvs) : holds flt z lvs := by
      obtain ⟨r, hr, hcalm, hA, hB, hlvs, hflt⟩ := k
      obtain ⟨hunit, hgrants, hwgd, hstow, haside, hchans, hunits⟩ := hcalm.stands (chanA_jack hj).1
      refine ⟨finish r, hr, hA, hlvs, hflt, hunit, hgrants, hwgd, hstow, haside, hB, fun d hd => ?_, hunits⟩
      obtain ⟨hdA, hdB⟩ := not_nodeChans hpopA hpopB hd
      exact hchans d hdA hdB
    refine ⟨fun hst hc ht hlatch hg => ?contact, fun k hst hc ht hA hknown => ?lifting, fun hst hc ht hA => ?support⟩
    case contact =>
      subst hst
      obtain ⟨h, hx⟩ := hslot (corner_jack hc)
      refine ⟨fun hp => hleft (corner_jack hc) (hx ▸ h.contact_short ht hc hlatch hp), fun hp hn => ?_, fun hp hn => ?_⟩
      all_goals
        obtain ⟨b, hb, hfound⟩ := h.contact_found ht hc hlatch hg hp
        rw [hx] at hfound
      · rw [Bool.eq_false_iff.mpr (hb.not.mpr hn)] at hfound
        exact hleft (corner_jack hc) hfound
      · rw [hb.mpr hn] at hfound
        exact hleft (corner_jack hc) hfound
    case lifting =>
      subst hst
      have hj := corner_jack hc
      obtain ⟨h, hx⟩ := hslot hj
      have hat : m.hits ((withPosition s.closeSlot c f.countA).chan c).position = decide (k ≤ x.position) := by
        rw [← hx]
        unfold Motion.hits
        rw [ht]
        rfl
      refine ⟨fun hp => ?_, fun hp hn => ?_, fun hp hn => ?_⟩
      · have hshortLift := h.lifts_short hA hc (hat.trans (decide_eq_false (not_le.mpr hp)))
        rw [hx] at hshortLift
        exact hleft hj hshortLift
      all_goals
        obtain ⟨b, hb, hheld⟩ := h.lifts_held hA (show (f.readA ((withPosition s.closeSlot c f.countA).chan c)).known = true from hx ▸ hknown)
          (hat.trans (decide_eq_true hp))
        rw [hx] at hheld
      · rw [Bool.eq_false_iff.mpr (hb.not.mpr hn)] at hheld
        exact hleft hj hheld
      · rw [hb.mpr hn] at hheld
        exact hleft hj hheld
    case support =>
      subst hst
      have hj := support_jack hc
      obtain ⟨h, hx⟩ := hslot hj
      refine ⟨fun hp => ?_, fun hp hn => ?_, fun o p hp hl ho hpv hrest => ?_⟩
      · exact hleft hj (hx ▸ h.support_short ht hc hA (Nat.not_le.mp hp))
      · have hheld := h.support_held ht hc hA hp hn
        rw [hx] at hheld
        exact hleft hj hheld
      · obtain ⟨r, k, hr⟩ := h.support_over ht hc hA hp hl ho hpv
        rw [hx] at k
        have hactive : (s.unit .jacks).state ≠ .idle := by rw [hL.jacks.1]; nofun
        have hcore := core_endMotion x s.frame
        have hpositions := k.positions (hcore.kind.trans (hx ▸ h.tested.alike.kind))
        rw [hcore.position] at hpositions
        obtain ⟨hchanA, hchanB, hchans⟩ := k.over_chans hj hactive (endMotion_motion x s.frame) hrest o .none p
        obtain ⟨hflt, hunit, hgrants, hwgd, hstow, haside, hunits⟩ := k.over_stands hj hactive o .none p
        refine ⟨finish (r.levelOver o .none p), hr, hchanA, hflt, hunit, hgrants, ?_, hwgd, hstow, haside, hchanB, fun d hd => ?_, hunits⟩
        · rw [finish_lvs, levelOver_lvs, hpositions, k.lvs, hL.state]
        · obtain ⟨hdA, hdB⟩ := not_nodeChans hpopA hpopB hd
          exact hchans d hdA hdB

end Sys2Proof
end

section
/-! SUPPORT. What each step keeps: the fault list's law, the bounds of queues and counts, and the law of grants (R30, R34, R58, R63,
R66, R67, R70, R158 to R161, R171, R176). First the rules of the fault list and of the grant books. -/

namespace Sys2Proof.Machine

/-! ## The fault list (R158 to R161) -/

theorem sat_le (limit n : Nat) : sat limit n ≤ limit := by unfold sat; split <;> omega

theorem sat_pos {limit : Nat} (h : 1 ≤ limit) (n : Nat) : 1 ≤ sat limit n := by unfold sat; split <;> omega

theorem faultLaw_reset : FaultLaw .reset := by
  constructor <;> simp [Flt.reset]

/-- The law does not speak of the lost mark. -/
theorem faultLaw_entries {f g : Flt} (h : FaultLaw f) (he : g.entries = f.entries) : FaultLaw g := by
  obtain ⟨hsize, hdistinct, hseverity, hcount, hevents⟩ := h
  rw [← he] at *
  exact ⟨hsize, hdistinct, hseverity, hcount, hevents⟩

/-- A list with entries left out. -/
theorem faultLaw_sublist {f : Flt} (h : FaultLaw f) {l : List FaultEntry} (hl : l.Sublist f.entries) (lost : Bool) :
    FaultLaw { entries := l, lost := lost } :=
  ⟨hl.length_le.trans h.size, h.distinct.sublist hl, fun e he => h.severity e (hl.subset he),
    fun e he => h.count e (hl.subset he), fun e he => h.events e (hl.subset he)⟩

/-- An entry rewritten in place, with its kind and subject. -/
theorem faultLaw_set {f : Flt} (h : FaultLaw f) {i : Nat} {e x : FaultEntry} (hi : f.entries[i]? = some e) (hk : x.kind = e.kind)
    (hsj : x.subject = e.subject) (hsev : x.severity = e.severity) (hcount : 1 ≤ x.count ∧ x.count ≤ 255)
    (hev : x.kind.isEvent = true → x.present = false) (lost : Bool) :
    FaultLaw { entries := f.entries.set i x, lost := lost } := by
  have hmem : e ∈ f.entries := List.mem_of_getElem? hi
  have hset : ∀ P : FaultEntry → Prop, (∀ y ∈ f.entries, P y) → P x → ∀ y ∈ f.entries.set i x, P y := fun P hP hx y hy =>
    (List.mem_or_eq_of_mem_set hy).elim (hP y) fun heq => heq ▸ hx
  have hkeys : (f.entries.set i x).map (fun y => (y.kind, y.subject)) = f.entries.map fun y => (y.kind, y.subject) := by
    obtain ⟨hlt, rfl⟩ := List.getElem?_eq_some_iff.mp hi
    rw [List.map_set, hk, hsj]
    exact List.ext_getElem (by simp) fun j hj hj' => by
      rw [List.getElem_set]
      split
      · next heq => subst heq; simp
      · rfl
  have hdistinct : (f.entries.map fun y => (y.kind, y.subject)).Nodup :=
    List.pairwise_map.mpr (h.distinct.imp fun hne heq => hne (Prod.mk.inj heq))
  refine ⟨?_, ?_, hset _ h.severity (hsev.trans ((h.severity e hmem).trans (by rw [hk]))), hset _ h.count hcount,
    hset _ h.events hev⟩
  · simpa using h.size
  · rw [← hkeys] at hdistinct
    exact (List.pairwise_map.mp hdistinct).imp fun hne heq => hne (Prod.ext heq.1 heq.2)

/-- The list with room for one more entry holds some of its entries, at most 31 (R161). -/
theorem makeRoom_some {l k : List FaultEntry} (hl : l.length ≤ 32) (h : makeRoom l = some k) : k.Sublist l ∧ k.length ≤ 31 := by
  have herase : ∀ {p : FaultEntry → Bool} {i : Nat}, l.findIdx? p = some i → (l.eraseIdx i).length ≤ 31 := fun hp => by
    have hlt := (List.findIdx?_eq_some_iff_getElem.mp hp).1
    rw [List.length_eraseIdx_of_lt hlt]
    omega
  unfold makeRoom at h
  split at h
  · cases h
    exact ⟨.refl _, by omega⟩
  · split at h
    · next hi => cases h; exact ⟨List.eraseIdx_sublist l _, herase hi⟩
    · split at h
      · next hi => cases h; exact ⟨List.eraseIdx_sublist l _, herase hi⟩
      · cases h

/-- A kind and subject that the list does not hold. -/
theorem findFault_none {l : List FaultEntry} {k : FaultKind} {sj : Subject} (h : findFault l k sj = none) :
    ∀ e ∈ l, ¬(e.kind = k ∧ e.subject = sj) := fun e he => by
  have := List.findIdx?_eq_none_iff.mp h e he
  simpa using this

theorem faultLaw_raise {f : Flt} (h : FaultLaw f) (k : FaultKind) (sj : Subject) (now : FrameNo) : FaultLaw (f.raise k sj now).1 := by
  unfold Flt.raise
  split
  · next i hi =>
    split
    · next e he =>
      refine faultLaw_set (x := { e with count := sat 255 e.count, last := now, present := !k.isEvent }) h he rfl rfl rfl ?_
        (fun hev => ?_) f.lost
      · exact ⟨sat_pos (by decide) _, sat_le _ _⟩
      have hkind := (findFault_some hi he).2.1
      simp only [← hkind, hev, Bool.not_true]
    · exact h
  · next hnew =>
    split
    · next l hl =>
      obtain ⟨hsub, hlen⟩ := makeRoom_some h.size hl
      have hlaw := faultLaw_sublist h hsub f.lost
      have hboth : ∀ P : FaultEntry → Prop, (∀ e ∈ l, P e) → ∀ x, P x → ∀ e ∈ l ++ [x], P e := fun P hP x hx e he =>
        (List.mem_append.mp he).elim (hP e) fun he => List.mem_singleton.mp he ▸ hx
      refine ⟨by simp; omega, ?_, hboth _ hlaw.severity _ rfl, hboth _ hlaw.count _ ⟨le_refl _, by simp⟩,
        hboth _ hlaw.events _ fun hev => by simpa using hev⟩
      refine List.pairwise_append.mpr ⟨hlaw.distinct, List.pairwise_singleton _ _, fun a ha b hb => ?_⟩
      rw [List.mem_singleton.mp hb]
      exact findFault_none hnew a (hsub.subset ha)
    · exact faultLaw_entries h rfl

/-! ## The grant books (R63, R66, R67) -/

/-- The units that wait or hold a grant. -/
def State.booked (s : State) : List UnitId := s.sgu.queue.map QEntry.unit ++ s.sgu.grants.map GEntry.unit

/-- A working unit has one entry, WAITING in the queue or ACTIVE in the grant set: the law of grants without the budget and
CUTOFF. -/
structure Booked (s : State) : Prop where
  once : s.booked.Nodup
  waiting : ∀ e ∈ s.sgu.queue, (s.unit e.unit).state = .waiting
  active : ∀ g ∈ s.sgu.grants, (s.unit g.unit).state = .active
  listed : ∀ u, (s.unit u).state ≠ .idle → u ∈ s.booked

theorem booked_of_law {s : State} (h : GrantLaw s) : Booked s := ⟨h.once, h.waiting, h.active, h.listed⟩

theorem Booked.law {s : State} (h : Booked s) (held : heldSum s.sgu.grants ≤ s.sgu.budget)
    (cutoff : s.sgu.supply = .cutoff → s.sgu.queue = [] ∧ s.sgu.grants = []) : GrantLaw s :=
  ⟨h.once, h.waiting, h.active, h.listed, held, cutoff⟩
/-- The books depend on the units' states and on the units and claims of the entries alone. -/
theorem booked_congr {s t : State} (hu : ∀ u, (t.unit u).state = (s.unit u).state)
    (hq : t.sgu.queue.map QEntry.unit = s.sgu.queue.map QEntry.unit) (hg : t.sgu.grants.map GEntry.unit = s.sgu.grants.map GEntry.unit)
    (h : Booked s) : Booked t := by
  have hbooked : t.booked = s.booked := by rw [State.booked, hq, hg, State.booked]
  refine ⟨hbooked ▸ h.once, fun e he => ?_, fun g hgt => ?_, fun u hw => hbooked ▸ h.listed u (hu u ▸ hw)⟩
  · obtain ⟨e', he', heq⟩ := List.mem_map.mp (hq ▸ List.mem_map_of_mem (f := QEntry.unit) he)
    rw [hu, ← heq]
    exact h.waiting e' he'
  · obtain ⟨g', hg', heq⟩ := List.mem_map.mp (hg ▸ List.mem_map_of_mem (f := GEntry.unit) hgt)
    rw [hu, ← heq]
    exact h.active g' hg'

theorem grantLaw_congr {s t : State} (hu : ∀ u, (t.unit u).state = (s.unit u).state)
    (hq : t.sgu.queue.map QEntry.unit = s.sgu.queue.map QEntry.unit) (hg : t.sgu.grants.map GEntry.unit = s.sgu.grants.map GEntry.unit)
    (hc : t.sgu.grants.map GEntry.claim = s.sgu.grants.map GEntry.claim) (hb : t.sgu.budget = s.sgu.budget)
    (hs : t.sgu.supply = s.sgu.supply) (h : GrantLaw s) : GrantLaw t := by
  refine (booked_congr hu hq hg (booked_of_law h)).law ?_ fun hcut => ?_
  · show (t.sgu.grants.map GEntry.claim).sum ≤ _
    rw [hc, hb]
    exact h.held
  · obtain ⟨hqueue, hgrants⟩ := h.cutoff (hs ▸ hcut)
    rw [hqueue] at hq
    rw [hgrants] at hg
    exact ⟨List.map_eq_nil_iff.mp hq, List.map_eq_nil_iff.mp hg⟩

/-! ## Ends of work (R20, R71) -/

/-- From s to t work has ended and none has begun: entries have left the books, and the units that left are idle. -/
structure Released (s t : State) : Prop where
  booked : Booked s → Booked t
  queue : t.sgu.queue.Sublist s.sgu.queue
  grants : t.sgu.grants.Sublist s.sgu.grants
  budget : t.sgu.budget = s.sgu.budget
  supply : t.sgu.supply = s.sgu.supply
  idle : ∀ u, (s.unit u).state = .idle → (t.unit u).state = .idle

theorem Released.refl (s : State) : Released s s := ⟨id, .refl _, .refl _, rfl, rfl, fun _ => id⟩

theorem Released.trans {s t u : State} (h : Released s t) (k : Released t u) : Released s u :=
  ⟨k.booked ∘ h.booked, k.queue.trans h.queue, k.grants.trans h.grants, k.budget.trans h.budget, k.supply.trans h.supply,
    fun v hv => k.idle v (h.idle v hv)⟩

theorem released_endUnit (s : State) (u : UnitId) (why : Reason) : Released s (s.endUnit u why) := by
  by_cases hw : (s.unit u).state = .idle
  · rw [endUnit_idle hw]
    exact .refl s
  · have hend := endUnit_ended hw why
    refine ⟨fun h => ?_, hend.queue ▸ List.filter_sublist, hend.grants ▸ List.filter_sublist, endUnit_budget s u why,
      endUnit_supply s u why, fun v hv => endUnit_keeps_idle hv u why⟩
    have hqueue : (s.endUnit u why).sgu.queue.map QEntry.unit = (s.sgu.queue.map QEntry.unit).filter fun v => decide (v ≠ u) := by
      rw [hend.queue, List.filter_map]
      rfl
    have hgrants : (s.endUnit u why).sgu.grants.map GEntry.unit = (s.sgu.grants.map GEntry.unit).filter fun v => decide (v ≠ u) := by
      rw [hend.grants, List.filter_map]
      rfl
    have hbooked : (s.endUnit u why).booked = s.booked.filter fun v => decide (v ≠ u) := by
      rw [State.booked, hqueue, hgrants, ← List.filter_append, State.booked]
    refine ⟨hbooked ▸ h.once.filter _, fun e he => ?_, fun g hg => ?_, fun v hv => ?_⟩
    · rw [hend.queue, List.mem_filter, decide_eq_true_eq] at he
      rw [hend.others _ he.2]
      exact h.waiting e he.1
    · rw [hend.grants, List.mem_filter, decide_eq_true_eq] at hg
      rw [hend.others _ hg.2]
      exact h.active g hg.1
    · have hne : v ≠ u := fun heq => hv (by rw [heq, hend.idle]; rfl)
      rw [hend.others v hne] at hv
      rw [hbooked, List.mem_filter]
      exact ⟨h.listed v hv, decide_eq_true hne⟩

theorem released_ends : ∀ (l : List Ending) (s : State), Released s (l.foldl (fun t e => t.endUnit e.unit e.why) s)
  | [], s => .refl s
  | e :: l, s => (released_endUnit s e.unit e.why).trans (released_ends l _)

theorem released_endUnits (l : List Ending) (s : State) : Released s (actEndUnits l s).st := released_ends _ s

/-- Each unit of a list of ends is idle after them. -/
theorem ends_idle : ∀ (l : List Ending) (s : State), ∀ e ∈ l, ((l.foldl (fun t e => t.endUnit e.unit e.why) s).unit e.unit).state = .idle
  | [], _, _, h => by cases h
  | a :: l, s, e, h => by
    rcases List.mem_cons.mp h with rfl | h
    · refine (released_ends l _).idle _ ?_
      show ((s.endUnit e.unit e.why).unit e.unit).state = .idle
      by_cases hw : (s.unit e.unit).state = .idle
      · rwa [endUnit_idle hw]
      · rw [(endUnit_ended hw e.why).idle]
        rfl
    · exact ends_idle l _ e h

theorem endUnits_idles {l : List Ending} {s : State} {e : Ending} (he : e ∈ l) : ((actEndUnits l s).st.unit e.unit).state = .idle := by
  by_cases hw : (s.unit e.unit).state = .idle
  · exact (released_endUnits l s).idle _ hw
  · exact ends_idle _ s e (List.mem_filter.mpr ⟨he, decide_eq_true hw⟩)

/-- No unit of a list of ends stands in the books after them. -/
theorem endUnits_leave {l : List Ending} {s : State} (h : Booked s) :
    (∀ q ∈ (actEndUnits l s).st.sgu.queue, ∀ e ∈ l, e.unit ≠ q.unit) ∧
      ∀ g ∈ (actEndUnits l s).st.sgu.grants, ∀ e ∈ l, e.unit ≠ g.unit := by
  have hafter := (released_endUnits l s).booked h
  refine ⟨fun q hq e he heq => ?_, fun g hg e he heq => ?_⟩
  · have hidle := endUnits_idles (s := s) he
    rw [heq, hafter.waiting q hq] at hidle
    cases hidle
  · have hidle := endUnits_idles (s := s) he
    rw [heq, hafter.active g hg] at hidle
    cases hidle

theorem heldSum_sublist {l k : List GEntry} (h : l.Sublist k) : heldSum l ≤ heldSum k :=
  List.Sublist.sum_le_sum (h.map _) fun _ _ => Nat.zero_le _

theorem Released.law {s t : State} (k : Released s t) (h : GrantLaw s) : GrantLaw t := by
  refine (k.booked (booked_of_law h)).law ?_ fun hcut => ?_
  · rw [k.budget]
    exact (heldSum_sublist k.grants).trans h.held
  · obtain ⟨hqueue, hgrants⟩ := h.cutoff (k.supply ▸ hcut)
    exact ⟨List.sublist_nil.mp (hqueue ▸ k.queue), List.sublist_nil.mp (hgrants ▸ k.grants)⟩

/-! ## Requests placed and granted (R66, R67) -/

/-- The unit stands in no entry and something may be placed (R63, TABLE 4-5). -/
structure State.Free (s : State) (u : UnitId) : Prop where
  unbooked : u ∉ s.booked
  supply : s.sgu.supply ≠ .cutoff

theorem free_of_admits {s : State} {u : UnitId} {cls : GrantClass} (hu : u ∉ s.booked) (ha : admits s.sgu.supply cls = true) :
    s.Free u := ⟨hu, fun hcut => by rw [hcut] at ha; cases ha⟩

theorem free_of_sgu {s : State} {u : UnitId} {cls : GrantClass} (h : s.sguRefuses u cls = none) : s.Free u := by
  unfold State.sguRefuses at h
  split at h
  · cases h
  · next hb =>
    split at h
    · cases h
    · next ha =>
      refine free_of_admits (fun hm => hb ?_) (by simpa using ha)
      unfold Sgu.holds
      simpa [State.booked] using hm

theorem free_of_idle {s : State} {u : UnitId} {cls : GrantClass} (h : Booked s) (hw : (s.unit u).state = .idle)
    (ha : admits s.sgu.supply cls = true) : s.Free u := by
  refine free_of_admits (fun hm => ?_) ha
  rcases List.mem_append.mp hm with hm | hm
  · obtain ⟨e, he, rfl⟩ := List.mem_map.mp hm
    exact nomatch (h.waiting e he).symm.trans hw
  · obtain ⟨g, hg, rfl⟩ := List.mem_map.mp hm
    exact nomatch (h.active g hg).symm.trans hw

theorem enqueue_perm (l : List QEntry) (e : QEntry) : (enqueue l e).Perm (e :: l) := by
  unfold enqueue
  refine List.perm_middle.trans ?_
  rw [List.takeWhile_append_dropWhile]

/-- Channel records given to a list of pending entries leave the rest. -/
theorem foldl_pend_chans (f : Channel → Channel) (l : List Pending) (s : State) :
    ∃ v : Vector Channel 16, l.foldl (fun t p => t.modChan p.chan f) s = s.withChans v := by
  obtain ⟨v, hv, -⟩ := foldl_modChan f (l.map Pending.chan) s
  exact ⟨v, by rw [← List.foldl_map (f := Pending.chan) (g := fun t c => State.modChan t c f)]; exact hv⟩

theorem place_books (s : State) (u : UnitId) (o : Origin) (l : List Pending) :
    (∀ v, ((s.place u o l).unit v).state = if v = u then .waiting else (s.unit v).state) ∧
      (s.place u o l).sgu = { s.sgu with
        queue := enqueue s.sgu.queue { unit := u, cls := o, claim := s.claimOf u, arrival := s.frame } } := by
  unfold State.place
  obtain ⟨v, hv⟩ := foldl_pend_chans (fun x => if x.state = .idle then { x with state := .waiting } else x) l
    (s.setUnit u (.placed o (s.claimOf u) l))
  simp only []
  rw [show ({ state := .waiting, origin := some o, cls := some o, claim := some (s.claimOf u), pending := l } : UnitRec)
    = .placed o (s.claimOf u) l from rfl, hv]
  refine ⟨fun w => ?_, rfl⟩
  show ((s.setUnit u (.placed o (s.claimOf u) l)).unit w).state = _
  rw [State.setUnit_unit]
  split <;> rfl

theorem place_law {s : State} {u : UnitId} (hf : s.Free u) (o : Origin) (l : List Pending) (h : GrantLaw s) :
    GrantLaw (s.place u o l) := by
  obtain ⟨hstate, hsgu⟩ := place_books s u o l
  let e : QEntry := { unit := u, cls := o, claim := s.claimOf u, arrival := s.frame }
  have hperm : (s.place u o l).booked.Perm (u :: s.booked) := by
    unfold State.booked
    rw [hsgu]
    exact ((enqueue_perm s.sgu.queue e).map QEntry.unit).append_right _
  have hother {v : UnitId} (hv : v ∈ s.booked) : v ≠ u := fun heq => hf.unbooked (heq ▸ hv)
  refine Booked.law ⟨?_, fun q hq => ?_, fun g hg => ?_, fun v hv => ?_⟩ ?_ fun hcut => ?_
  · exact hperm.nodup_iff.mpr (List.nodup_cons.mpr ⟨hf.unbooked, h.once⟩)
  · rw [hsgu] at hq
    rw [hstate]
    split
    · rfl
    · next hne =>
      rcases List.mem_cons.mp ((enqueue_perm s.sgu.queue e).mem_iff.mp hq) with rfl | hq
      · exact absurd rfl hne
      · exact h.waiting q hq
  · rw [hsgu] at hg
    rw [hstate, if_neg (hother (List.mem_append_right _ (List.mem_map_of_mem hg)))]
    exact h.active g hg
  · rw [hperm.mem_iff, List.mem_cons]
    rw [hstate] at hv
    by_cases heq : v = u
    · exact .inl heq
    · exact .inr (h.listed v (by rwa [if_neg heq] at hv))
  · rw [hsgu]
    exact h.held
  · rw [hsgu] at hcut
    exact absurd hcut hf.supply

theorem grantHead_law {s : State} {e : QEntry} {rest : List QEntry} (hq : s.sgu.queue = e :: rest)
    (ha : admits s.sgu.supply e.cls = true) (hb : heldSum s.sgu.grants + e.claim ≤ s.sgu.budget) (h : GrantLaw s) :
    GrantLaw (s.grantHead e rest) := by
  have hstate (v : UnitId) : ((s.grantHead e rest).unit v).state = if v = e.unit then .active else (s.unit v).state := by
    rw [grantHead_unit]
    split <;> rfl
  have hgrants : (s.grantHead e rest).sgu.grants = s.sgu.grants ++ [⟨e.unit, e.cls, e.claim, s.sgu.nextOrder + 1⟩] := rfl
  have hperm : (s.grantHead e rest).booked.Perm s.booked := by
    unfold State.booked
    rw [hgrants, hq, List.map_append, ← List.append_assoc]
    exact List.perm_append_singleton _ _
  have honce : (e.unit :: (rest.map QEntry.unit ++ s.sgu.grants.map GEntry.unit)).Nodup := by
    have := h.once
    rwa [hq] at this
  have hother {v : UnitId} (hv : v ∈ rest.map QEntry.unit ++ s.sgu.grants.map GEntry.unit) : v ≠ e.unit := fun heq =>
    (List.nodup_cons.mp honce).1 (heq ▸ hv)
  refine Booked.law ⟨hperm.nodup_iff.mpr h.once, fun q hr => ?_, fun g hg => ?_, fun v hv => ?_⟩ ?_ fun hcut => ?_
  · rw [hstate, if_neg (hother (List.mem_append_left _ (List.mem_map_of_mem hr)))]
    exact h.waiting q (hq ▸ .tail _ hr)
  · rw [hstate]
    split
    · rfl
    · next hne =>
      rw [hgrants, List.mem_append, List.mem_singleton] at hg
      rcases hg with hg | rfl
      · exact h.active g hg
      · exact absurd rfl hne
  · rw [hperm.mem_iff]
    by_cases heq : v = e.unit
    · rw [heq, State.booked, hq]
      exact .head _
    · exact h.listed v (by rwa [hstate, if_neg heq] at hv)
  · show heldSum (s.sgu.grants ++ [_]) ≤ s.sgu.budget
    simpa [heldSum] using hb
  · have hcut : s.sgu.supply = .cutoff := hcut
    rw [hcut] at ha
    cases ha

/-! ## The budget and CUTOFF (R63, R65, R70) -/

theorem insertYoung_perm (e : GEntry) : ∀ l : List GEntry, (insertYoung e l).Perm (e :: l)
  | [] => .refl _
  | g :: l => by
    unfold insertYoung
    split
    · exact .refl _
    · exact ((insertYoung_perm e l).cons g).trans (.swap _ _ _)

theorem youngest_perm (l : List GEntry) (cls : GrantClass) : (youngest l cls).Perm (l.filter fun e => decide (e.cls = cls)) := by
  unfold youngest
  induction l.filter fun e => decide (e.cls = cls) with
  | nil => exact .refl _
  | cons e l ih => exact (insertYoung_perm e _).trans (ih.cons e)

/-- The order of R70 runs through every grant. -/
theorem youngests_perm (l : List GEntry) :
    (youngest l .user ++ youngest l .level ++ youngest l .stow ++ youngest l .wind).Perm l := by
  have hsplit : (l.filter (fun e => decide (e.cls = .user)) ++ l.filter (fun e => decide (e.cls = .level)) ++
      l.filter (fun e => decide (e.cls = .stow)) ++ l.filter (fun e => decide (e.cls = .wind))).Perm l := by
    induction l with
    | nil => exact .refl _
    | cons e l ih =>
      cases hc : e.cls <;> simp only [List.filter_cons, hc, decide_true, if_true, reduceCtorEq, decide_false, Bool.false_eq_true,
        if_false]
      · exact ih.cons e
      · exact ((List.perm_middle.append_right _).append_right _).trans (ih.cons e)
      · exact (List.perm_middle.append_right _).trans (ih.cons e)
      · exact List.perm_middle.trans (ih.cons e)
  exact ((((youngest_perm l _).append (youngest_perm l _)).append (youngest_perm l _)).append (youngest_perm l _)).trans hsplit

/-- What is left behind the entries taken fits the limit. -/
theorem takeUntil_rest (limit : Nat) : ∀ l : List GEntry, ∃ k, l = takeUntil limit (heldSum l) l ++ k ∧ heldSum k ≤ limit
  | [] => ⟨[], rfl, Nat.zero_le _⟩
  | e :: l => by
    have hsum : heldSum (e :: l) = e.claim + heldSum l := by simp [heldSum]
    unfold takeUntil
    split
    · next hle => exact ⟨e :: l, rfl, hle⟩
    · obtain ⟨k, hl, hk⟩ := takeUntil_rest limit l
      refine ⟨k, ?_, hk⟩
      rw [hsum, Nat.add_sub_cancel_left, List.cons_append, ← hl]

theorem heldSum_perm {l k : List GEntry} (h : l.Perm k) : heldSum l = heldSum k := (h.map _).sum_eq

/-- Grants among which none of R70's victims is left fit the budget. -/
theorem held_without_victims {l k : List GEntry} {b : Nat} (hk : k.Sublist l) (hv : ∀ g ∈ k, ∀ v ∈ budgetVictims l b, v.unit ≠ g.unit) :
    heldSum k ≤ b := by
  obtain ⟨r, hr, hle⟩ := takeUntil_rest b (youngest l .user ++ youngest l .level ++ youngest l .stow ++ youngest l .wind)
  rw [heldSum_perm (youngests_perm l), show takeUntil b (heldSum l) _ = budgetVictims l b from rfl] at hr
  have hperm : (budgetVictims l b ++ r).Perm l := hr ▸ youngests_perm l
  let p : GEntry → Bool := fun g => decide (∀ v ∈ budgetVictims l b, v.unit ≠ g.unit)
  have hkp : k.filter p = k := List.filter_eq_self.mpr fun g hg => decide_eq_true (hv g hg)
  have hnone : (budgetVictims l b).filter p = [] := List.filter_eq_nil_iff.mpr fun v hm hp => of_decide_eq_true hp v hm rfl
  calc heldSum k = heldSum (k.filter p) := by rw [hkp]
    _ ≤ heldSum (l.filter p) := heldSum_sublist (hk.filter p)
    _ = heldSum ((budgetVictims l b ++ r).filter p) := (heldSum_perm (hperm.filter p)).symm
    _ = heldSum (r.filter p) := by rw [List.filter_append, hnone, List.nil_append]
    _ ≤ heldSum r := heldSum_sublist List.filter_sublist
    _ ≤ b := hle

/-- The state with another budget. -/
def State.withBudget (s : State) (b : Nat) : State := { s with sgu := { s.sgu with budget := b } }

theorem withBudget_law {s : State} {b : Nat} (hb : s.sgu.budget ≤ b) (h : GrantLaw s) : GrantLaw (s.withBudget b) :=
  ⟨h.once, h.waiting, h.active, h.listed, h.held.trans hb, h.cutoff⟩

theorem budget_law {s : State} (h : GrantLaw s) : GrantLaw (actBudget s).st := by
  unfold actBudget
  simp only []
  split
  · next hrise => exact withBudget_law hrise.le h
  · next hrise =>
    split
    · have hb : Booked (s.withBudget s.budgetRule) := booked_congr (s := s) (fun _ => rfl) rfl rfl (booked_of_law h)
      have hrel (l : List Ending) := released_endUnits l (s.withBudget s.budgetRule)
      refine ((hrel _).booked hb).law ?_ fun hcut => ?_
      · rw [(hrel _).budget]
        refine held_without_victims (hrel _).grants fun g hg v hv => ?_
        exact (endUnits_leave hb).2 g hg _ (List.mem_append_right _ (List.mem_map_of_mem hv))
      · obtain ⟨hqueue, hgrants⟩ := h.cutoff ((hrel _).supply ▸ hcut)
        exact ⟨List.sublist_nil.mp (hqueue ▸ (hrel _).queue), List.sublist_nil.mp (hgrants ▸ (hrel _).grants)⟩
    · exact withBudget_law (not_lt.mp ‹_›) h

theorem supplyEnter_law {s : State} (new : Supply) (h : GrantLaw s) : GrantLaw (s.supplyEnter new).st := by
  have hs : Booked (({ s with sgu := { s.sgu with supply := new, counts := .zero } } : State).offer
      (.supplyChange new s.sgu.supply s.sgu.batAvg)) := booked_congr (s := s) (fun _ => rfl) rfl rfl (booked_of_law h)
  have hrel := released_endUnits (supplyEndings s.sgu new) (({ s with sgu := { s.sgu with supply := new, counts := .zero } } : State).offer
      (.supplyChange new s.sgu.supply s.sgu.batAvg))
  have hleave := endUnits_leave (l := supplyEndings s.sgu new) hs
  refine (hrel.booked hs).law ?_ fun hcut => ?_
  · show heldSum (actEndUnits _ _).st.sgu.grants ≤ (actEndUnits _ _).st.sgu.budget
    rw [hrel.budget]
    exact (heldSum_sublist hrel.grants).trans h.held
  · have hcut : new = .cutoff := hrel.supply.symm.trans hcut
    subst hcut
    refine ⟨List.eq_nil_iff_forall_not_mem.mpr fun q hq => ?_, List.eq_nil_iff_forall_not_mem.mpr fun g hg => ?_⟩
    · exact hleave.1 q hq (ending q.unit .revoked .supply) (List.mem_append_right _ (List.mem_map_of_mem (hrel.queue.subset hq))) rfl
    · exact hleave.2 g hg (ending g.unit .revoked .revoked) (List.mem_append_left _ (List.mem_map_of_mem (hrel.grants.subset hg))) rfl

end Sys2Proof.Machine
end

section
/-! SUPPORT. Every act of the agenda, every examination and every command keeps the bounds and the law of grants. -/

namespace Sys2Proof.Machine

/-- From s to t the bounds and the law of grants are kept. -/
structure Keeps (s t : State) : Prop where
  bounds : Bounded s → Bounded t
  grants : GrantLaw s → GrantLaw t

theorem Keeps.refl (s : State) : Keeps s s := ⟨id, id⟩

theorem Keeps.trans {s t u : State} (h : Keeps s t) (k : Keeps t u) : Keeps s u := ⟨k.bounds ∘ h.bounds, k.grants ∘ h.grants⟩

theorem keeps_foldl {α : Type} (f : State → α → State) (h : ∀ t a, Keeps t (f t a)) : ∀ (l : List α) (s : State), Keeps s (l.foldl f s)
  | [], s => .refl s
  | a :: l, s => (h s a).trans (keeps_foldl f h l _)

/-! ## The rule of each update -/

/-- The bounds of the panel link (R171, R172, R176). -/
structure LinkBounds (p : Pli) : Prop where
  notices : p.notices.length ≤ 16
  holding : p.holding.length ≤ 2
  counters : p.crcErrors ≤ 65535 ∧ p.lengthErrors ≤ 65535 ∧ p.brokenFrames ≤ 65535 ∧ p.overruns ≤ 65535

/-- The bounds of a node's counts (R34). -/
def Node.Bounds (x : Node) : Prop := x.misses ≤ 3 ∧ x.missTotal ≤ 65535

/-- A position of R30. -/
def InRange (z : Int) : Prop := -2147483648 ≤ z ∧ z ≤ 2147483647

theorem clampPos_inRange (z : Int) : InRange (clampPos z) := by
  unfold InRange clampPos clampInt
  split
  · omega
  · split <;> omega

/-- A change of the blocks that hold none of this. -/
theorem keeps_of {s t : State} (hf : t.flt = s.flt) (hp : t.pli = s.pli) (hn : t.nlc.nodes = s.nlc.nodes)
    (hc : t.chc.chans = s.chc.chans) (hu : t.chc.units = s.chc.units) (hs : t.sgu = s.sgu) : Keeps s t := by
  have hnode (n : Fin 8) : t.node n = s.node n := by unfold State.node; rw [hn]
  have hchan (c : Fin 16) : t.chan c = s.chan c := by unfold State.chan; rw [hc]
  have hunit (u : UnitId) : t.unit u = s.unit u := by unfold State.unit; rw [hu]
  refine ⟨fun h => ⟨hf ▸ h.faults, hp ▸ h.notices, hp ▸ h.holding, hp ▸ h.counters, fun n => hnode n ▸ h.misses n,
    fun c => hchan c ▸ h.positions c, hs ▸ h.battery⟩, ?_⟩
  exact grantLaw_congr (fun u => by rw [hunit]) (by rw [hs]) (by rw [hs]) (by rw [hs]) (by rw [hs]) (by rw [hs])

theorem keeps_pli (s : State) {p : Pli} (h : LinkBounds s.pli → LinkBounds p) : Keeps s { s with pli := p } :=
  ⟨fun hb =>
    have hp := h ⟨hb.notices, hb.holding, hb.counters⟩
    ⟨hb.faults, hp.notices, hp.holding, hp.counters, hb.misses, hb.positions, hb.battery⟩,
    grantLaw_congr (fun _ => rfl) rfl rfl rfl rfl rfl⟩

theorem keeps_flt (s : State) {f : Flt} (h : FaultLaw s.flt → FaultLaw f) : Keeps s { s with flt := f } :=
  ⟨fun hb => ⟨h hb.faults, hb.notices, hb.holding, hb.counters, hb.misses, hb.positions, hb.battery⟩,
    grantLaw_congr (fun _ => rfl) rfl rfl rfl rfl rfl⟩

theorem keeps_setChan (s : State) (c : Fin 16) {x : Channel}
    (h : InRange (s.chan c).position → InRange x.position := by exact id) :
    Keeps s (s.setChan c x) := by
  refine ⟨fun hb => ⟨hb.faults, hb.notices, hb.holding, hb.counters, hb.misses, fun d => ?_, hb.battery⟩,
    grantLaw_congr (fun _ => rfl) rfl rfl rfl rfl rfl⟩
  rw [State.setChan_chan]
  split
  · exact h (hb.positions c)
  · exact hb.positions d

theorem keeps_modChan (s : State) (c : Fin 16) {f : Channel → Channel} (h : ∀ x, (f x).position = x.position := by exact fun _ => rfl) :
    Keeps s (s.modChan c f) :=
  keeps_setChan s c fun k => (h _).symm ▸ k

theorem keeps_modChans (s : State) (l : List (Fin 16)) {f : Channel → Channel}
    (h : ∀ x, (f x).position = x.position := by exact fun _ => rfl) :
    Keeps s (l.foldl (fun t c => t.modChan c f) s) := keeps_foldl _ (fun t c => keeps_modChan t c h) l s

theorem keeps_mapChans (s : State) {f : Channel → Channel} (h : ∀ x, (f x).position = x.position := by exact fun _ => rfl) :
    Keeps s (s.mapChans f) := by
  refine ⟨fun hb => ⟨hb.faults, hb.notices, hb.holding, hb.counters, hb.misses, fun d => ?_, hb.battery⟩,
    grantLaw_congr (fun _ => rfl) rfl rfl rfl rfl rfl⟩
  rw [State.mapChans_chan, h]
  exact hb.positions d

theorem keeps_setUnit (s : State) (u : UnitId) {x : UnitRec} (h : x.state = (s.unit u).state := by rfl) : Keeps s (s.setUnit u x) := by
  refine ⟨fun hb => ⟨hb.faults, hb.notices, hb.holding, hb.counters, hb.misses, hb.positions, hb.battery⟩,
    grantLaw_congr (fun v => ?_) rfl rfl rfl rfl rfl⟩
  rw [State.setUnit_unit]
  split
  · next heq => rw [h, heq]
  · rfl

theorem keeps_setRoom (s : State) (r : Fin 4) (x : Room) : Keeps s (s.setRoom r x) := keeps_of rfl rfl rfl rfl rfl rfl

theorem keeps_setNode (s : State) (n : Fin 8) {x : Node} (h : (s.node n).Bounds → x.Bounds := by exact id) : Keeps s (s.setNode n x) := by
  refine ⟨fun hb => ⟨hb.faults, hb.notices, hb.holding, hb.counters, fun m => ?_, hb.positions, hb.battery⟩,
    grantLaw_congr (fun _ => rfl) rfl rfl rfl rfl rfl⟩
  rw [State.setNode_node]
  split
  · exact h (hb.misses n)
  · exact hb.misses m

theorem keeps_modNode (s : State) (n : Fin 8) {f : Node → Node} (h : ∀ x, x.Bounds → (f x).Bounds := by exact fun _ => id) :
    Keeps s (s.modNode n f) :=
  keeps_setNode s n (h _)

theorem keeps_mapNodes (s : State) {f : Node → Node} (h : ∀ x, x.Bounds → (f x).Bounds := by exact fun _ => id) :
    Keeps s (s.mapNodes f) := by
  refine ⟨fun hb => ⟨hb.faults, hb.notices, hb.holding, hb.counters, fun m => ?_, hb.positions, hb.battery⟩,
    grantLaw_congr (fun _ => rfl) rfl rfl rfl rfl rfl⟩
  rw [State.mapNodes_node]
  exact h _ (hb.misses m)

/-- The supply values and counts, but for the history of codes, are in neither. -/
theorem keeps_sgu (s : State) {g : Sgu} (hq : g.queue = s.sgu.queue) (hg : g.grants = s.sgu.grants) (hb : g.budget = s.sgu.budget)
    (hs : g.supply = s.sgu.supply) (hbat : s.sgu.batHist.length ≤ 8 → g.batHist.length ≤ 8) : Keeps s { s with sgu := g } :=
  ⟨fun h => ⟨h.faults, h.notices, h.holding, h.counters, h.misses, h.positions, hbat h.battery⟩,
    grantLaw_congr (fun _ => rfl) (congrArg _ hq) (congrArg _ hg) (congrArg _ hg) hb hs⟩

/-- Work has ended and the rest of the bounds stands. -/
theorem keeps_released {s t : State} (h : Released s t) (hb : Bounded s → Bounded t) : Keeps s t := ⟨hb, h.law⟩

/-! ## The panel link (R171, R172, R176) -/

theorem LinkBounds.offer {p : Pli} (h : LinkBounds p) (m : BitVec 13) (n : Notice) : LinkBounds (p.offer m n) := by
  refine ⟨?_, pliOffer_holding p m n ▸ h.holding, ?_⟩
  · unfold Pli.offer
    split
    · split
      · next hlt => simp; omega
      · exact h.notices
    · exact h.notices
  · simpa using h.counters

theorem LinkBounds.transmit {p : Pli} (h : LinkBounds p) : LinkBounds p.transmit := by
  refine ⟨?_, transmit_holding p ▸ h.holding, by simpa using h.counters⟩
  have hlen := h.notices
  unfold Pli.transmit
  split
  · exact hlen
  · split
    · exact hlen
    · next heq => rw [heq] at hlen; simp at hlen; simp only []; omega
    · exact hlen

theorem LinkBounds.heard {p : Pli} (h : LinkBounds p) (phase : Phase) (now : FrameNo) : LinkBounds (p.heard phase now) := by
  unfold Pli.heard
  split
  · exact ⟨h.notices, h.holding, h.counters⟩
  · exact h

theorem LinkBounds.hold {p : Pli} (h : LinkBounds p) (f : Frame) : LinkBounds (p.hold f) := by
  obtain ⟨hcrc, hlen, hbroken, -⟩ := h.counters
  unfold Pli.hold
  split
  · exact ⟨h.notices, by simp; omega, h.counters⟩
  · exact ⟨h.notices, h.holding, hcrc, hlen, hbroken, sat_le _ _⟩

theorem LinkBounds.broken {p : Pli} (h : LinkBounds p) : LinkBounds p.broken := by
  obtain ⟨hcrc, hlen, -, hover⟩ := h.counters
  exact ⟨h.notices, h.holding, hcrc, hlen, sat_le _ _, hover⟩

theorem LinkBounds.judge {p : Pli} (h : LinkBounds p) : LinkBounds p.judge.1 := by
  obtain ⟨-, hlen, hbroken, hover⟩ := h.counters
  unfold Pli.judge
  split
  · exact ⟨h.notices, h.holding, h.counters⟩
  · exact ⟨h.notices, h.holding, sat_le _ _, hlen, hbroken, hover⟩

theorem LinkBounds.byte {p : Pli} (h : LinkBounds p) (now : FrameNo) (b : RxByte) : LinkBounds (p.byte now b) := by
  have hsame {q : Pli} (hn : q.notices = p.notices) (hh : q.holding = p.holding) (hc : q.crcErrors = p.crcErrors)
      (hl : q.lengthErrors ≤ 65535) (hb : q.brokenFrames = p.brokenFrames) (ho : q.overruns = p.overruns) : LinkBounds q :=
    ⟨hn ▸ h.notices, hh ▸ h.holding, hc ▸ h.counters.1, hl, hb ▸ h.counters.2.2.1, ho ▸ h.counters.2.2.2⟩
  have hlen := h.counters.2.1
  unfold Pli.byte
  split
  · split
    · exact hsame rfl rfl rfl hlen rfl rfl
    · exact h
  · split
    · exact h.broken
    · split
      · exact hsame rfl rfl rfl hlen rfl rfl
      · exact hsame rfl rfl rfl (sat_le _ _) rfl rfl
  · split
    · exact h.broken
    · exact hsame rfl rfl rfl hlen rfl rfl

theorem LinkBounds.sent {p : Pli} (h : LinkBounds p) : LinkBounds p.sent := by
  unfold Pli.sent
  split
  · exact h
  · exact ⟨h.notices, h.holding, h.counters⟩

theorem keeps_offer (s : State) (n : Notice) : Keeps s (s.offer n) := keeps_pli s fun h => h.offer _ n

theorem keeps_heard (s : State) : Keeps s s.heard := keeps_pli s fun h => h.heard _ _

/-! ## Faults (R160 to R167) -/

theorem keeps_raised (s : State) (k : FaultKind) (sj : Subject) : Keeps s (s.raised k sj) :=
  (keeps_flt s fun h => faultLaw_raise h k sj s.frame).trans (keeps_offer _ _)

theorem keeps_lockAll (s : State) (k : FaultKind) (l : List (Fin 16)) : Keeps s (s.lockAll k l) :=
  keeps_modChans s l

theorem keeps_raise (k : FaultKind) (sj : Subject) (s : State) : Keeps s (actRaise k sj s).st := by
  unfold actRaise
  simp only []
  split
  · exact keeps_raised s k sj
  · exact keeps_raised s k sj
  · exact (keeps_raised s k sj).trans (keeps_lockAll _ _ _)

theorem keeps_gone (k : FaultKind) (sj : Subject) (s : State) : Keeps s (actGone k sj s).st := by
  unfold actGone
  split
  · exact .refl s
  · split
    · exact .refl s
    · next e he =>
      split
      · refine (keeps_flt s fun h => ?_).trans (keeps_offer _ _)
        exact faultLaw_set (x := { e with present := false }) h he rfl rfl rfl (h.count e (List.mem_of_getElem? he)) (fun _ => rfl) _
      · exact .refl s

theorem clearLock_position (x : Channel) (k : FaultKind) : (x.clearLock k).position = x.position := by
  unfold Channel.clearLock
  split <;> rfl

theorem keeps_clearFault (s : State) (k : FaultKind) (sj : Subject) : Keeps s (s.clearFault k sj).1 := by
  unfold State.clearFault
  simp only []
  refine (keeps_flt s fun h => ?_).trans (keeps_modChans _ _ fun x => clearLock_position x k)
  split
  · exact faultLaw_sublist h (List.eraseIdx_sublist _ _) _
  · exact faultLaw_sublist h (.refl _) _

/-! ## Units and channels -/

theorem keeps_endUnit (s : State) (u : UnitId) (why : Reason) : Keeps s (s.endUnit u why) := by
  refine keeps_released (released_endUnit s u why) fun hb => ?_
  by_cases hw : (s.unit u).state = .idle
  · rwa [endUnit_idle hw]
  · obtain ⟨v, w, heq, -⟩ := endUnit_eq hw why
    have hlink : LinkBounds (s.endUnit u why).pli := by
      rw [heq]
      exact LinkBounds.offer ⟨hb.notices, hb.holding, hb.counters⟩ _ _
    refine ⟨endUnit_flt s u why ▸ hb.faults, hlink.notices, hlink.holding, hlink.counters, fun n => endUnit_node s u why n ▸ hb.misses n,
      fun c => endUnit_position s u why c ▸ hb.positions c, ?_⟩
    rw [heq]
    exact hb.battery

theorem keeps_endUnits (l : List Ending) (s : State) : Keeps s (actEndUnits l s).st :=
  keeps_foldl (fun t (e : Ending) => t.endUnit e.unit e.why) (fun t e => keeps_endUnit t e.unit e.why) _ s

theorem endMotion_position (x : Channel) (now : FrameNo) : (x.endMotion now).position = x.position := (core_endMotion x now).position

theorem unwait_position (x : Channel) : x.unwait.position = x.position := by
  unfold Channel.unwait
  split <;> rfl

theorem keeps_createMotion (s : State) (c : Fin 16) (d : Dir) (t : Target) (o : Origin) (dl : Option FrameNo) :
    Keeps s (s.createMotion c d t o dl) := by
  unfold State.createMotion
  split
  · exact keeps_setChan s c
  · exact .refl s

theorem keeps_createAll (s : State) (o : Origin) (l : List Pending) : Keeps s (s.createAll o l) :=
  keeps_foldl _ (fun t (p : Pending) => keeps_createMotion t p.chan p.dir p.target o p.deadline) l s

theorem keeps_startWindow (s : State) (u : UnitId) : Keeps s (s.startWindow u) := by
  unfold State.startWindow
  split
  · exact keeps_setRoom s _ _
  · exact .refl s

theorem keeps_begin (s : State) (u : UnitId) (o : Origin) (l : List Pending) : Keeps s (s.begin u o l).st :=
  ((keeps_setUnit s u).trans (keeps_createAll _ o l)).trans (keeps_startWindow _ u)

/-- A request is placed for a unit that is free (R66). -/
theorem keeps_place {s : State} {u : UnitId} (hf : GrantLaw s → s.Free u) (o : Origin) (l : List Pending) : Keeps s (s.place u o l) := by
  refine ⟨fun hb => ?_, fun h => place_law (hf h) o l h⟩
  have hbounds := (keeps_foldl (fun t (p : Pending) => t.modChan p.chan fun x => if x.state = .idle then { x with state := .waiting } else x)
    (fun t p => keeps_modChan t p.chan fun x => by split <;> rfl) l
    (s.setUnit u (.placed o (s.claimOf u) l))).bounds
    ⟨hb.faults, hb.notices, hb.holding, hb.counters, hb.misses, hb.positions, hb.battery⟩
  exact ⟨hbounds.faults, hbounds.notices, hbounds.holding, hbounds.counters, hbounds.misses, hbounds.positions, hbounds.battery⟩

theorem keeps_place_asked {s : State} {u : UnitId} {o : Origin} (h : s.sguRefuses u o = none) (l : List Pending) :
    Keeps s (s.place u o l) := keeps_place (fun _ => free_of_sgu h) o l

theorem keeps_examine (s : State) : Keeps s (examine s).st := by
  unfold examine
  split
  · exact .refl s
  · next e rest hq =>
    split
    · next hgrant =>
      refine ⟨fun hb => ?_, fun h => grantHead_law hq hgrant.1 hgrant.2 h⟩
      exact ⟨hb.faults, hb.notices, hb.holding, hb.counters, hb.misses, hb.positions, hb.battery⟩
    · split
      · simp only []
        split <;> exact .refl s
      · exact .refl s

theorem keeps_granted (u : UnitId) (s : State) : Keeps s (actGranted u s).st := by
  unfold actGranted
  simp only []
  split
  · exact .refl s
  · split
    · exact .refl s
    · exact keeps_begin _ _ _ _
  · exact Keeps.trans (t := { s with lvs := { s.lvs with seq := { s.lvs.seq with phaseStart := some s.frame } } })
      (keeps_of rfl rfl rfl rfl rfl rfl) (keeps_begin _ _ _ _)
  · split
    · exact .refl s
    · exact keeps_begin _ _ _ _
  · exact keeps_begin _ _ _ _

theorem keeps_budget (s : State) : Keeps s (actBudget s).st := by
  refine ⟨fun hb => ?_, budget_law⟩
  have hset : Bounded (s.withBudget s.budgetRule) :=
    ⟨hb.faults, hb.notices, hb.holding, hb.counters, hb.misses, hb.positions, hb.battery⟩
  unfold actBudget
  simp only []
  split
  · exact hset
  · split
    · exact (keeps_endUnits _ _).bounds hset
    · exact hset

/-! ## The sequences -/

theorem keeps_setSeq (s : State) (q : LvSeq) : Keeps s (s.setSeq q) := keeps_of rfl rfl rfl rfl rfl rfl

theorem keeps_levelStatus (s : State) : Keeps s s.levelStatus := keeps_offer _ _

theorem keeps_enterSettling (s : State) : Keeps s s.enterSettling := (keeps_setSeq _ _).trans (keeps_levelStatus _)

theorem keeps_enterSupport (s : State) : Keeps s s.enterSupport.st :=
  ((keeps_setSeq _ _).trans (keeps_levelStatus _)).trans (keeps_foldl _ (fun t c => keeps_createMotion t c _ _ _ _) _ _)

theorem keeps_decideOutcome (s : State) (o : LvOutcome) : Keeps s (s.decideOutcome o).st := by
  unfold State.decideOutcome
  simp only []
  split
  · exact (keeps_setSeq _ _).trans (keeps_enterSupport _)
  · exact keeps_setSeq _ _

theorem keeps_enterLifting (s : State) (plan : List PlanEntry) : Keeps s (s.enterLifting plan).st := by
  refine ((keeps_setSeq _ _).trans (keeps_foldl _ (fun t (p : Fin 16 × PlanEntry) => ?_) _ _)).trans (keeps_levelStatus _)
  obtain ⟨c, e⟩ := p
  simp only []
  split
  · exact keeps_createMotion _ _ _ _ _ _
  · exact .refl t

theorem keeps_judge (s : State) (p r : Int) : Keeps s (s.judge p r).st := by
  unfold State.judge
  simp only []
  split
  · exact keeps_decideOutcome _ _
  · split
    · exact keeps_decideOutcome _ _
    · split
      · exact (keeps_setSeq _ _).trans (keeps_decideOutcome _ _)
      · exact (keeps_setSeq _ _).trans (keeps_enterLifting _ _)

theorem keeps_check (s : State) (p r : Int) : Keeps s (s.check p r).st := by
  unfold State.check
  simp only []
  repeat' split
  all_goals first | exact keeps_setSeq _ _ | exact (keeps_setSeq _ _).trans (keeps_judge _ _ _)

theorem keeps_lvsSample (s : State) : Keeps s (actLvsSample s).st := by
  unfold actLvsSample
  simp only []
  split
  · split
    · exact (keeps_setSeq _ _).trans (keeps_check _ _ _)
    · exact keeps_setSeq _ _
  · exact .refl s

theorem keeps_lvsProgress (s : State) : Keeps s (actLvsProgress s).st := by
  unfold actLvsProgress
  simp only []
  repeat' split
  all_goals first | exact .refl s | exact keeps_enterSettling s

theorem keeps_lvsIntake (had : List (Fin 16)) (s : State) : Keeps s (actLvsIntake had s).st := by
  unfold actLvsIntake
  simp only []
  split
  · exact .refl s
  · exact keeps_setSeq _ _

theorem keeps_lvsLatchLost (c : Fin 16) (s : State) : Keeps s (actLvsLatchLost c s).st := by
  unfold actLvsLatchLost
  simp only []
  repeat' split
  all_goals first | exact .refl s | exact keeps_createMotion _ _ _ _ _ _

theorem keeps_lvsEnd (o : LvOutcome) (c : Cause) (f : Option (Int × Int)) (s : State) : Keeps s (actLvsEnd o c f s).st := by
  have hrest (t : State) (n : Notice) (l : Lvs) : Keeps t { t.offer n with lvs := l } :=
    (keeps_offer t n).trans (keeps_of rfl rfl rfl rfl rfl rfl)
  unfold actLvsEnd
  simp only []
  split
  · exact .refl s
  · split
    · exact (keeps_endUnit s _ _).trans (hrest _ _ _)
    · exact hrest _ _ _

theorem keeps_setStow (s : State) (q : StowSeq) : Keeps s (s.setStow q) := keeps_of rfl rfl rfl rfl rfl rfl

theorem keeps_stowRequest {s : State} {u : UnitId} (h : s.sguRefuses u .stow = none) (l : List Pending) : Keeps s (s.stowRequest u l) :=
  (keeps_setStow s _).trans (keeps_place_asked (s := s.setStow { s.ciu.stow with awaited := [u] }) h l)

theorem keeps_requestRooms (l : List (Fin 4)) (s : State) : Keeps s (actRequestRooms l s).st := by
  unfold actRequestRooms
  split
  · exact .refl s
  · split
    · split
      · exact .refl s
      · next h => exact keeps_place_asked h _
    · exact .refl s

theorem keeps_stowBegin (s : State) : Keeps s (actStowBegin s).st := by
  unfold actStowBegin
  simp only []
  repeat' split
  all_goals first | exact .refl s | exact keeps_setStow s _ | exact keeps_stowRequest ‹_› _

theorem keeps_stowUnitEnd (e : Ending) (s : State) : Keeps s (stowUnitEnd e s).st := by
  unfold stowUnitEnd
  simp only []
  repeat' split
  all_goals first | exact .refl s | exact keeps_setStow s _

theorem keeps_stowEnd (o : StowOutcome) (c : Cause) (sj : Option Subject) (s : State) : Keeps s (actStowEnd o c sj s).st := by
  unfold actStowEnd
  split
  · exact .refl s
  · exact keeps_setStow _ _

theorem keeps_stowDone (o : StowOutcome) (c : Cause) (sj : Option Subject) (s : State) : Keeps s (actStowDone o c sj s).st := by
  unfold actStowDone
  simp only []
  split
  · exact .refl s
  · exact (keeps_offer s _).trans (keeps_of rfl rfl rfl rfl rfl rfl)

/-! ## The wind guard -/

theorem keeps_wgd (s : State) (g : Wgd) : Keeps s { s with wgd := g } := keeps_of rfl rfl rfl rfl rfl rfl

/-- The user's retract that becomes the guard's keeps its grant (TABLE 8-3). -/
theorem keeps_convertRetract (s : State) : Keeps s s.convertRetract := by
  let asWind : GEntry → GEntry := fun e => if e.unit = UnitId.awning then { e with cls := .wind } else e
  have hunit (e : GEntry) : (asWind e).unit = e.unit := by simp only [asWind]; split <;> rfl
  have hclaim (e : GEntry) : (asWind e).claim = e.claim := by simp only [asWind]; split <;> rfl
  let t := s.setUnit .awning { s.unit .awning with origin := some .wind, cls := some .wind }
  have hbooks : Keeps t { t with sgu := { t.sgu with grants := t.sgu.grants.map asWind } } := by
    refine ⟨fun hb => ⟨hb.faults, hb.notices, hb.holding, hb.counters, hb.misses, hb.positions, hb.battery⟩,
      grantLaw_congr (fun _ => rfl) rfl ?_ ?_ rfl rfl⟩
    · simp only [List.map_map, Function.comp_def, hunit]
    · simp only [List.map_map, Function.comp_def, hclaim]
  exact ((keeps_setUnit s .awning).trans hbooks).trans (keeps_setChan _ 14)

theorem keeps_provide (b : Bool) (s : State) : Keeps s (actProvide b s).st := by
  unfold actProvide
  simp only []
  repeat' split
  all_goals first
    | exact keeps_wgd s _
    | exact (keeps_convertRetract s).trans (keeps_wgd _ _)
    | exact (keeps_place_asked ‹_› _).trans (keeps_wgd _ _)

theorem keeps_measure (s : State) : Keeps s (actMeasure s).st := by
  unfold actMeasure State.trip
  simp only []
  repeat' split
  all_goals first | exact .refl s | exact keeps_wgd s _

theorem keeps_wgdUnitEnd (e : Ending) (o : Origin) (s : State) : Keeps s (wgdUnitEnd e o s).st := by
  unfold wgdUnitEnd
  simp only []
  repeat' split
  all_goals first | exact .refl s | exact keeps_wgd s _

theorem keeps_handOff (e : Ending) (o : Origin) (s : State) : Keeps s (actHandOff e o s).st := by
  unfold actHandOff
  split
  · exact .refl s
  · exact .refl s
  · exact (keeps_wgdUnitEnd _ _ _).trans (keeps_stowUnitEnd _ _)
  · exact (keeps_wgdUnitEnd _ _ _).trans (keeps_stowUnitEnd _ _)

/-! ## Channels -/

theorem keeps_chanEnd (c : Fin 16) (why : Reason) (s : State) : Keeps s (actChanEnd c why s).st := by
  unfold actChanEnd
  split
  · exact .refl s
  · exact keeps_modChan _ _ fun x => endMotion_position x _

theorem keeps_dropPending (c : Fin 16) (why : Reason) (s : State) : Keeps s (actDropPending c why s).st :=
  (keeps_setUnit s _).trans (keeps_modChan _ _ unwait_position)

theorem keeps_created (c : Fin 16) (s : State) : Keeps s (actCreated c s).st := by
  unfold actCreated
  simp only []
  split <;> exact .refl s

theorem home_inRange : InRange 0 := by unfold InRange; omega

theorem keeps_rehome (c : Fin 16) (s : State) : Keeps s (actRehome c s).st := keeps_setChan s c fun _ => home_inRange

theorem keeps_motorEnd (c : Fin 16) (s : State) : Keeps s (actMotorEnd c s).st := by
  unfold actMotorEnd
  simp only []
  repeat' split
  all_goals first
    | exact .refl s
    | exact keeps_modChan _ _
    | exact (keeps_modChan _ _).trans (keeps_setRoom _ _ _)

theorem keeps_jackTest (c : Fin 16) (s : State) : Keeps s (actJackTest c s).st := by
  unfold actJackTest
  simp only []
  repeat' split
  all_goals exact .refl s

/-! ## Intakes -/

theorem keeps_setOutRec (s : State) (c : Fin 16) (o : OutRec) : Keeps s (s.setOutRec c o) :=
  keeps_modNode s _ fun x h => by split <;> exact h

theorem keeps_position (c : Fin 16) (n : BitVec 16) (s : State) : Keeps s (actPosition c n s).st := by
  unfold actPosition
  simp only []
  split
  · exact keeps_setOutRec _ _ _
  · exact (keeps_setOutRec _ _ _).trans (keeps_setChan _ _ fun _ => clampPos_inRange _)

theorem keeps_dragCount (s : State) (c : Fin 16) (i : Nat) : Keeps s (s.dragCount c i).st := by
  unfold State.dragCount
  simp only []
  repeat' split
  all_goals first | exact .refl s | exact keeps_setChan _ _

theorem keeps_electric (c : Fin 16) (i p : Nat) (s : State) : Keeps s (actElectric c i p s).st := by
  unfold actElectric
  simp only []
  split
  · exact keeps_setChan _ _
  · exact Keeps.trans (keeps_setChan s c) (keeps_dragCount _ _ _)

theorem keeps_condition (c : Fin 16) (k : Cond) (s : State) : Keeps s (actCondition c k s).st := by
  unfold actCondition
  simp only []
  split
  · exact keeps_setOutRec _ _ _
  · split
    · exact (keeps_setOutRec _ _ _).trans (keeps_setChan _ _)
    · exact keeps_setOutRec _ _ _

theorem keeps_judgeDesc (s : State) (n : Fin 8) (l : List Byte) : Keeps s (s.judgeDesc n l).st := by
  unfold State.judgeDesc
  split
  · exact keeps_setNode s n
  · exact keeps_setNode s n

theorem keeps_message (n : Fin 8) (ctl data : Byte) (s : State) : Keeps s (actMessage n ctl data s).st := by
  unfold actMessage
  simp only []
  repeat' split
  all_goals first
    | exact .refl s
    | exact keeps_setNode s n
    | exact Keeps.trans (keeps_setNode s n) (keeps_judgeDesc _ _ _)

theorem keeps_forgetMotors (s : State) (n : Fin 8) : Keeps s (s.forgetMotors n) :=
  keeps_modChans s _ fun x => by split <;> rfl

theorem keeps_countValid (n : Fin 8) (s : State) : Keeps s (actCountValid n s).st := by
  have hzero {x : Node} (hm : x.misses = 0) (ht : x.missTotal = (s.node n).missTotal) : (s.node n).Bounds → x.Bounds := fun h =>
    ⟨hm ▸ Nat.zero_le 3, ht ▸ h.2⟩
  unfold actCountValid
  simp only []
  split
  · split
    · exact Keeps.trans (keeps_setNode s n (by exact hzero rfl rfl)) (keeps_forgetMotors _ _)
    · exact keeps_setNode s n (hzero rfl rfl)
  · exact keeps_setNode s n (hzero rfl rfl)

theorem keeps_countMiss (n : Fin 8) (s : State) : Keeps s (actCountMiss n s).st := by
  unfold actCountMiss
  simp only []
  split
  · exact Keeps.trans (keeps_setNode s n fun _ => ⟨sat_le _ _, sat_le _ _⟩) (keeps_modChans _ _)
  · exact keeps_setNode s n fun _ => ⟨sat_le _ _, sat_le _ _⟩

theorem keeps_mismatch (n : Fin 8) (cause : MismatchCause) (s : State) : Keeps s (actMismatch n cause s).st :=
  Keeps.trans (keeps_modNode s n) (keeps_modChans _ _)

/-! ## Requests -/

theorem keeps_attApply (s : State) : Keeps s (actAttApply s).st := by
  unfold actAttApply
  simp only []
  split
  · exact .refl s
  · exact keeps_of rfl rfl rfl rfl rfl rfl

theorem keeps_captureDone (s : State) (c : Capture) (ok : Bool) : Keeps s (s.captureDone c ok) :=
  (keeps_offer s _).trans (keeps_of rfl rfl rfl rfl rfl rfl)

theorem keeps_refreshChan (s : State) (u : UnitId) (c : Fin 16) : Keeps s (s.refreshChan u c) :=
  (keeps_setUnit s u).trans (keeps_setChan _ c)

/-- USER work is placed for a unit that does not work (TABLE 1-6). -/
theorem keeps_moveFresh {s : State} {u : UnitId} (hw : (s.unit u).state = .idle) (d : Dir) (l : List Pending) :
    Keeps s (s.moveFresh u d l).st := by
  unfold State.moveFresh
  split
  · exact .refl s
  · next hadmits =>
    split
    · exact .refl s
    · refine keeps_place (fun h => free_of_idle (cls := .user) (booked_of_law h) hw ?_) _ _
      cases ha : admits s.sgu.supply .user with
      | true => rfl
      | false => simp [ha] at hadmits

theorem keeps_moveHeld (s : State) (u : UnitId) (d : Dir) : Keeps s (s.moveHeld u d).st := by
  have h (l : List (Fin 16)) : Keeps s (l.foldl (fun t c => t.refreshChan u c) s) := keeps_foldl _ (fun t c => keeps_refreshChan t u c) l s
  unfold State.moveHeld
  repeat' split
  all_goals first | exact .refl s | exact h _

theorem keeps_startLevel (s : State) (b : Bool) : Keeps s (s.startLevel b).st := by
  unfold State.startLevel
  simp only []
  split
  · exact (keeps_setSeq _ _).trans (keeps_levelStatus _)
  · next h => exact ((keeps_setSeq _ _).trans (keeps_levelStatus _)).trans (keeps_place_asked h _)

theorem keeps_leaveMismatch (s : State) (n : Fin 8) : Keeps s (s.leaveMismatch n) :=
  (Keeps.trans (keeps_modNode s n) (keeps_modChans _ _)).trans (keeps_forgetMotors _ _)

theorem keeps_serveMove (s : State) (subject direction : Byte) : Keeps s (serveMove s subject direction).st := by
  unfold serveMove
  repeat' split
  all_goals first | exact .refl s | exact keeps_moveHeld _ _ _ | exact keeps_moveFresh (not_not.mp ‹_›) _ _

theorem keeps_jackJoin (s : State) (c : Fin 16) (d : Dir) : Keeps s (s.jackJoin c d).st := by
  unfold State.jackJoin
  simp only []
  repeat' split
  all_goals first
    | exact .refl s
    | exact keeps_createMotion _ _ _ _ _ _
    | exact (keeps_setUnit s .jacks).trans (keeps_setChan _ _)

theorem keeps_serveMoveJack (s : State) (jack : Fin 6) (direction : Byte) : Keeps s (serveMoveJack s jack direction).st := by
  unfold serveMoveJack
  simp only []
  repeat' split
  all_goals first
    | exact .refl s
    | exact keeps_moveFresh ‹_› _ _
    | exact keeps_refreshChan _ _ _
    | exact keeps_jackJoin _ _ _

theorem keeps_serve (i : Instr) (s : State) : Keeps s (serve i s).st := by
  have hsst (x : Sst) : Keeps s { s with sst := x } := keeps_of rfl rfl rfl rfl rfl rfl
  cases i with
  | move tag subject direction => exact keeps_serveMove s subject direction
  | moveJack tag jack direction => exact keeps_serveMoveJack s jack direction
  | status tag => exact keeps_pli s fun h => ⟨h.notices, h.holding, h.counters⟩
  | reset tag => exact keeps_pli s fun h => ⟨h.notices, h.holding, h.counters⟩
  | stop tag subject =>
    show Keeps s (serveStop s subject).st
    unfold serveStop
    repeat' split
    all_goals exact .refl s
  | level tag option =>
    show Keeps s (serveLevel s option).st
    unfold serveLevel
    simp only []
    repeat' split
    all_goals first | exact .refl s | exact keeps_startLevel _ _
  | levelResult tag part =>
    show Keeps s (serveLevelResult s part).st
    unfold serveLevelResult
    repeat' split
    all_goals exact .refl s
  | reference tag =>
    show Keeps s (serveReference s).st
    unfold serveReference
    repeat' split
    all_goals first | exact .refl s | exact keeps_captureDone _ _ _ | exact keeps_of rfl rfl rfl rfl rfl rfl
  | stow tag =>
    show Keeps s (serveStow s).st
    unfold serveStow
    repeat' split
    all_goals exact .refl s
  | guardReset tag =>
    show Keeps s (serveGuardReset s).st
    unfold serveGuardReset
    repeat' split
    all_goals exact .refl s
  | paramGet tag id subject =>
    show Keeps s (serveParamGet s id subject).st
    unfold serveParamGet
    repeat' split
    all_goals first | exact .refl s | exact keeps_of rfl rfl rfl rfl rfl rfl
  | paramSet tag id subject value =>
    show Keeps s (serveParamSet s id subject value).st
    unfold serveParamSet
    simp only []
    repeat' split
    all_goals first | exact .refl s | exact hsst _
  | commit tag =>
    show Keeps s (serveCommit s).st
    unfold serveCommit
    repeat' split
    all_goals first | exact .refl s | exact hsst _
  | faults tag start =>
    show Keeps s (serveFaults s start).st
    unfold serveFaults
    split <;> exact .refl s
  | faultClear tag kind subject =>
    show Keeps s (serveFaultClear s kind subject).st
    unfold serveFaultClear
    simp only []
    repeat' split
    all_goals first
      | exact .refl s
      | exact keeps_clearFault _ _ _
      | exact (keeps_clearFault _ _ _).trans (keeps_leaveMismatch _ _)
  | channel tag id =>
    show Keeps s (serveChannel s id).st
    unfold serveChannel
    split <;> exact .refl s
  | nodes tag address =>
    show Keeps s (serveNodes s address).st
    unfold serveNodes
    split <;> exact .refl s
  | inputs tag => exact keeps_of rfl rfl rfl rfl rfl rfl
  | _ => exact .refl s

theorem keeps_arrive (f : Frame) (s : State) : Keeps s (actArrive f s).st := keeps_pli s fun h => (h.heard _ _).hold f

theorem keeps_take (s : State) : Keeps s (actTake s).st := by
  unfold actTake
  split
  · exact .refl s
  · next f rest hheld =>
    split
    · have htaken : Keeps s { s with pli := { s.pli with holding := rest } } := keeps_pli s fun h =>
        ⟨h.notices, by have := h.holding; rw [hheld] at this; exact (Nat.le_succ _).trans this, h.counters⟩
      exact (htaken.trans (keeps_serve _ _)).trans (keeps_pli _ fun h => ⟨h.notices, h.holding, h.counters⟩)
    · exact .refl s

/-! ## Every act, and the event -/

theorem keeps_act (a : Act) (s : State) : Keeps s (act a s).st := by
  cases a with
  | raise k sj => exact keeps_raise k sj s
  | gone k sj => exact keeps_gone k sj s
  | endUnits l => exact keeps_endUnits l s
  | handOff e o => exact keeps_handOff e o s
  | chanEnd c why => exact keeps_chanEnd c why s
  | dropPending c why => exact keeps_dropPending c why s
  | created c => exact keeps_created c s
  | rehome c => exact keeps_rehome c s
  | motorEnd c => exact keeps_motorEnd c s
  | extendEnd c => exact keeps_setChan s c
  | jackTest c => exact keeps_jackTest c s
  | granted u => exact keeps_granted u s
  | restCheck b => exact keeps_of rfl rfl rfl rfl rfl rfl
  | lvsProgress => exact keeps_lvsProgress s
  | lvsIntake had => exact keeps_lvsIntake had s
  | lvsLatchLost c => exact keeps_lvsLatchLost c s
  | lvsSample => exact keeps_lvsSample s
  | lvsEnd o c f => exact keeps_lvsEnd o c f s
  | stowStart t => exact keeps_setStow _ _
  | stowEnter st => exact (keeps_setStow _ _).trans (keeps_offer _ _)
  | stowBegin => exact keeps_stowBegin s
  | requestRooms l => exact keeps_requestRooms l s
  | stowEnd o c sj => exact keeps_stowEnd o c sj s
  | stowDone o c sj => exact keeps_stowDone o c sj s
  | provide b => exact keeps_provide b s
  | guardNotice g => exact keeps_offer _ _
  | measure => exact keeps_measure s
  | guardArm => exact keeps_wgd s _
  | position c n => exact keeps_position c n s
  | electric c i p => exact keeps_electric c i p s
  | condition c k => exact keeps_condition c k s
  | message n ctl data => exact keeps_message n ctl data s
  | countValid n => exact keeps_countValid n s
  | countMiss n => exact keeps_countMiss n s
  | attemptFail n => exact keeps_setNode s n
  | mismatch n cause => exact keeps_mismatch n cause s
  | budget => exact keeps_budget s
  | attApply => exact keeps_attApply s
  | arrive f => exact keeps_arrive f s
  | take => exact keeps_take s
  | exam | termFail _ _ | alarmRise => exact .refl s

theorem keeps_run (n : Nat) (e : Bool) (l : List Act) (s : State) : Keeps s (run n e l s) :=
  run_keeps (P := Keeps s) (fun a _ h => h.trans (keeps_act a _)) (fun _ h => h.trans (keeps_examine _)) n e l s (.refl s)

theorem keeps_finish (s : State) : Keeps s (finish s) := by
  refine ⟨fun hb => ?_, grantLaw_congr (fun _ => rfl) rfl rfl rfl rfl rfl⟩
  have hlink : LinkBounds (finish s).pli := by
    have hp : LinkBounds s.pli := ⟨hb.notices, hb.holding, hb.counters⟩
    rw [finish_pli]
    unfold State.transmitted
    split
    · exact hp
    · exact hp.transmit
  exact ⟨hb.faults, hlink.notices, hlink.holding, hlink.counters, fun n => by rw [finish_node]; exact hb.misses n, hb.positions, hb.battery⟩

theorem keeps_commit (s : State) (l : List Act) : Keeps s (commit s l) := (keeps_run _ _ _ _).trans (keeps_finish _)

end Sys2Proof.Machine
end

section
/-! SUPPORT. The effect of every command keeps the bounds and the law of grants; the part at reset meets both. -/

namespace Sys2Proof.Machine

/-! ## The part at reset and at power-on (R24, R188) -/

/-- Books with no entry, of units that do not work. -/
theorem grantLaw_empty {s : State} (hq : s.sgu.queue = []) (hg : s.sgu.grants = []) (hu : ∀ u, (s.unit u).state = .idle) : GrantLaw s where
  once := by simp [hq, hg]
  waiting := by simp [hq]
  active := by simp [hg]
  listed u h := absurd (hu u) h
  held := by simp [hg]
  cutoff _ := ⟨hq, hg⟩

theorem blank_bounded (m : Mode) (c : ResetCause) (im : Image) (p : List Instr) (n : Nat) : Bounded (State.blank m c im p n) where
  faults := faultLaw_reset
  notices := Nat.zero_le _
  holding := Nat.zero_le _
  counters := ⟨Nat.zero_le _, Nat.zero_le _, Nat.zero_le _, Nat.zero_le _⟩
  misses k := by simp [State.node, State.blank, Vector.get_eq_getElem, Node.reset]
  positions k := by simp [State.chan, State.blank, Vector.get_eq_getElem, Channel.reset]
  battery := Nat.zero_le _

theorem blank_unit (m : Mode) (c : ResetCause) (im : Image) (p : List Instr) (n : Nat) (u : UnitId) :
    (State.blank m c im p n).unit u = .reset := by
  simp [State.unit, State.blank, Vector.get_eq_getElem]

theorem blank_grants (m : Mode) (c : ResetCause) (im : Image) (p : List Instr) (n : Nat) : GrantLaw (State.blank m c im p n) :=
  grantLaw_empty rfl rfl fun u => by rw [blank_unit]; rfl

/-- What a reset leaves meets both, whatever stood before. -/
theorem keeps_blanked (s : State) (m : Mode) (c : ResetCause) : Keeps s (s.blanked m c) :=
  ⟨fun _ => blank_bounded _ _ _ _ _, fun _ => blank_grants _ _ _ _ _⟩

/-- LOAD gives the positions, the counts of the nodes and the budget of a part at reset. -/
theorem keeps_load (s : State) (m : Mode) (c : ResetCause) (code : BitVec 4) : Keeps s ((s.blanked m c).load code).st := by
  have hb := blank_bounded m c s.keptImage s.pending s.freeCount
  refine ⟨fun _ => ⟨hb.faults, hb.notices, hb.holding, hb.counters, fun n => ?_, fun k => ?_, hb.battery⟩,
    fun _ => grantLaw_empty rfl rfl fun u => ?_⟩
  · show ((Vector.ofFn (Node.populate code)).get n).misses ≤ 3 ∧ ((Vector.ofFn (Node.populate code)).get n).missTotal ≤ 65535
    simp only [Vector.get_eq_getElem, Vector.getElem_ofFn, Node.populate, Node.reset]
    split <;> simp
  · show -2147483648 ≤ ((Vector.ofFn (Channel.populate code)).get k).position ∧ _
    simp [Vector.get_eq_getElem, Channel.populate, Channel.reset, State.load, State.chan]
  · show ((s.blanked m c).unit u).state = .idle
    rw [State.blanked, blank_unit]
    rfl

/-! ## The effects of the other commands -/

theorem keeps_captureSample (s : State) (c : Capture) (x y : Nat) : Keeps s (s.captureSample c x y).st := by
  have hatu : ∀ a : Atu, Keeps s { s with atu := a } := fun a => keeps_of rfl rfl rfl rfl rfl rfl
  have hoff : ∀ x y, Keeps s (s.setOffsets x y) := fun x y => keeps_of rfl rfl rfl rfl rfl rfl
  unfold State.captureSample
  simp only []
  repeat' split
  all_goals first
    | exact hatu _
    | exact keeps_captureDone s _ _
    | exact ((hoff _ _).trans (keeps_attApply _)).trans (keeps_captureDone _ _ _)

theorem keeps_attitudeSample (s : State) : Keeps s s.attitudeSample.st := by
  have hatu : ∀ a : Atu, Keeps s { s with atu := a } := fun a => keeps_of rfl rfl rfl rfl rfl rfl
  unfold State.attitudeSample
  simp only []
  repeat' split
  all_goals first
    | exact .refl s
    | exact (hatu _).trans (keeps_captureSample _ _ _ _)
    | exact (hatu _).trans (keeps_captureDone _ _ _)
    | exact hatu _

/-- The history holds the last 8 codes (R58). -/
theorem pushCode_length (h : List Nat) (code : Nat) (hl : h.length ≤ 8) : (pushCode h code).length ≤ 8 := by
  unfold pushCode
  split <;> simp <;> omega

theorem keeps_battery (s : State) (code : Nat) : Keeps s (s.battery code) :=
  keeps_sgu s rfl rfl rfl rfl (pushCode_length _ _)

theorem keeps_supplyEnter (s : State) (new : Supply) : Keeps s (s.supplyEnter new).st := by
  refine ⟨fun hb => ?_, supplyEnter_law new⟩
  refine (keeps_endUnits _ _).bounds ((keeps_offer _ _).bounds ?_)
  exact ⟨hb.faults, hb.notices, hb.holding, hb.counters, hb.misses, hb.positions, hb.battery⟩

theorem keeps_windowEnd (s : State) (c : Fin 16) : Keeps s (s.windowEnd c).st := by
  unfold State.windowEnd
  simp only []
  repeat' split
  all_goals first | exact .refl s | exact keeps_setChan s c

theorem keeps_ciu (s : State) (c : Ciu) : Keeps s { s with ciu := c } := keeps_of rfl rfl rfl rfl rfl rfl

theorem keeps_autoStow (s : State) : Keeps s s.autoStow.st := by
  unfold State.autoStow
  repeat' split
  all_goals first | exact .refl s | exact (keeps_ciu s _).trans (keeps_offer _ _)

theorem keeps_setInput (s : State) (i : InputId) (x : Input) : Keeps s (s.setInput i x) := by
  cases i <;> exact keeps_ciu s _

theorem keeps_inputUses (s : State) (i : InputId) (level change : Bool) : Keeps s (inputUses s i level change).st := by
  cases i with
  | ign =>
    unfold inputUses
    simp only []
    split
    · exact keeps_autoStow s
    · exact .refl s
  | park => exact .refl s
  | eng => exact .refl s

theorem keeps_sampleInput (s : State) (i : InputId) (level : Bool) : Keeps s (s.sampleInput i level).st := by
  unfold State.sampleInput
  simp only []
  repeat' split
  all_goals first
    | exact keeps_setInput s i _
    | exact (keeps_setInput s i _).trans (keeps_inputUses _ _ _ _)
    | exact ((keeps_setInput s i _).trans (keeps_offer _ _)).trans (keeps_inputUses _ _ _ _)

theorem keeps_windEdge (s : State) (time : Nat) : Keeps s (s.windEdge time).st := by
  unfold State.windEdge
  repeat' split
  all_goals first | exact .refl s | exact keeps_wgd s _

theorem keeps_calm (s : State) : Keeps s s.calm.st := by
  unfold State.calm
  split
  · exact keeps_wgd s _
  · exact .refl s

theorem keeps_silence (s : State) : Keeps s s.silence.st := by
  unfold State.silence
  split
  · exact keeps_pli s fun h => ⟨h.notices, h.holding, h.counters⟩
  · exact .refl s

theorem keeps_judgeFrame (s : State) : Keeps s s.judgeFrame.st := by
  unfold State.judgeFrame
  split
  · exact keeps_pli s LinkBounds.judge
  · exact .refl s

theorem keeps_phaseFail (s : State) (k : FaultKind) (l : List (Fin 16)) : Keeps s (s.phaseFail k l).st := keeps_setSeq s _

theorem keeps_countRack (s : State) (r : Fin 4) : Keeps s (s.countRack r) := by
  unfold State.countRack
  simp only []
  repeat' split
  all_goals first | exact .refl s | exact keeps_setRoom s r _

theorem keeps_frameEnd (s : State) : Keeps s s.frameEnd := by
  have hracks := keeps_foldl State.countRack keeps_countRack allRooms s
  have hdraw (t : State) : Keeps t t.countOverdraw := keeps_sgu t rfl rfl rfl rfl id
  have hmark (t : State) : Keeps t { t with frameOver := true } := keeps_of rfl rfl rfl rfl rfl rfl
  exact (hracks.trans (hdraw _)).trans (hmark _)

theorem nodeFrameStart_bounds (x : Node) (h : x.Bounds) : x.frameStart.Bounds := by
  unfold Node.frameStart
  split <;> exact h

theorem keeps_frameStart (s : State) : Keeps s s.frameStart := by
  have hnodes : Keeps s (s.mapNodes Node.frameStart) := keeps_mapNodes s nodeFrameStart_bounds
  unfold State.frameStart
  simp only []
  split
  · exact hnodes.trans (keeps_of rfl rfl rfl rfl rfl rfl)
  · split
    · refine Keeps.trans (hnodes.trans ?_) (keeps_mapChans _)
      refine (keeps_pli (s.mapNodes Node.frameStart) (p := { (s.mapNodes Node.frameStart).pli with
        gapStart := (s.mapNodes Node.frameStart).pli.gapStart.map fun f => f - ((s.mapNodes Node.frameStart).frame + 1) }) ?_).trans ?_
      · exact fun h => ⟨h.notices, h.holding, h.counters⟩
      · exact keeps_of rfl rfl rfl rfl rfl rfl
    · exact hnodes.trans (keeps_of rfl rfl rfl rfl rfl rfl)

theorem keeps_openSlot (s : State) (n : Fin 8) : Keeps s (s.openSlot n) := keeps_of rfl rfl rfl rfl rfl rfl

theorem keeps_closeSlot (s : State) : Keeps s s.closeSlot := keeps_of rfl rfl rfl rfl rfl rfl

theorem keeps_enterRun (s : State) : Keeps s s.enterRun.st := by
  have hphase : Keeps s { s with sst := { s.sst with phase := .run } } := keeps_of rfl rfl rfl rfl rfl rfl
  have hlink := keeps_pli { s with sst := { s.sst with phase := .run } } (p := { s.pli with silenceStart := some s.frame })
    fun h => ⟨h.notices, h.holding, h.counters⟩
  exact (hphase.trans hlink).trans (keeps_offer _ _)

theorem keeps_commitEnd (s : State) (ok : Bool) : Keeps s (s.commitEnd ok).st := by
  have hstore (x : Sst) (n : Nat) : Keeps s { s with sst := x, freeCount := n } := keeps_of rfl rfl rfl rfl rfl rfl
  unfold State.commitEnd
  split
  · exact .refl s
  · exact (hstore _ _).trans (keeps_offer _ _)

theorem nodeSoftReset_bounds (x : Node) (h : x.Bounds) : x.softReset.Bounds := by
  unfold Node.softReset
  simp only []
  split <;> exact h

/-- The soft reset empties the books, the fault list and the holding, and keeps the counters and positions (R190). -/
theorem keeps_softReset (s : State) : Keeps s s.softReset.st := by
  have hrecords : Keeps s (((((allNodes.filter fun n => decide ((s.node n).state = .mismatch)).foldl State.forgetMotors s).mapChans
      (Channel.softReset s.frame)).mapNodes Node.softReset).mapRooms Room.endWork) :=
    (((keeps_foldl State.forgetMotors keeps_forgetMotors _ s).trans (keeps_mapChans _)).trans
      (keeps_mapNodes _ nodeSoftReset_bounds)).trans (keeps_of rfl rfl rfl rfl rfl rfl)
  refine ⟨fun hs => ?_, fun _ => grantLaw_empty rfl rfl fun u => ?_⟩
  · have hb := hrecords.bounds hs
    exact ⟨faultLaw_reset, Nat.zero_le _, Nat.zero_le _, hb.counters, hb.misses, hb.positions, hb.battery⟩
  · show ((Vector.replicate 6 UnitRec.reset).get _).state = .idle
    simp [Vector.get_eq_getElem, UnitRec.reset]

/-! ## Every command -/

/-- What a command answers keeps both. -/
def KeepsAll (s : State) (r : Host.Outcome State Fault Refusal) : Prop := ∀ t, r = .next t → Keeps s t

theorem keepsAll_next {s t : State} (h : Keeps s t) : KeepsAll s (.next t) := fun u he => by cases he; exact h

theorem keepsAll_event {s : State} {o : Out} (h : Keeps s o.st) : KeepsAll s (event s o) := by
  unfold event
  split
  · exact keepsAll_next (h.trans (keeps_commit _ _))
  · exact keepsAll_next (.refl s)

theorem keepsAll_expiry {s : State} {o : Out} (h : Keeps s o.st) : KeepsAll s (expiry s o) := by
  refine keepsAll_event ?_
  split
  · exact h
  · exact .refl s

theorem keepsAll_expiry_if {s : State} {p : Prop} [Decidable p] {o : Out} (h : Keeps s o.st) :
    KeepsAll s (expiry s (if p then o else .done s)) := by
  refine keepsAll_expiry ?_
  split
  · exact h
  · exact .refl s

theorem keepsAll_request {i : Instr} {s : State} (h : exec i s = request i s) : KeepsAll s (exec i s) := by
  rw [h]
  unfold request
  split
  · exact keepsAll_event (.refl s)
  · exact keepsAll_next (.refl s)

theorem keeps_boot (s : State) (c : ResetCause) (k : BitVec 4) : Keeps s (s.boot c k) :=
  (keeps_load s .running c k).trans (keeps_commit _ _)

theorem keepsAll_intake (n : Fin 8) (r : SlotReply) (s : State) : KeepsAll s (execSlotIntake n r s) := by
  unfold execSlotIntake
  split
  · refine keepsAll_next ?_
    have hslot := (keeps_closeSlot s).trans (keeps_commit s.closeSlot (s.slotActs n r))
    split
    · exact hslot.trans (keeps_frameEnd _)
    · exact hslot
  · exact keepsAll_next (.refl s)

theorem keepsAll_exec (c : Instr) (s : State) : KeepsAll s (exec c s) := by
  cases c with
  | powerOn k => exact keepsAll_next (keeps_boot s _ k)
  | powerLoss => exact keepsAll_next (keeps_blanked s _ _)
  | resetnAssert =>
    simp only [exec, execResetnAssert]
    split
    · exact keepsAll_next (.refl s)
    · exact keepsAll_next (keeps_blanked s _ _)
  | resetnRelease k =>
    simp only [exec, execResetnRelease]
    split
    · exact keepsAll_next (keeps_boot s _ k)
    · exact keepsAll_next (.refl s)
  | nodeCommandSlot n =>
    refine keepsAll_event (Keeps.trans ?_ (keeps_openSlot _ n))
    split
    · exact keeps_frameStart s
    · exact .refl s
  | slotIntake n r => exact keepsAll_intake n r s
  | startUpRun => exact keepsAll_expiry_if (keeps_enterRun s)
  | softReset =>
    refine keepsAll_event ?_
    split
    · exact keeps_softReset s
    · exact .refl s
  | commitComplete agrees => exact keepsAll_expiry (keeps_commitEnd s _)
  | commitTimeout => exact keepsAll_expiry_if (keeps_commitEnd s false)
  | conversionScan tx ty vbat =>
    exact keepsAll_event (((keeps_attitudeSample s).trans (keeps_battery _ _)).trans (keeps_of rfl rfl rfl rfl rfl rfl))
  | supplyStateChange =>
    refine keepsAll_event ?_
    split
    · exact keeps_supplyEnter s _
    · exact .refl s
  | attitudeSample => exact keepsAll_event (keeps_attitudeSample s)
  | inputAccept i level => exact keepsAll_event (keeps_sampleInput s i level)
  | windEdge time => exact keepsAll_event (keeps_windEdge s time)
  | panelByteReceive b => exact keepsAll_event ((keeps_judgeFrame s).trans (keeps_pli _ fun h => h.byte _ b))
  | panelFrameReceive => exact keepsAll_event (keeps_judgeFrame s)
  | panelGapTimeout =>
    simp only [exec, execPanelGapTimeout]
    split
    · exact keepsAll_event (keeps_judgeFrame s)
    · exact keepsAll_expiry_if (keeps_pli s LinkBounds.broken)
  | transmitDone => exact keepsAll_event (keeps_pli s LinkBounds.sent)
  | speedWindowEnd c => exact keepsAll_expiry_if (keeps_windowEnd s c)
  | overdrawExpiry => exact keepsAll_expiry_if (keeps_sgu s rfl rfl rfl rfl id)
  | rackWindowEnd r =>
    refine keepsAll_expiry_if ?_
    split
    · exact .refl s
    · exact keeps_setRoom s r _
  | contactTimeout => exact keepsAll_expiry_if (keeps_phaseFail s _ _)
  | settleTimeout => exact keepsAll_expiry_if (.refl s)
  | liftPassTimeout => exact keepsAll_expiry_if (keeps_phaseFail s _ _)
  | supportTimeout => exact keepsAll_expiry_if (keeps_phaseFail s _ _)
  | stowStepTimeout => exact keepsAll_expiry_if (.refl s)
  | calmExpiry => exact keepsAll_expiry (keeps_calm s)
  | linkSilenceTimeout => exact keepsAll_expiry (keeps_silence s)
  | attendanceExpiry _ | grantWaitExpiry _ | endWaitExpiry _ | holdOffExpiry => exact keepsAll_expiry (.refl s)
  | _ => exact keepsAll_request rfl

theorem step_keeps (s : State) : KeepsAll s (step s) := by
  cases hp : s.pending with
  | nil => rw [step_nil hp]; exact keepsAll_next (.refl s)
  | cons c rest =>
    rw [step_cons hp]
    have hrest : Keeps s { s with pending := rest } := keeps_of rfl rfl rfl rfl rfl rfl
    exact fun t he => hrest.trans (keepsAll_exec c _ t he)

end Sys2Proof.Machine

namespace Sys2Proof

open Machine

/-- Settles O57: every act of the agenda, and so every command, keeps the bounds and the law of grants. -/
theorem stepsKeepTheBounds : Obligations.StepsKeepTheBounds :=
  ⟨fun s t h he => (step_keeps s t he).bounds h, fun s t h he => (step_keeps s t he).grants h⟩

/-- Settles O59. -/
theorem resetMeetsTheInvariants : Obligations.ResetMeetsTheInvariants :=
  ⟨lines_blank _ _ _ _ _, blank_bounded _ _ _ _ _, blank_grants _ _ _ _ _⟩

end Sys2Proof
end

section
/-! SUPPORT. A part without power or held in RESETn (R24, R187). -/

namespace Sys2Proof.Machine

/-- The image that a reset finds: a commit cut short leaves its parameters and layout and a bad CRC (R187). -/
theorem keptImage_fields (s : State) : s.keptImage.params = s.sst.image.params ∧ s.keptImage.layout = s.sst.image.layout ∧
    s.keptImage.crcGood = (s.sst.image.crcGood && s.sst.commit.isNone) := by
  unfold State.keptImage
  cases s.sst.commit <;> simp

theorem blanked_image (s : State) (m : Mode) (c : ResetCause) : (s.blanked m c).sst.image = s.keptImage := rfl

/-- What a stop leaves: the blank part with the kept image. -/
theorem blanked_stops (s : State) (m : Mode) (c : ResetCause) :
    s.blanked m c = State.blank m c (s.blanked m c).sst.image s.pending s.freeCount ∧
      (s.blanked m c).sst.image.params = s.sst.image.params ∧ (s.blanked m c).sst.image.layout = s.sst.image.layout ∧
      (s.blanked m c).sst.image.crcGood = (s.sst.image.crcGood && s.sst.commit.isNone) := by
  rw [blanked_image]
  exact ⟨rfl, keptImage_fields s⟩

theorem exec_resetnAssert {s : State} (h : s.mode ≠ .off) : exec .resetnAssert s = .next (s.blanked .lineReset .line) := if_neg h

end Sys2Proof.Machine

namespace Sys2Proof

open Machine

/-- Settles O3: every effect but the resets' is an event or an intake, and a part that runs no frames has neither. -/
theorem stoppedPartIgnores : Obligations.StoppedPartIgnores := by
  intro c s hstopped hpower hrelease hassert hloss
  have heffect := exec_effect c s
  generalize exec c s = r at heffect ⊢
  cases heffect with
  | powerOn k => exact absurd rfl (hpower k)
  | release k _ => exact absurd rfl (hrelease k)
  | powerLoss => exact absurd rfl hloss
  | resetnAssert _ => exact absurd rfl hassert
  | ignored _ => rfl
  | slot n => exact event_stopped hstopped _
  | intake n r => exact intake_stopped hstopped n r
  | enterRun => exact event_stopped hstopped _
  | softReset => exact event_stopped hstopped _
  | commitEnd ok _ => exact event_stopped hstopped _
  | same o _ _ => exact event_stopped hstopped o

/-- Settles O5. -/
theorem resetsStopThePart : Obligations.ResetsStopThePart := fun s =>
  ⟨⟨_, rfl, blanked_stops s .off .power⟩, fun h => ⟨_, exec_resetnAssert h, blanked_stops s .lineReset .line⟩⟩

end Sys2Proof
end

section
/-! SUPPORT. The slots' first halves (R24 to R26): what the start of a frame changes, and the image that goes out. -/

namespace Sys2Proof.Machine

/-! ## The start of a frame (R24, R36 to R38, R43, R77) -/

/-- From s to t a frame has started: the marks, the descriptor reads, and in frame 0 after a soft reset the idle windows and the
accumulators. -/
structure FrameBegun (s t : State) : Prop where
  marks : t.frameOver = false ∧ t.frameFresh = false
  phase : t.sst = { s.sst with phase := if s.frameFresh = false ∧ s.restartFrame = true then .discover else s.sst.phase }
  nodes : ∀ n, t.node n = (s.node n).frameStart
  chans : ∀ c, t.chan c = if s.frameFresh = false ∧ s.restartFrame = true then
    { s.chan c with idleStart := 0, idlePos := (s.chan c).position } else s.chan c
  work : t.chc.units = s.chc.units ∧ t.chc.rooms = s.chc.rooms
  sums : s.frameFresh = false ∧ s.restartFrame = true → t.atu.accX = 0 ∧ t.atu.accY = 0 ∧ t.atu.blockCount = 0
  record : t.atu.record = s.atu.record
  holding : t.pli.holding = s.pli.holding
  blocks : t.mode = s.mode ∧ t.sgu = s.sgu ∧ t.flt = s.flt ∧ t.lvs = s.lvs ∧ t.wgd = s.wgd ∧ t.ciu = s.ciu

theorem frameStart_begun (s : State) : FrameBegun s s.frameStart := by
  have hnode := State.mapNodes_node s Node.frameStart
  cases hfresh : s.frameFresh with
  | true =>
    have heq : s.frameStart = { s.mapNodes Node.frameStart with
        frameOver := false, atu := { s.atu with scanned := false }, frameFresh := false } := by
      simp [State.frameStart, hfresh]
    rw [heq]
    exact ⟨⟨rfl, rfl⟩, by simp [hfresh], hnode, fun c => by simp [hfresh]; rfl, ⟨rfl, rfl⟩, by simp [hfresh], rfl, rfl,
      ⟨rfl, rfl, rfl, rfl, rfl, rfl⟩⟩
  | false =>
    cases hrestart : s.restartFrame with
    | false =>
      have heq : s.frameStart = { s.mapNodes Node.frameStart with
          frameOver := false, atu := { s.atu with scanned := false }, frame := s.frame + 1 } := by
        simp [State.frameStart, hfresh, hrestart]
      rw [heq]
      exact ⟨⟨rfl, hfresh⟩, by simp [hrestart], hnode, fun c => by simp [hrestart]; rfl, ⟨rfl, rfl⟩, by simp [hrestart], rfl, rfl,
        ⟨rfl, rfl, rfl, rfl, rfl, rfl⟩⟩
    | true =>
      have heq : s.frameStart = ({ s.mapNodes Node.frameStart with
          frame := 0, restartFrame := false, frameOver := false, sst := { s.sst with phase := .discover }
          atu := { s.atu with scanned := false, accX := 0, accY := 0, blockCount := 0 }
          pli := { s.pli with gapStart := s.pli.gapStart.map fun f => f - (s.frame + 1) } } : State).mapChans
            fun x => { x with idleStart := 0, idlePos := x.position } := by
        simp [State.frameStart, hfresh, hrestart]
      rw [heq]
      refine ⟨⟨rfl, hfresh⟩, by simp [hfresh, hrestart], hnode, fun c => ?_, ⟨rfl, rfl⟩, fun _ => ⟨rfl, rfl, rfl⟩, rfl, rfl,
        ⟨rfl, rfl, rfl, rfl, rfl, rfl⟩⟩
      rw [State.mapChans_chan, if_pos ⟨hfresh, hrestart⟩]
      rfl

/-- The start of a frame moves nothing that rest positions depend on. -/
theorem FrameBegun.core {s t : State} (h : FrameBegun s t) (c : Fin 16) : CoreEq (t.chan c) (s.chan c) := by
  rw [h.chans]
  split <;> exact ⟨rfl, rfl, rfl, rfl, rfl, rfl⟩

theorem FrameBegun.motion {s t : State} (h : FrameBegun s t) (c : Fin 16) : (t.chan c).motion = (s.chan c).motion := by
  rw [h.chans]
  split <;> rfl

theorem FrameBegun.still {s t : State} (h : FrameBegun s t) (hs : Still s) : Still t := by
  obtain ⟨-, -, hflt, -⟩ := h.blocks
  refine still_congr h.core (by rw [h.phase]) (fun r => by unfold State.room; rw [h.work.2]) hflt (fun c hm => ?_) hs
  unfold Channel.moves at hm ⊢
  rwa [h.motion]

theorem FrameBegun.parked {s t : State} (h : FrameBegun s t) (hs : Parked s) : Parked t := by
  obtain ⟨-, -, -, -, -, hciu⟩ := h.blocks
  refine ⟨fun hrun => ?_, hciu ▸ hs.alarm⟩
  rw [h.phase] at hrun
  unfold State.parkReleased
  rw [hciu]
  refine hs.park ?_
  by_cases hafresh : s.frameFresh = false ∧ s.restartFrame = true
  · simp [hafresh] at hrun
  · simpa [hafresh] using hrun

/-! ## The image that goes out (R25, R26) -/

theorem still_openSlot {s : State} (h : Still s) (n : Fin 8) : Still (s.openSlot n) := ⟨h.exposed, h.jacks⟩

theorem parked_openSlot {s : State} (h : Parked s) (n : Fin 8) : Parked (s.openSlot n) := ⟨h.park, h.alarm⟩

theorem quiet_openSlot {s : State} (h : Quiet s) (n : Fin 8) : Quiet (s.openSlot n) :=
  ⟨h.running, ⟨h.lines.skew, h.lines.pump, h.lines.travel, h.lines.images⟩, still_openSlot h.still n⟩

theorem openSlot_sent (s : State) (n : Fin 8) : (s.openSlot n).nlc.sent =
    if (s.node n).state = .absent then none else some (commandBytes n (s.imageRule n)) := by
  unfold State.openSlot
  by_cases h : (s.node n).state = .absent <;> simp [h]

theorem openSlot_eq {s : State} (h : Lines s) (n : Fin 8) : s.openSlot n = { s with nlc := { s.nlc with
    slot := some n
    nlde := decide ((s.node n).state ≠ .absent)
    sent := if (s.node n).state = .absent then none else some (commandBytes n (s.node n).image) } } := by
  rw [h.images, ← openSlot_sent]
  rfl

/-- A node that reads its descriptor is sent the message of its read (R36 to R38). -/
theorem imageRule_reading {s : State} {n : Fin 8} (h : (s.node n).state = .discovering) :
    s.imageRule n = { CmdImage.off with ctl := (s.node n).msg.1, data := (s.node n).msg.2 } := by
  unfold State.imageRule
  simp only [h]

theorem frameStart_state (x : Node) : x.frameStart.state = x.state := by
  unfold Node.frameStart
  split <;> rfl

/-! ## NODE_COMMAND_SLOT -/

theorem exec_laterSlot {s : State} (h : Quiet s) {n : Fin 8} (hn : n ≠ 0) : exec (.nodeCommandSlot n) s = .next (s.openSlot n).sending := by
  have hslot : exec (.nodeCommandSlot n) s = event s (.done (s.openSlot n)) := by
    simp only [exec, execNodeCommandSlot, hn, if_false, false_and, Out.done]
  rw [hslot, event_quiet h.running (quiet_openSlot h n)]

theorem exec_frameSlot {s : State} (h : Steady s) (hheld : s.restartFrame = false ∨ s.pli.holding = []) :
    exec (.nodeCommandSlot 0) s = .next (finish (s.frameStart.openSlot 0)) := by
  have hbegun := frameStart_begun s
  let acts := if s.restartFrame = true then [Act.take] else []
  have hslot : exec (.nodeCommandSlot 0) s = event s { st := s.frameStart.openSlot 0, acts := acts } := by
    simp only [exec, execNodeCommandSlot, if_true, true_and, acts]
  have htake : Does 1 false acts (s.frameStart.openSlot 0) (s.frameStart.openSlot 0) := by
    simp only [acts]
    split
    · next hrestart =>
      have hempty : (s.frameStart.openSlot 0).pli.holding = [] :=
        hbegun.holding.trans (hheld.resolve_left (by simp [hrestart]))
      refine does_done (by simp) ?_ (does_nil _)
      simp [act, actTake, hempty, Out.done]
    · exact does_mono (does_nil _) (by omega)
  rw [hslot, event_does h.running htake (by omega) (still_openSlot (hbegun.still h.still) 0)
    (parked_openSlot (hbegun.parked h.parked) 0) (by simp)]

end Sys2Proof.Machine

namespace Sys2Proof

open Machine

/-- Settles O10: slot 0 begins a frame, and what that changes is `FrameBegun`. -/
theorem slotSendsTheImage : Obligations.SlotSendsTheImage := by
  refine ⟨fun n s hn hq => ?_, fun s => exec_frameSlot, fun s hs hheld => ?_⟩
  · rw [exec_laterSlot hq hn, openSlot_eq hq.lines]
  refine ⟨_, exec_frameSlot hs hheld, ?_⟩
  have h := frameStart_begun s
  have hnode (n : Fin 8) : (finish (s.frameStart.openSlot 0)).node n =
      { (s.node n).frameStart with image := s.frameStart.imageRule n } := by
    rw [finish_node, ← h.nodes]
    rfl
  have hread {n : Fin 8} (m : MsgCtl × Nat) (hstate : (s.node n).state = .discovering) (hm : (s.node n).frameStart.msg = m) :
      ((finish (s.frameStart.openSlot 0)).node n).image = { CmdImage.off with ctl := m.1, data := m.2 } := by
    rw [hnode, ← hm, ← h.nodes]
    exact imageRule_reading (by rw [h.nodes, frameStart_state, hstate])
  have hstate : (s.frameStart.node 0).state = (s.node 0).state := by rw [h.nodes, frameStart_state]
  obtain ⟨-, hsgu, hflt, hlvs, hwgd, hciu⟩ := h.blocks
  have hstow : s.frameStart.ciu.stow = s.ciu.stow := congrArg Ciu.stow hciu
  have hgrants : GrantsStand s s.frameStart := ⟨congrArg Sgu.queue hsgu, congrArg Sgu.grants hsgu, congrArg Sgu.nextOrder hsgu⟩
  refine ⟨(frameStart_marks s).2.2, h.marks.1, h.marks.2, congrArg Sst.phase h.phase, fun n => ?nodes, fun n hd hx => ?request,
    fun n hd hx => ?abort, fun n k hd hx hk => ?reading, rfl, ?nlde, ?sent, h.chans, h.sums, h.record, fun u => ?units, ?grants,
    hflt, hlvs, hwgd, ?stow⟩
  case nodes => rw [hnode]; rfl
  case request => exact hread (.reqDesc, 0) hd (by rcases hx with hx | hx <;> simp [Node.frameStart, Node.msg, hx])
  case abort => exact hread (.abort, 0) hd (by simp [Node.frameStart, Node.msg, hx])
  case reading => exact hread (.reqDesc, k) hd (by simp [Node.frameStart, Node.msg, hx, hk])
  case nlde =>
    show decide ((s.frameStart.node 0).state ≠ .absent) = _
    rw [hstate]
  case sent =>
    show (s.frameStart.openSlot 0).nlc.sent = _
    rw [openSlot_sent, hstate, hnode]
  case units =>
    show (s.frameStart.chc.units.get _) = _
    rw [h.work.1]
    rfl
  case stow => exact hstow
  case grants => exact hgrants

end Sys2Proof
end

section
/-! SUPPORT. The intake of a slot (R24, R29): what it answers from what its acts do, and what a part at rest keeps on the way. -/

namespace Sys2Proof.Machine

/-! ## The end of a frame (R24, R74, R120) -/

/-- The frame end moves the counts of the rooms' windows, the overdraw count and the mark alone. -/
theorem frameEnd_counts (s : State) : ∃ (v : Vector Room 4) (k : Nat), s.frameEnd =
    { s with chc := { s.chc with rooms := v }, sgu := { s.sgu with overdraw := k }, frameOver := true } := by
  have hracks : ∀ (l : List (Fin 4)) (t : State), ∃ v, l.foldl State.countRack t = { t with chc := { t.chc with rooms := v } } := by
    intro l
    induction l with
    | nil => exact fun t => ⟨t.chc.rooms, rfl⟩
    | cons r l ih =>
      intro t
      obtain ⟨v, hv⟩ := ih (t.countRack r)
      exact ⟨v, by rw [List.foldl_cons, hv, countRack_eq]⟩
  obtain ⟨v, hv⟩ := hracks allRooms s
  unfold State.frameEnd
  rw [hv]
  exact ⟨v, _, rfl⟩

/-! ## What a slot answers -/

/-- The answer t of slot n's intake, whose acts end in u: the lines follow u's records, and slot 7 ends the frame. -/
structure SlotDone (n : Fin 8) (u t : State) : Prop where
  chan : ∀ c, t.chan c = u.chan c
  unit : ∀ v, t.unit v = u.unit v
  node : ∀ m, t.node m = { u.node m with image := u.imageRule m }
  line : t.nlc.slot = u.nlc.slot ∧ t.nlc.nlde = u.nlc.nlde
  flt : t.flt = u.flt
  lvs : t.lvs = u.lvs
  wgd : t.wgd = u.wgd
  ciu : t.ciu = { u.ciu with travel := t.ciu.travel }
  grants : GrantsStand u t
  pli : t.pli = u.transmitted
  aside : t.aside = State.aside { u with frameOver := u.frameOver || decide (n = 7) }

theorem slotDone (n : Fin 8) (u : State) : SlotDone n u (if n = 7 then (finish u).frameEnd else finish u) := by
  by_cases h : n = 7
  · obtain ⟨v, k, heq⟩ := frameEnd_counts (finish u)
    rw [if_pos h, heq]
    have haside : State.aside { finish u with frameOver := true } = State.aside { u with frameOver := true } := aside_finish { u with frameOver := true }
    refine ⟨fun _ => rfl, fun _ => rfl, finish_node u, ⟨rfl, rfl⟩, rfl, rfl, rfl, rfl, ⟨rfl, rfl, rfl⟩, rfl, ?_⟩
    rw [decide_eq_true h, Bool.or_true]
    exact haside
  · rw [if_neg h]
    refine ⟨fun _ => rfl, fun _ => rfl, finish_node u, ⟨rfl, rfl⟩, rfl, rfl, rfl, rfl, ⟨rfl, rfl, rfl⟩, rfl, ?_⟩
    rw [decide_eq_false h, Bool.or_false]
    exact aside_finish u

theorem exec_slotDone {n : Fin 8} {reply : SlotReply} {s u : State} (hr : s.mode = .running)
    (hc : commit s.closeSlot (s.slotActs n reply) = finish u) : ∃ t, exec (.slotIntake n reply) s = .next t ∧ SlotDone n u t :=
  ⟨_, by simp only [exec, execSlotIntake, running_of hr, if_true, hc], slotDone n u⟩

theorem SlotDone.slotAside {n : Fin 8} {s u t : State} (h : SlotDone n u t) (ha : u.aside = s.aside) : SlotAside n s t := by
  refine aside_of_eq (h.aside.trans ?_)
  simp only [State.aside, Prod.mk.injEq] at ha
  obtain ⟨⟨hframe, hover, hrestart⟩, hsst, ⟨h1, h2, h3, h4⟩, ⟨h5, h6, h7, h8, h9⟩, ⟨h10, h11⟩, h12⟩ := ha
  simp only [State.aside, hframe, hover, hrestart, hsst, h1, h2, h3, h4, h5, h6, h7, h8, h9, h10, h11, h12]

/-! ## What stays in a slot that serves one node -/

/-- From s to t nothing changed but node n, its populated channels, the fault list, the panel link's notices and the TRAVEL line. -/
structure NodeOnly (n : Fin 8) (s t : State) : Prop extends Calm n s t where
  lvs : t.lvs = s.lvs
  nodes : ∀ m, m ≠ n → t.node m = s.node m
  chans : ∀ c, c ∉ s.nodeChans n → t.chan c = s.chan c
  kinds : ∀ c, (t.chan c).kind = (s.chan c).kind
  line : t.nlc.slot = s.nlc.slot ∧ t.nlc.nlde = s.nlc.nlde

theorem NodeOnly.populated {n : Fin 8} {s t : State} (h : NodeOnly n s t) (c : Fin 16) : t.populated c = s.populated c := by
  unfold State.populated
  rw [h.kinds]

theorem NodeOnly.nodeChans {n : Fin 8} {s t : State} (h : NodeOnly n s t) (m : Fin 8) : t.nodeChans m = s.nodeChans m :=
  List.filter_congr fun c _ => h.populated c

theorem NodeOnly.refl (n : Fin 8) (s : State) : NodeOnly n s s :=
  ⟨⟨rfl, rfl, rfl, rfl, rfl, rfl, fun _ _ _ => rfl⟩, rfl, fun _ _ => rfl, fun _ _ => rfl, fun _ => rfl, ⟨rfl, rfl⟩⟩

theorem NodeOnly.trans {n : Fin 8} {s t u : State} (h : NodeOnly n s t) (k : NodeOnly n t u) : NodeOnly n s u where
  toCalm := h.toCalm.trans k.toCalm
  lvs := k.lvs.trans h.lvs
  nodes m hm := (k.nodes m hm).trans (h.nodes m hm)
  chans c hc := (k.chans c (h.nodeChans n ▸ hc)).trans (h.chans c hc)
  kinds c := (k.kinds c).trans (h.kinds c)
  line := ⟨k.line.1.trans h.line.1, k.line.2.trans h.line.2⟩

theorem mem_nodeChans {s : State} {n : Fin 8} {c : Fin 16} : c ∈ s.nodeChans n ↔ (c = chanA n ∨ c = chanB n) ∧ s.populated c = true := by
  simp [State.nodeChans]

theorem nodeOf_mem {s : State} {n : Fin 8} {c : Fin 16} (h : c ∈ s.nodeChans n) : nodeOf c = n := by
  obtain ⟨rfl | rfl, -⟩ := mem_nodeChans.mp h
  · exact nodeOf_chanA n
  · exact nodeOf_chanB n

theorem nodeOnly_setChan {n : Fin 8} {s : State} {c : Fin 16} {x : Channel} (hc : c ∈ s.nodeChans n) (hk : x.kind = (s.chan c).kind) :
    NodeOnly n s (s.setChan c x) := by
  have hne {d : Fin 16} (hd : d ≠ c) : (s.setChan c x).chan d = s.chan d := by rw [State.setChan_chan, if_neg hd]
  obtain ⟨hAB, -⟩ := mem_nodeChans.mp hc
  refine ⟨⟨rfl, rfl, rfl, rfl, rfl, rfl, fun d ha hb => hne fun e => ?_⟩, rfl, fun _ _ => rfl, fun d hd => hne fun e => hd (e ▸ hc),
    fun d => ?_, ⟨rfl, rfl⟩⟩
  · rcases hAB with rfl | rfl
    · exact ha e
    · exact hb e
  · rw [State.setChan_chan]
    split
    · next e => rw [hk, e]
    · rfl

theorem nodeOnly_setNode (n : Fin 8) (s : State) (x : Node) : NodeOnly n s (s.setNode n x) :=
  ⟨⟨rfl, rfl, rfl, rfl, rfl, rfl, fun _ _ _ => rfl⟩, rfl, fun m hm => by rw [State.setNode_node, if_neg hm], fun _ _ => rfl, fun _ => rfl, ⟨rfl, rfl⟩⟩

theorem nodeOnly_modNode (n : Fin 8) (s : State) (f : Node → Node) : NodeOnly n s (s.modNode n f) := nodeOnly_setNode n s _

theorem nodeOnly_setOutRec {n : Fin 8} (s : State) {c : Fin 16} (hc : nodeOf c = n) (o : OutRec) : NodeOnly n s (s.setOutRec c o) := by
  subst hc
  exact nodeOnly_modNode _ s _

theorem nodeOnly_raised (n : Fin 8) (s : State) (k : FaultKind) (sj : Subject) : NodeOnly n s (s.raised k sj) :=
  ⟨⟨aside_offer _ _, rfl, rfl, rfl, rfl, rfl, fun _ _ _ => rfl⟩, rfl, fun _ _ => rfl, fun _ _ => rfl, fun _ => rfl, ⟨rfl, rfl⟩⟩

theorem nodeOnly_evaluated (n : Fin 8) (s : State) : NodeOnly n s s.evaluated :=
  ⟨⟨rfl, rfl, rfl, rfl, rfl, rfl, fun _ _ _ => rfl⟩, rfl, fun _ _ => rfl, fun _ _ => rfl, fun _ => rfl, ⟨rfl, rfl⟩⟩

theorem nodeOnly_modChans {n : Fin 8} (f : Channel → Channel) (hf : ∀ x, (f x).kind = x.kind) :
    ∀ (l : List (Fin 16)) (s : State), (∀ c ∈ l, c ∈ s.nodeChans n) → NodeOnly n s (l.foldl (fun t c => t.modChan c f) s)
  | [], s, _ => .refl n s
  | c :: l, s, h => by
    have hfirst : NodeOnly n s (s.modChan c f) := nodeOnly_setChan (h c List.mem_cons_self) (hf _)
    exact hfirst.trans (nodeOnly_modChans f hf l _ fun d hd => hfirst.nodeChans n ▸ h d (.tail _ hd))

/-- The records of a node's populated channels, changed alike. -/
theorem foldl_nodeChans (f : Channel → Channel) (s t : State) (n : Fin 8) (c : Fin 16) :
    ((s.nodeChans n).foldl (fun t c => t.modChan c f) t).chan c = if c ∈ s.nodeChans n then f (t.chan c) else t.chan c := by
  obtain ⟨v, heq, hother, hmem⟩ := foldl_modChan f (s.nodeChans n) t
  have hnodup : (s.nodeChans n).Nodup := List.Nodup.filter _ (by simp [chanA_ne_chanB])
  rw [heq]
  split
  · exact hmem hnodup c ‹_›
  · exact hother c ‹_›

/-! ## A part at rest during the slot -/

/-- Nothing works or moves, no sequence runs, and no exposed awning is listed. -/
structure AtRest (s : State) : Prop where
  units : ∀ u, (s.unit u).state = .idle
  motions : ∀ c, (s.chan c).motion = none
  level : s.lvs.seq.state = .idle
  parked : Parked s
  unexposed : ∀ e ∈ s.flt.entries, e.kind = .awningExposed → e.present = false

theorem AtRest.still {s : State} (h : AtRest s) : Still s := still_of_rest h.unexposed h.motions

theorem atRest_of_resting {s : State} (h : Resting s) : AtRest s.closeSlot :=
  ⟨fun u => by show (s.unit u).state = _; rw [h.units]; rfl, h.motions, h.level, ⟨h.parked.park, h.parked.alarm⟩,
    fun e he _ => h.faults e he⟩

theorem atRest_of_restingBut {s : State} {k : FaultKind} {sj : Subject} (h : s.RestingBut k sj) (hk : k ≠ .awningExposed) :
    AtRest s.closeSlot := by
  refine ⟨fun u => ?_, h.rest.motions, h.rest.level, ⟨h.rest.parked.park, h.rest.parked.alarm⟩, fun e he hexp => ?_⟩
  · have hunit : s.unit u = .reset := h.rest.units u
    show (s.unit u).state = _
    rw [hunit]
    rfl
  · cases hpr : e.present with
    | false => rfl
    | true => exact absurd ((h.faults e he hpr).1.symm.trans hexp) hk

/-- What serves one node, moves nothing and lists no exposed awning leaves the part at rest. -/
theorem AtRest.after {n : Fin 8} {s t : State} (h : AtRest s) (k : NodeOnly n s t) (hm : ∀ c ∈ s.nodeChans n, (t.chan c).motion = none)
    (hx : ∀ e ∈ t.flt.entries, e.kind = .awningExposed → e.present = false) : AtRest t := by
  refine ⟨fun u => by rw [k.unit, h.units], fun c => ?_, by rw [k.lvs, h.level], k.parked h.parked, hx⟩
  by_cases hc : c ∈ s.nodeChans n
  · exact hm c hc
  · rw [k.chans c hc, h.motions]

theorem AtRest.evaluated {s : State} (h : AtRest s) : AtRest s.evaluated :=
  ⟨h.units, h.motions, h.level, ⟨h.parked.park, h.parked.alarm⟩, h.unexposed⟩

theorem AtRest.raised {s : State} (h : AtRest s) {k : FaultKind} (hk : k ≠ .awningExposed) (sj : Subject) : AtRest (s.raised k sj) :=
  ⟨h.units, h.motions, h.level, parked_raised h.parked k sj, fun e he hexp => (mem_raise he).elim (fun he => h.unexposed e he hexp)
    fun he => absurd (he.1.symm.trans hexp) hk⟩

theorem AtRest.restCheck {s : State} (h : AtRest s) (b : Bool) : Does 2 false [.restCheck b] s s.evaluated :=
  does_restCheck h.still h.parked b

/-! ## The slot's event -/

theorem AtRest.commit {m : Nat} {l : List Act} {s t : State} (h : AtRest t) (hd : Does m false l s t) (hm : m ≤ 4000) : commit s l = finish t :=
  commit_does hd hm h.still h.parked nofun

/-- A VALID slot of a part at rest, from its delivery, its message and its count. -/
theorem exec_validSlot {n : Fin 8} {reply : SlotReply} {f : Status} {s u : State} {m : Nat} (hr : s.mode = .running)
    (hf : statusOf n reply = some f) (ha : (s.node n).state ≠ .absent) (hs : AtRest s.closeSlot) (hu : AtRest u)
    (hd : Does m false (deliveryActs s.closeSlot n f ++ [.message n f.ctl f.data, .countValid n]) s.closeSlot u) (hm : m ≤ 1000) :
    ∃ t, exec (.slotIntake n reply) s = .next t ∧ SlotDone n u t := by
  refine exec_slotDone hr ?_
  have hacts : s.slotActs n reply = deliveryActs s.closeSlot n f ++ [.message n f.ctl f.data, .countValid n] ++
      ([.lvsIntake []] ++ [.restCheck false]) := by
    rw [slotActs_valid hf ha, intake_close]
    unfold State.intakeActs deliveryActs
    simp only [level_had_nil hs.motions, List.append_assoc, List.cons_append, List.nil_append]
  rw [hacts, hu.evaluated.commit (does_append hd (does_append (does_intakeNil hu.level) (hu.restCheck false))) (by omega), finish_evaluated]

/-- A slot without a VALID frame is a miss (R29). -/
theorem slotActs_miss {s : State} {n : Fin 8} {reply : SlotReply} (h : statusOf n reply = none) (ha : (s.node n).state ≠ .absent) :
    s.slotActs n reply = [.countMiss n] := by
  unfold State.slotActs
  rw [if_neg ha, h]

/-- What the answer of a slot that served its own node leaves of the rest. -/
theorem SlotDone.rest {n : Fin 8} {s u t : State} (h : SlotDone n u t) (k : NodeOnly n s.closeSlot u) :
    (∀ m, m ≠ n → t.node m = { s.node m with image := (t.node m).image }) ∧ (∀ c, c ∉ s.nodeChans n → t.chan c = s.chan c) ∧
      (∀ v, t.unit v = s.unit v) ∧ SlotAside n s t ∧ GrantsStand s t ∧ t.lvs = s.lvs ∧ t.wgd = s.wgd ∧ t.ciu.stow = s.ciu.stow ∧
      t.ciu.park = s.ciu.park := by
  have hciu := h.ciu
  rw [k.ciu] at hciu
  obtain ⟨hqueue, hgrants, horder⟩ := h.grants
  refine ⟨fun m hm => ?_, fun c hc => (h.chan c).trans (k.chans c hc), fun v => (h.unit v).trans (k.unit v), h.slotAside k.aside,
    ⟨hqueue.trans (congrArg Sgu.queue k.sgu), hgrants.trans (congrArg Sgu.grants k.sgu), horder.trans (congrArg Sgu.nextOrder k.sgu)⟩,
    h.lvs.trans k.lvs, h.wgd.trans k.wgd, by rw [hciu]; rfl, by rw [hciu]; rfl⟩
  rw [h.node, k.nodes m hm]
  rfl

end Sys2Proof.Machine
end

section
/-! SUPPORT. A slot without a VALID frame (R29, R34, R35). -/

namespace Sys2Proof.Machine

/-- The record of a node after a miss that does not lose it (R32, R34). -/
def Node.missed (x : Node) : Node :=
  { x.dropCandidates with misses := sat 3 x.misses, good := 0, missTotal := sat 65535 x.missTotal }

theorem sat_eq_min (limit n : Nat) : sat limit n = min limit (n + 1) := by
  unfold sat
  split <;> omega

theorem missed_eq (x : Node) : x.missed =
    { x.dropCandidates with misses := min 3 (x.misses + 1), good := 0, missTotal := min 65535 (x.missTotal + 1) } := by
  unfold Node.missed
  rw [sat_eq_min, sat_eq_min]

/-- A miss that does not lose the node (R34, R38). -/
theorem countMiss_counted {s : State} {n : Fin 8}
    (h : (s.node n).state = .ready ∨ (s.node n).state = .discovering → (s.node n).misses < 2) : act (.countMiss n) s =
    { st := s.setNode n (s.node n).missed
      acts := if (s.node n).state = .discovering ∧ (s.node n).xfer = .none ∧ (s.node n).cursor.isSome = true then [.attemptFail n]
        else [] } := by
  have hkept : ¬(((s.node n).state = .ready ∨ (s.node n).state = .discovering) ∧ 3 ≤ (s.node n).missed.misses) := fun ⟨hstate, hlost⟩ => by
    have hless := h hstate
    rw [missed_eq] at hlost
    simp only at hlost
    omega
  simp only [act, actCountMiss]
  exact if_neg hkept

/-- The third miss of a READY or DISCOVERING node (R35): it is LOST and its channels' currents are 0. -/
def State.lose (s : State) (n : Fin 8) : State :=
  (s.nodeChans n).foldl (fun t c => t.modChan c fun z => { z with current := 0 })
    (s.setNode n { (s.node n).missed.stopRead with state := .lost, retry := 0 })

theorem countMiss_lost {s : State} {n : Fin 8} (h : (s.node n).state = .ready ∨ (s.node n).state = .discovering)
    (hm : (s.node n).misses = 2) :
    act (.countMiss n) s = { st := s.lose n, acts := [.raise .nodeLost (.node n), .restCheck false] } := by
  have hlost : ((s.node n).state = .ready ∨ (s.node n).state = .discovering) ∧ 3 ≤ (s.node n).missed.misses :=
    ⟨h, by simp [missed_eq, hm]⟩
  simp only [act, actCountMiss]
  exact if_pos hlost

theorem lose_chan (s : State) (n : Fin 8) (c : Fin 16) :
    (s.lose n).chan c = if c ∈ s.nodeChans n then { s.chan c with current := 0 } else s.chan c := foldl_nodeChans _ s _ n c

theorem lose_eq (s : State) (n : Fin 8) : ∃ v, s.lose n =
    (s.setNode n { (s.node n).missed.stopRead with state := .lost, retry := 0 }).withChans v := by
  obtain ⟨v, heq, -⟩ := foldl_modChan (fun z => { z with current := 0 }) (s.nodeChans n)
    (s.setNode n { (s.node n).missed.stopRead with state := .lost, retry := 0 })
  exact ⟨v, heq⟩

theorem lose_node (s : State) (n : Fin 8) : (s.lose n).node n = { (s.node n).missed.stopRead with state := .lost, retry := 0 } := by
  obtain ⟨v, heq⟩ := lose_eq s n
  rw [heq]
  show (s.setNode n _).node n = _
  rw [State.setNode_node, if_pos rfl]

theorem lose_flt (s : State) (n : Fin 8) : (s.lose n).flt = s.flt := by
  obtain ⟨v, heq⟩ := lose_eq s n
  rw [heq]
  rfl

theorem nodeOnly_lose (s : State) (n : Fin 8) : NodeOnly n s (s.lose n) :=
  (nodeOnly_setNode n s _).trans (nodeOnly_modChans _ (by exact fun _ => rfl) _ _ (by exact fun _ => id))

/-! ## A quiet part -/

/-- An event of a part whose TRAVEL follows its rule, from acts that ask for no examination of the queue. -/
theorem commit_does_same {m : Nat} {l : List Act} {s t : State} (h : Does m false l s t) (hm : m ≤ 4000) (hq : Quiet t) :
    commit s l = finish t := by
  obtain ⟨j, hj, hh⟩ := h
  obtain ⟨d, hd⟩ : ∃ d, fuel = d + 2 + j := ⟨4094 - j, by unfold fuel; omega⟩
  unfold commit
  rw [hd, hh, Bool.or_false, run_rest_same hq.still hq.lines.travel d]

/-- A node record that keeps what its command image depends on leaves a quiet part quiet. -/
theorem quiet_setNode {s : State} (h : Quiet s) {n : Fin 8} {x : Node} (hstate : x.state = (s.node n).state) (hmsg : x.msg = (s.node n).msg)
    (himage : x.image = (s.node n).image) : Quiet (s.setNode n x) := by
  refine ⟨h.running, ⟨h.lines.skew, h.lines.pump, h.lines.travel, fun m => ?_⟩, ⟨h.still.exposed, h.still.jacks⟩⟩
  have hdrive (c : Fin 16) : (s.setNode n x).driveOf c = s.driveOf c := rfl
  have himages := h.lines.images m
  unfold State.imageRule at himages ⊢
  simp only [State.setNode_node, hdrive]
  split
  · next heq =>
    subst heq
    simp only [hstate, hmsg, himage, himages]
  · exact himages

theorem quiet_closeSlot {s : State} (h : Quiet s) : Quiet s.closeSlot :=
  ⟨h.running, ⟨h.lines.skew, h.lines.pump, h.lines.travel, h.lines.images⟩, ⟨h.still.exposed, h.still.jacks⟩⟩

/-- The images of a quiet part go out again. -/
theorem SlotDone.node_quiet {n : Fin 8} {u t : State} (h : SlotDone n u t) (hu : Quiet u) (m : Fin 8) : t.node m = u.node m := by
  rw [h.node, ← hu.lines.images]

end Sys2Proof.Machine

namespace Sys2Proof

open Machine

/-- Settles O12. -/
theorem missIsCounted : Obligations.MissIsCounted := by
  intro n reply s hq hnone habsent hready hdisc
  have hact : act (.countMiss n) s.closeSlot = { st := s.closeSlot.setNode n (s.node n).missed, acts := [] } := by
    rw [countMiss_counted (s := s.closeSlot) (n := n) fun h => h.elim hready fun h => absurd h hdisc,
      if_neg fun h => hdisc h.1]
    rfl
  have hquiet : Quiet (s.closeSlot.setNode n (s.node n).missed) := quiet_setNode (quiet_closeSlot hq) rfl rfl rfl
  obtain ⟨t, hexec, hdone⟩ := exec_slotDone (n := n) (reply := reply) hq.running
    (slotActs_miss hnone habsent ▸ commit_does_same (does_done (by simp) hact (does_nil _)) (by omega) hquiet)
  obtain ⟨-, -, hunits, haside, hgrants, hlvs, hwgd, hstow, hpark⟩ := hdone.rest (nodeOnly_setNode n s.closeSlot (s.node n).missed)
  refine ⟨t, hexec, ?_, fun m hm => ?_, hdone.chan, hunits, hdone.flt, haside, hgrants, hlvs, hwgd, hstow, hpark⟩
  · rw [hdone.node_quiet hquiet, State.setNode_node, if_pos rfl, missed_eq]
  · rw [hdone.node_quiet hquiet, State.setNode_node, if_neg hm]
    rfl

end Sys2Proof
end

section
/-! SUPPORT. What the intake of a VALID frame delivers to one output of a part at rest (R30 to R32, R47, R49, R50, R53, R54, R56). -/

namespace Sys2Proof.Machine

/-! ## What stays when one output is served -/

/-- From s to t nothing changed but the channel and the output record of output c, and the faults listed for it. -/
structure OutputOnly (c : Fin 16) (s t : State) : Prop extends NodeOnly (nodeOf c) s t where
  chanOthers : ∀ d, d ≠ c → t.chan d = s.chan d
  outs : ∀ d, d ≠ c → t.outRec d = s.outRec d
  motion : (t.chan c).motion = (s.chan c).motion
  node : t.node (nodeOf c) = { s.node (nodeOf c) with outA := (t.node (nodeOf c)).outA, outB := (t.node (nodeOf c)).outB }
  listed : ∀ e ∈ t.flt.entries, e ∈ s.flt.entries ∨ (e.subject = .chan c ∧ e.kind ≠ .awningExposed)

theorem OutputOnly.refl (c : Fin 16) (s : State) : OutputOnly c s s :=
  ⟨.refl _ s, fun _ _ => rfl, fun _ _ => rfl, rfl, rfl, fun _ => .inl⟩

theorem OutputOnly.trans {c : Fin 16} {s t u : State} (h : OutputOnly c s t) (k : OutputOnly c t u) : OutputOnly c s u := by
  refine ⟨h.toNodeOnly.trans k.toNodeOnly, fun d hd => (k.chanOthers d hd).trans (h.chanOthers d hd), fun d hd => (k.outs d hd).trans (h.outs d hd),
    k.motion.trans h.motion, ?_, fun e he => (k.listed e he).elim (h.listed e) .inr⟩
  have hnode := k.node
  rw [h.node] at hnode
  exact hnode

theorem OutputOnly.atRest {c : Fin 16} {s t : State} (k : OutputOnly c s t) (h : AtRest s) : AtRest t := by
  refine h.after k.toNodeOnly (fun d _ => ?_) fun e he hexp => (k.listed e he).elim (fun he => h.unexposed e he hexp) fun he =>
    absurd hexp he.2
  by_cases hd : d = c
  · rw [hd, k.motion, h.motions]
  · rw [k.chanOthers d hd, h.motions]

theorem mem_ownNode {s : State} {c : Fin 16} (h : s.populated c = true) : c ∈ s.nodeChans (nodeOf c) :=
  mem_nodeChans.mpr ⟨(by decide : ∀ c : Fin 16, c = chanA (nodeOf c) ∨ c = chanB (nodeOf c)) c, h⟩

theorem outputOnly_setChan {s : State} {c : Fin 16} {x : Channel} (hc : s.populated c = true) (hk : x.kind = (s.chan c).kind := by rfl)
    (hm : x.motion = (s.chan c).motion := by rfl) : OutputOnly c s (s.setChan c x) :=
  ⟨nodeOnly_setChan (mem_ownNode hc) hk, fun d hd => by rw [State.setChan_chan, if_neg hd], fun _ _ => rfl,
    by rw [State.setChan_chan, if_pos rfl, hm], rfl, fun _ => .inl⟩

theorem outputOnly_setOutRec (s : State) (c : Fin 16) (o : OutRec) : OutputOnly c s (s.setOutRec c o) :=
  ⟨nodeOnly_setOutRec s rfl o, fun _ _ => rfl, fun d hd => by rw [outRec_setOutRec, if_neg (Ne.symm hd)], rfl,
    (intakeKeeps_setOutRec s c o).node, fun _ => .inl⟩

theorem outputOnly_raised (s : State) (c : Fin 16) {k : FaultKind} (hk : k ≠ .awningExposed) : OutputOnly c s (s.raised k (.chan c)) :=
  ⟨nodeOnly_raised _ s k _, fun _ _ => rfl, fun _ _ => rfl, rfl, rfl, fun e he => (mem_raise (e := e) he).imp id fun ⟨hkind, hsj⟩ => ⟨hsj, hkind ▸ hk⟩⟩

theorem outputOnly_evaluated (s : State) (c : Fin 16) : OutputOnly c s s.evaluated :=
  ⟨nodeOnly_evaluated _ s, fun _ _ => rfl, fun _ _ => rfl, rfl, rfl, fun _ => .inl⟩

/-- No fault of a kind is listed as present for output c. -/
def State.ClearOf (s : State) (c : Fin 16) (k : FaultKind) : Prop :=
  ∀ e ∈ s.flt.entries, e.kind = k → e.subject = .chan c → e.present = false

theorem does_gone_clear {s : State} {c : Fin 16} {k : FaultKind} (h : s.ClearOf c k) : Does 1 false [.gone k (.chan c)] s s := by
  refine does_done (by simp) ?_ (does_nil _)
  simp only [act]
  unfold actGone
  split
  · rfl
  · next hi =>
    split
    · rfl
    · next he =>
      obtain ⟨hm, hk, hsj⟩ := findFault_some hi he
      simp [h _ hm hk hsj, Out.done]

/-! ## Position (R30) -/

theorem does_counted {s : State} {c : Fin 16} (h : AtRest s) (hc : s.populated c = true) (cnt : BitVec 16) :
    Does 2 false [.position c cnt] s (withPosition s c cnt) ∧ OutputOnly c s (withPosition s c cnt) ∧ AtRest (withPosition s c cnt) := by
  have honly : OutputOnly c s (withPosition s c cnt) := by
    unfold withPosition
    simp only []
    split
    · exact outputOnly_setOutRec s c _
    · exact (outputOnly_setOutRec s c _).trans (outputOnly_setChan hc)
  exact ⟨does_position (h.motions c), honly, honly.atRest h⟩

/-! ## Current, pressure and latch (R31, R53, R54) -/

/-- The latch after a pressure; a motor channel's stands (R53). -/
def State.latchOf (s : State) (c : Fin 16) (p : Nat) : Bool :=
  if (s.chan c).isJack then latchAfter (s.chan c).latch (s.jackPar c) p else (s.chan c).latch


/-- The channel after its current and pressure. -/
def State.sensed (s : State) (c : Fin 16) (i p : Nat) : Channel :=
  { s.chan c with current := i, pressure := if (s.chan c).isJack then p else (s.chan c).pressure, latch := s.latchOf c p }

theorem AtRest.termFail {s : State} (h : AtRest s) (slide awning : Bool) : Does 2 false [.termFail slide awning] s s := by
  have hidle (l : List UnitId) : ∀ e ∈ l.map fun u => ending u .interlock .interlock, (s.unit e.unit).state = .idle := fun e he => by
    obtain ⟨u, -, rfl⟩ := List.mem_map.mp he
    exact h.units u
  exact does_act (by simp) rfl (does_endUnits_idle (hidle _))

theorem AtRest.latchLost {s : State} (h : AtRest s) (c : Fin 16) : Does 1 false [.lvsLatchLost c] s s := by
  refine does_done (by simp) ?_ (does_nil _)
  simp only [act, actLvsLatchLost, h.level, Out.done]

/-- What a change of a jack's latch hands on, in a part at rest (R53, R54). -/
theorem AtRest.latchChange {s : State} (h : AtRest s) (c : Fin 16) (old new : Bool) (hclear : s.ClearOf c .groundLost) :
    ∃ t, Does 8 false (latchActs s c old new) s t ∧
      t = if old = new then s else if new = true then s.evaluated else (s.raised .groundLost (.chan c)).evaluated := by
  have hm : (s.chan c).motion = none := h.motions c
  have hmoves : (s.chan c).moves .retract = false := by simp [Channel.moves, hm]
  have hfor : (s.chan c).movesFor .level = false := by simp [Channel.movesFor, hm]
  cases old <;> cases new
  · exact ⟨s, does_mono (does_nil s) (by omega), rfl⟩
  · refine ⟨s.evaluated, ?_, rfl⟩
    have hacts : latchActs s c false true = [.gone .groundLost (.chan c)] ++ [.restCheck false] := by
      simp [latchActs, hfor]
    rw [hacts]
    exact does_mono (does_append (does_gone_clear hclear) (h.restCheck false)) (by omega)
  · have hr : AtRest (s.raised .groundLost (.chan c)) := h.raised (by decide) _
    refine ⟨_, ?_, rfl⟩
    have hacts : latchActs s c true false = [.raise .groundLost (.chan c)] ++
        ((if (decide (c ∈ cornerChans) && s.par.slidesNeedJacks) = true then [.termFail true false] else []) ++
          ((if decide (c ∈ cornerChans) = true then [.lvsLatchLost c] else []) ++ [.restCheck false])) := by
      simp [latchActs, hmoves]
    rw [hacts]
    have hterm := does_if (b := decide (c ∈ cornerChans) && s.par.slidesNeedJacks) fun _ => hr.termFail true false
    have hlatch := does_if (b := decide (c ∈ cornerChans)) fun _ => hr.latchLost c
    rw [ite_self] at hterm hlatch
    exact does_mono (does_append (does_raise_warn rfl) (does_append hterm (does_append hlatch (hr.restCheck false)))) (by omega)
  · exact ⟨s, does_mono (does_nil s) (by omega), rfl⟩

/-- Current and pressure of one output. -/
theorem does_sensed {s : State} {c : Fin 16} (h : AtRest s) (hc : s.populated c = true) (i p : Nat) (hclear : s.ClearOf c .groundLost) :
    ∃ t, Does 9 false [.electric c i p] s t ∧ OutputOnly c s t ∧ t.chan c = s.sensed c i p ∧ t.outRec c = s.outRec c ∧
      t.flt = if (s.chan c).isJack = true ∧ (s.chan c).latch = true ∧ s.latchOf c p = false then
        (s.flt.raise .groundLost (.chan c) s.frame).1 else s.flt := by
  have hset : OutputOnly c s (s.setChan c (s.sensed c i p)) := outputOnly_setChan hc
  have hrest := hset.atRest h
  by_cases hj : (s.chan c).isJack = true
  · obtain ⟨t, hd, ht⟩ := hrest.latchChange c (s.chan c).latch (s.latchOf c p) hclear
    have hsensed : s.sensed c i p = { s.chan c with
        current := i, pressure := p, latch := latchAfter (s.chan c).latch (s.jackPar c) p } := by
      simp [State.sensed, State.latchOf, hj]
    have hlatch : s.latchOf c p = latchAfter (s.chan c).latch (s.jackPar c) p := if_pos hj
    have hact : act (.electric c i p) s = { st := s.setChan c (s.sensed c i p)
                                            acts := latchActs (s.setChan c (s.sensed c i p)) c (s.chan c).latch (s.latchOf c p) } := by
      have hsupport : supportActs (s.setChan c (s.sensed c i p)) c = [] := by
        have hfor : ((s.setChan c (s.sensed c i p)).chan c).movesFor .level = false := by simp only [Channel.movesFor, hrest.motions c]
        simp only [supportActs, hfor, Bool.and_false, Bool.false_and, Bool.false_eq_true, if_false]
      rw [hsensed] at hsupport ⊢
      rw [hlatch]
      simp only [act, actElectric, hj, if_true, hsupport, List.append_nil]
    refine ⟨t, does_act (by simp) hact hd, ?_⟩
    have hat : (s.setChan c (s.sensed c i p)).chan c = s.sensed c i p := by rw [State.setChan_chan, if_pos rfl]
    by_cases hsame : (s.chan c).latch = s.latchOf c p
    · rw [if_pos hsame] at ht
      subst ht
      refine ⟨hset, hat, rfl, ?_⟩
      rw [if_neg (fun hlost => by simp [hlost.2.2, hlost.2.1] at hsame)]
      rfl
    · rw [if_neg hsame] at ht
      by_cases hnew : s.latchOf c p = true
      · rw [if_pos hnew] at ht
        subst ht
        refine ⟨hset.trans (outputOnly_evaluated _ c), hat, rfl, ?_⟩
        rw [if_neg (fun hlost => by simp [hnew] at hlost)]
        rfl
      · rw [if_neg hnew] at ht
        subst ht
        have hlost : s.latchOf c p = false := by simpa using hnew
        refine ⟨(hset.trans (outputOnly_raised _ c (by decide))).trans (outputOnly_evaluated _ c), hat, rfl, ?_⟩
        rw [if_pos ⟨hj, by simpa [hlost] using hsame, hlost⟩]
        rfl
  · have hsensed : s.sensed c i p = { s.chan c with current := i } := by simp [State.sensed, State.latchOf, hj]
    refine ⟨s.setChan c (s.sensed c i p), ?_, hset, by rw [State.setChan_chan, if_pos rfl], rfl, by rw [if_neg fun hlost => hj hlost.1]; rfl⟩
    have hm : ((s.setChan c (s.sensed c i p)).chan c).motion = none := hrest.motions c
    refine does_mono (does_done (by simp) ?_ (does_nil _)) (by omega : 0 + 1 ≤ 9)
    rw [hsensed] at hm ⊢
    simp only [act, actElectric, hj, State.dragCount, hm]
    rfl

end Sys2Proof.Machine
end

section
/-! SUPPORT. What a condition code delivers to one output of a part at rest (R32, R47, R49, R50, R56). -/

namespace Sys2Proof.Machine

/-! ## The acts of a validated condition -/

/-- A channel that validates a condition code (R47, R49, R56, R163). -/
def Channel.validated (x : Channel) (k : Cond) : Channel :=
  let locked : FaultKind → Channel := fun f =>
    { x with cond := k, lock := some f, state := if x.state = .disabled then .disabled else .faulted }
  match k with
  | .normal | .overtemp => { x with cond := k }
  | .limitRet => { x with cond := k, position := 0, known := true, extendEnd := false }
  | .limitExt => { x with cond := k, extendEnd := x.extendEnd || x.isMotor }
  | .overcurrent => locked .overcurrent
  | .openLoad => locked .openLoad

/-- The fault list after output c validates a condition code: a protection code's fault, and the travel test of a motor's extend
end (R47, R50, R56). -/
def State.validatedFlt (s : State) (c : Fin 16) (k : Cond) (f : Flt) : Flt :=
  match condFault k with
  | some kind => (f.raise kind (.chan c) s.frame).1
  | none =>
    if k = .limitExt ∧ (s.chan c).isMotor = true ∧ s.travelFails c = true then (f.raise .travelMismatch (.chan c) s.frame).1 else f

/-- The STOP and LOCK effects find no work in a part at rest (R162). -/
theorem AtRest.endings {s : State} (h : AtRest s) (l : List UnitId) (e : UnitId → Ending) (he : ∀ u, (e u).unit = u) :
    Does 1 false [.endUnits (l.map e)] s s :=
  does_endUnits_idle fun x hx => by
    obtain ⟨u, -, rfl⟩ := List.mem_map.mp hx
    rw [he]
    exact h.units u

theorem lockAll_one (s : State) (k : FaultKind) {c : Fin 16} (hc : s.populated c = true) :
    s.lockAll k (s.lockChans (.chan c)) = s.modChan c fun x => x.takeLock k := by
  have hone : s.lockChans (.chan c) = [c] := List.filter_cons_of_pos hc
  rw [hone]
  rfl

/-- A LOCK fault of an output at rest is listed and told, and the channel takes the lock (R162, R163). -/
theorem AtRest.lockRaise {s : State} (h : AtRest s) {c : Fin 16} (hc : s.populated c = true) {k : FaultKind} (hk : k.severity = .lock) :
    Does 2 false [.raise k (.chan c)] s ((s.raised k (.chan c)).modChan c fun x => x.takeLock k) := by
  have hx : k ≠ .awningExposed := fun e => by rw [e] at hk; cases hk
  let t := s.raised k (.chan c)
  have hrest : AtRest (t.modChan c fun x => x.takeLock k) :=
    ((outputOnly_raised s c hx).trans (outputOnly_setChan (s := t) (x := (t.chan c).takeLock k) hc)).atRest h
  refine does_act (o := ⟨t.modChan c fun x => x.takeLock k, [.endUnits ((t.reach (.chan c)).map fun u =>
    { unit := u, why := .fault, cause := .fault k, subject := some (.chan c) })]⟩) (by simp) ?_ (hrest.endings _ _ fun _ => rfl)
  show act (.raise k (.chan c)) s = ⟨t.modChan c fun x => x.takeLock k, _⟩
  rw [← lockAll_one t k hc]
  simp only [act, actRaise, State.raised, hk, t]

theorem takeLock_rest {x : Channel} (h : x.motion = none) (k : FaultKind) :
    x.takeLock k = { x with lock := some k, state := if x.state = .disabled then .disabled else .faulted } := by
  unfold Channel.takeLock
  rw [h]
  rfl

/-- A motor's extend end in a part at rest, with its travel test (R47, R50). -/
theorem AtRest.extendEnd {s : State} (h : AtRest s) {c : Fin 16} (hc : s.populated c = true) :
    ∃ t, Does 5 false [.extendEnd c] s t ∧ OutputOnly c s t ∧ t.chan c = { s.chan c with extendEnd := true } ∧ t.outRec c = s.outRec c ∧
      t.flt = if s.travelFails c = true then (s.flt.raise .travelMismatch (.chan c) s.frame).1 else s.flt := by
  let u := s.setChan c { s.chan c with extendEnd := true }
  have hset : OutputOnly c s u := outputOnly_setChan hc
  have hmoves : (s.chan c).moves .extend = false := by simp only [Channel.moves, h.motions]
  have hact : act (.extendEnd c) s = { st := u
                                       acts := (if s.travelFails c = true then [.raise .travelMismatch (.chan c)] else []) ++
                                         [.restCheck false] } := by
    simp only [act, actExtendEnd, hmoves, Bool.false_eq_true, if_false, List.append_nil]
    rfl
  have hat : u.chan c = { s.chan c with extendEnd := true } := by rw [State.setChan_chan, if_pos rfl]
  by_cases hoff : s.travelFails c = true
  · have hraised : OutputOnly c u (u.raised .travelMismatch (.chan c)) := outputOnly_raised u c (by decide)
    refine ⟨(u.raised .travelMismatch (.chan c)).evaluated, does_mono (does_act (by simp) hact ?_) (by omega : 3 + 1 ≤ 5),
      (hset.trans hraised).trans (outputOnly_evaluated _ c), hat, rfl, by rw [if_pos hoff]; rfl⟩
    rw [if_pos hoff]
    exact does_append (does_raise_warn rfl) (((hset.trans hraised).atRest h).restCheck false)
  · refine ⟨u.evaluated, does_mono (does_act (by simp) hact ?_) (by omega : 2 + 1 ≤ 5), hset.trans (outputOnly_evaluated _ c), hat, rfl,
      by rw [if_neg hoff]; rfl⟩
    rw [if_neg hoff]
    exact (hset.atRest h).restCheck false

theorem AtRest.rehome {s : State} (h : AtRest s) {c : Fin 16} (hc : s.populated c = true) :
    Does 3 false [.rehome c] s (s.setChan c (s.chan c).rehomed).evaluated ∧ OutputOnly c s (s.setChan c (s.chan c).rehomed).evaluated := by
  have hset : OutputOnly c s (s.setChan c (s.chan c).rehomed) := outputOnly_setChan hc
  have hmoves : ((s.modChan c Channel.rehomed).chan c).moves .retract = false := by
    simp only [Channel.moves, (show AtRest (s.modChan c Channel.rehomed) from hset.atRest h).motions]
  refine ⟨does_act (o := ⟨s.setChan c (s.chan c).rehomed, [.restCheck false]⟩) (by simp) ?_ ((hset.atRest h).restCheck false), hset.trans (outputOnly_evaluated _ c)⟩
  simp only [act, actRehome, hmoves, Bool.false_eq_true, if_false, List.nil_append]
  rfl

/-- What output c hands on after a validated condition, but for the end of the old code's fault. -/
def newCondActs (s : State) (c : Fin 16) (k : Cond) : List Act :=
  (match condFault k with | some kind => [.raise kind (.chan c)] | none => [])
    ++ (if k = .limitRet then [.rehome c] else [])
    ++ (if k = .limitExt ∧ (s.chan c).isMotor = true ∧ (s.chan c).moves .retract = false then [.extendEnd c] else [])

theorem AtRest.newCond {s : State} (h : AtRest s) {c : Fin 16} (hc : s.populated c = true) {k : Cond} (hk : (s.chan c).cond = k) :
    ∃ t, Does 5 false (newCondActs s c k) s t ∧ OutputOnly c s t ∧ t.chan c = (s.chan c).validated k ∧ t.outRec c = s.outRec c ∧
      t.flt = s.validatedFlt c k s.flt := by
  have hmoves : (s.chan c).moves .retract = false := by simp only [Channel.moves, h.motions]
  have hm := h.motions c
  have hlocked (kind : FaultKind) (hs : kind.severity = .lock) : let t := (s.raised kind (.chan c)).modChan c fun x => x.takeLock kind
      Does 5 false [.raise kind (.chan c)] s t ∧ OutputOnly c s t ∧
        t.chan c = { s.chan c with lock := some kind, state := if (s.chan c).state = .disabled then .disabled else .faulted } := by
    have hx : kind ≠ .awningExposed := fun e => by rw [e] at hs; cases hs
    refine ⟨does_mono (h.lockRaise hc hs) (by omega), (outputOnly_raised s c hx).trans (outputOnly_setChan (s := s.raised kind _) hc), ?_⟩
    rw [State.modChan_chan, if_pos rfl, raised_chan, takeLock_rest hm]
  cases k with
  | normal => exact ⟨s, does_mono (does_nil s) (by omega), .refl c s, by simp [Channel.validated, ← hk], rfl, rfl⟩
  | limitRet =>
    obtain ⟨hd, honly⟩ := h.rehome hc
    refine ⟨_, does_mono (m := 3) ?_ (by omega), honly, ?_, rfl, rfl⟩
    · simpa [newCondActs, condFault] using hd
    · show (s.setChan c (s.chan c).rehomed).chan c = _
      rw [State.setChan_chan, if_pos rfl]
      simp [Channel.validated, Channel.rehomed, ← hk]
  | limitExt =>
    by_cases hmotor : (s.chan c).isMotor = true
    · obtain ⟨t, hd, honly, hchan, hout, hflt⟩ := h.extendEnd hc
      refine ⟨t, ?_, honly, ?_, hout, ?_⟩
      · simpa [newCondActs, condFault, hmotor, hmoves] using hd
      · rw [hchan]
        simp [Channel.validated, hmotor, ← hk]
      · rw [hflt]
        simp [State.validatedFlt, condFault, hmotor]
    · refine ⟨s, does_mono (m := 0) ?_ (by omega), .refl c s, ?_, rfl, ?_⟩
      · simpa [newCondActs, condFault, hmotor] using does_nil s
      · simp [Channel.validated, hmotor, ← hk]
      · simp [State.validatedFlt, condFault, hmotor]
  | overcurrent =>
    obtain ⟨hd, honly, hchan⟩ := hlocked .overcurrent rfl
    exact ⟨_, by simpa [newCondActs, condFault] using hd, honly, by rw [hchan]; simp [Channel.validated, ← hk], rfl, rfl⟩
  | openLoad =>
    obtain ⟨hd, honly, hchan⟩ := hlocked .openLoad rfl
    exact ⟨_, by simpa [newCondActs, condFault] using hd, honly, by rw [hchan]; simp [Channel.validated, ← hk], rfl, rfl⟩
  | overtemp =>
    refine ⟨s.raised .overtemp (.chan c), does_mono (m := 2) ?_ (by omega), outputOnly_raised s c (by decide), ?_, rfl, rfl⟩
    · simpa [newCondActs, condFault] using does_raise_stop_idle (k := .overtemp) (sj := .chan c) rfl h.units
    · simp [Channel.validated, ← hk]

/-! ## A condition code (R32, R49) -/

/-- Output c's channel after a condition code (R32). -/
def State.condChan (s : State) (c : Fin 16) (k : Cond) : Channel :=
  if k ≠ (s.chan c).cond ∧ (s.outRec c).candidate = some k then (s.chan c).validated k else s.chan c

/-- The fault list after a condition code. -/
def State.condFlt (s : State) (c : Fin 16) (k : Cond) : Flt :=
  if k ≠ (s.chan c).cond ∧ (s.outRec c).candidate = some k then s.validatedFlt c k s.flt else s.flt

/-- Output c's candidate after a condition code. -/
def State.condCandidate (s : State) (c : Fin 16) (k : Cond) : Option Cond :=
  if k ≠ (s.chan c).cond ∧ (s.outRec c).candidate ≠ some k then some k else none

theorem validated_cond (x : Channel) (k : Cond) : ({ x with cond := k } : Channel).validated k = x.validated k := by cases k <;> rfl

theorem validatedFlt_cond {s t : State} {c : Fin 16} {k : Cond} (hx : t.chan c = { s.chan c with cond := k }) (hp : t.sst = s.sst)
    (hf : t.frame = s.frame) (f : Flt) : t.validatedFlt c k f = s.validatedFlt c k f := by
  have hfails : t.travelFails c = s.travelFails c := by
    unfold State.travelFails State.motorPar
    rw [hx, hp]
  unfold State.validatedFlt
  rw [hx, hfails, hf]
  rfl

theorem does_cond {s : State} {c : Fin 16} (h : AtRest s) (hc : s.populated c = true) (k : Cond)
    (hhome : (s.chan c).cond = .limitRet → (s.chan c).known = true) (hclear : ∀ kind, condFault (s.chan c).cond = some kind → s.ClearOf c kind) :
    ∃ t, Does 9 false [.condition c k] s t ∧ OutputOnly c s t ∧ t.chan c = s.condChan c k ∧
      t.outRec c = { s.outRec c with candidate := s.condCandidate c k } ∧ t.flt = s.condFlt c k := by
  have hnoHome : ¬((s.chan c).cond = .limitRet ∧ (s.chan c).known = false) := fun ⟨hret, hnot⟩ => by
    rw [hhome hret] at hnot
    cases hnot
  have hout (o : OutRec) : (s.setOutRec c o).outRec c = o := by rw [outRec_setOutRec, if_pos rfl]
  by_cases hsame : k = (s.chan c).cond
  · refine ⟨s.setOutRec c { s.outRec c with candidate := none }, does_mono (does_done (by simp) ?_ (does_nil _)) (by omega : 0 + 1 ≤ 9),
      outputOnly_setOutRec s c _, ?_, ?_, ?_⟩
    · simp only [act, actCondition, if_pos hsame, if_neg hnoHome]
    · simp [State.condChan, hsame, State.setOutRec]
    · rw [hout]
      simp [State.condCandidate, hsame]
    · simp [State.condFlt, hsame, State.setOutRec]
  · by_cases hcand : (s.outRec c).candidate = some k
    · let u := (s.setOutRec c { s.outRec c with candidate := none }).setChan c { s.chan c with cond := k }
      have hu : OutputOnly c s u := (outputOnly_setOutRec s c _).trans (outputOnly_setChan (s := s.setOutRec c _) hc)
      have hat : u.chan c = { s.chan c with cond := k } := by rw [State.setChan_chan, if_pos rfl]
      have hpop : u.populated c = true := (hu.populated c).trans hc
      obtain ⟨t, hd, honly, hchan, houtrec, hflt⟩ := (hu.atRest h).newCond (c := c) (k := k) hpop (congrArg Channel.cond hat)
      have hgone : Does 1 false (match condFault (s.chan c).cond with | some kind => [.gone kind (.chan c)] | none => []) u u := by
        split
        · next kind heq => exact does_gone_clear (hclear kind heq)
        · exact does_mono (does_nil u) (by omega)
      have hact : act (.condition c k) s = { st := u, acts := condActs u c (s.chan c).cond k } := by
        simp only [act, actCondition, if_neg hsame, if_pos hcand]
        rfl
      refine ⟨t.evaluated, does_mono (does_act (by simp) hact ?_) (by omega : 1 + 5 + 2 + 1 ≤ 9), (hu.trans honly).trans (outputOnly_evaluated _ c), ?_,
        ?_, ?_⟩
      · have hacts : condActs u c (s.chan c).cond k = (match condFault (s.chan c).cond with | some kind => [.gone kind (.chan c)] | none => []) ++
            newCondActs u c k ++ [.restCheck false] := by
          unfold condActs newCondActs
          simp only [List.append_assoc] <;> rfl
        rw [hacts]
        exact does_append (does_append hgone hd) ((honly.atRest (hu.atRest h)).restCheck false)
      · show t.chan c = _
        rw [hchan, hat, validated_cond, State.condChan, if_pos ⟨hsame, hcand⟩]
      · show t.outRec c = _
        have hu : u.outRec c = _ := hout { s.outRec c with candidate := none }
        rw [houtrec, hu, State.condCandidate, if_neg fun hboth => hboth.2 hcand]
      · show t.flt = _
        rw [hflt, validatedFlt_cond hat rfl rfl, State.condFlt, if_pos ⟨hsame, hcand⟩]
        rfl
    · refine ⟨s.setOutRec c { s.outRec c with candidate := some k }, does_mono (does_done (by simp) ?_ (does_nil _)) (by omega : 0 + 1 ≤ 9),
        outputOnly_setOutRec s c _, ?_, ?_, ?_⟩
      · simp only [act, actCondition, if_neg hsame, if_neg hcand, if_neg hnoHome]
      · rw [State.condChan, if_neg fun hboth => hcand hboth.2]
        rfl
      · rw [hout, State.condCandidate, if_pos ⟨hsame, hcand⟩]
      · rw [State.condFlt, if_neg fun hboth => hcand hboth.2]
        rfl

end Sys2Proof.Machine
end

section
/-! SUPPORT. What the intake of a VALID frame delivers to a node of a part at rest, output A then output B at each step (R29; log
entry 42). -/

namespace Sys2Proof.Machine

/-! ## The report of one output -/

/-- What a status frame says of one output (TABLE 13-8). -/
structure Report where
  count : BitVec 16
  current : Nat
  pressure : Nat
  cond : Cond

def Status.reportA (f : Status) : Report := ⟨f.countA, f.currentA, f.pressureA, f.condA⟩

def Status.reportB (f : Status) : Report := ⟨f.countB, f.currentB, f.pressureB, f.condB⟩

/-- Output c's channel after its position, current, pressure and latch (R30, R31, R53). -/
def State.read (s : State) (c : Fin 16) (r : Report) : Channel :=
  { s.intakeChan c r.count r.current r.pressure with latch := s.latchOf c r.pressure }

/-- Output c's channel after the whole report (R32). -/
def State.delivered (s : State) (c : Fin 16) (r : Report) : Channel :=
  if r.cond ≠ (s.chan c).cond ∧ (s.outRec c).candidate = some r.cond then (s.read c r).validated r.cond else s.read c r

/-- Output c's record after the whole report (R30, R32). -/
def State.deliveredOut (s : State) (c : Fin 16) (r : Report) : OutRec :=
  { lastCount := some r.count, candidate := s.condCandidate c r.cond }

/-- The fault list after output c's pressure (R54). -/
def State.groundFlt (s : State) (c : Fin 16) (r : Report) (g : Flt) : Flt :=
  if (s.chan c).isJack = true ∧ (s.chan c).latch = true ∧ s.latchOf c r.pressure = false then
    (g.raise .groundLost (.chan c) s.frame).1 else g

/-- The fault list after output c's condition code (R47, R50, R56). -/
def State.reportFlt (s : State) (c : Fin 16) (r : Report) (g : Flt) : Flt :=
  if r.cond ≠ (s.chan c).cond ∧ (s.outRec c).candidate = some r.cond then (s.setChan c (s.read c r)).validatedFlt c r.cond g else g

/-- In t, reached from s, output c has this channel and this record. -/
structure Shows (c : Fin 16) (x : Channel) (o : OutRec) (s t : State) : Prop where
  chan : t.chan c = x
  out : t.outRec c = o
  sst : t.sst = s.sst
  frame : t.frame = s.frame

theorem shows_self (c : Fin 16) (s : State) : Shows c (s.chan c) (s.outRec c) s s := ⟨rfl, rfl, rfl, rfl⟩

/-- A step of another output leaves this one as it was. -/
theorem Shows.other {c d : Fin 16} {x : Channel} {o : OutRec} {s t u : State} (h : Shows c x o s t) (k : OutputOnly d t u) (hne : c ≠ d) :
    Shows c x o s u :=
  ⟨(k.chanOthers c hne).trans h.chan, (k.outs c hne).trans h.out, k.sst.trans h.sst, k.frame.trans h.frame⟩

section
variable {c : Fin 16} {r : Report} {s t : State}

theorem Shows.position (h : Shows c (s.chan c) (s.outRec c) s t) (cnt : BitVec 16) :
    (withPosition t c cnt).chan c = (withPosition s c cnt).chan c ∧
      (withPosition t c cnt).outRec c = { s.outRec c with lastCount := some cnt } := by
  rw [withPosition_chan, withPosition_chan, withPosition_outRec, if_pos rfl, if_pos rfl, if_pos rfl, h.chan, h.out]
  exact ⟨rfl, rfl⟩

variable {o : OutRec} (h : Shows c ((withPosition s c r.count).chan c) o s t)
include h

theorem Shows.latch (p : Nat) : (t.chan c).isJack = (s.chan c).isJack ∧ (t.chan c).latch = (s.chan c).latch ∧ t.latchOf c p = s.latchOf c p := by
  have hchan := h.chan
  rw [withPosition_chan, if_pos rfl] at hchan
  unfold State.latchOf State.jackPar
  rw [hchan, h.sst]
  exact ⟨rfl, rfl, rfl⟩

theorem Shows.sensed : t.sensed c r.current r.pressure = s.read c r := by
  obtain ⟨hjack, -, hlatch⟩ := h.latch r.pressure
  unfold State.sensed State.read
  rw [hlatch, hjack, h.chan, intakeChan_eq, withPosition_chan, if_pos rfl]
end

section
variable {c : Fin 16} {r : Report} {s t : State} (h : Shows c (s.read c r) { s.outRec c with lastCount := some r.count } s t)
include h

theorem Shows.cond : (t.chan c).cond = (s.chan c).cond ∧ (t.chan c).known = (s.chan c).known := by
  rw [h.chan]
  exact ⟨rfl, rfl⟩

theorem Shows.report : t.condChan c r.cond = s.delivered c r ∧ t.condCandidate c r.cond = s.condCandidate c r.cond ∧
    t.condFlt c r.cond = s.reportFlt c r t.flt := by
  have hflt : t.validatedFlt c r.cond t.flt = (s.setChan c (s.read c r)).validatedFlt c r.cond t.flt := by
    unfold State.validatedFlt State.travelFails State.motorPar
    rw [h.chan, h.sst, h.frame, State.setChan_chan, if_pos rfl]
    rfl
  obtain ⟨hcond, -⟩ := h.cond
  unfold State.condChan State.delivered State.condCandidate State.condFlt State.reportFlt
  rw [hcond, h.out, h.chan, hflt]
  exact ⟨rfl, rfl, rfl⟩
end

/-! ## A step of the delivery to an output that may serve no channel -/

/-- From t to u the step of output c has been made: with a populated channel the given values, without one those of s. -/
structure OutputStep (b : Bool) (c : Fin 16) (x : Channel) (o : OutRec) (g : Flt) (s t u : State) : Prop extends OutputOnly c t u where
  rest : AtRest u
  shown : Shows c (if b then x else s.chan c) (if b then o else s.outRec c) s u
  flt : u.flt = if b then g else t.flt

theorem outputStep {m : Nat} {b : Bool} {l : List Act} {c : Fin 16} {x x' : Channel} {o o' : OutRec} {g : Flt} {s t : State} (h : AtRest t)
    (hs : Shows c (if b then x else s.chan c) (if b then o else s.outRec c) s t)
    (hd : b = true → ∃ u, Does m false l t u ∧ OutputOnly c t u ∧ u.chan c = x' ∧ u.outRec c = o' ∧ u.flt = g) :
    ∃ u, Does m false (if b then l else []) t u ∧ OutputStep b c x' o' g s t u := by
  cases b with
  | false => exact ⟨t, does_mono (does_nil t) (Nat.zero_le m), .refl c t, h, hs, rfl⟩
  | true =>
    obtain ⟨u, hu, honly, hchan, hout, hflt⟩ := hd rfl
    exact ⟨u, hu, honly, honly.atRest h, ⟨hchan, hout, honly.sst.trans hs.sst, honly.frame.trans hs.frame⟩, hflt⟩

section
variable {s t : State} (h : AtRest t) {c : Fin 16} {r : Report} {b : Bool} (hpop : t.populated c = b)
include h hpop

theorem step_position (hs : Shows c (s.chan c) (s.outRec c) s t) : ∃ u,
    Does 2 false (if b then [.position c r.count] else []) t u ∧
      OutputStep b c ((withPosition s c r.count).chan c) { s.outRec c with lastCount := some r.count } t.flt s t u := by
  refine outputStep (x := s.chan c) (o := s.outRec c) h (by simpa using hs) fun hc => ?_
  obtain ⟨hd, honly, -⟩ := does_counted h (hpop.trans hc) r.count
  obtain ⟨hchan, hout⟩ := hs.position r.count
  refine ⟨_, hd, honly, hchan, hout, ?_⟩
  unfold withPosition
  simp only []
  split <;> rfl

theorem step_electric (hs : Shows c (if b then (withPosition s c r.count).chan c else s.chan c)
    (if b then { s.outRec c with lastCount := some r.count } else s.outRec c) s t) (hclear : t.ClearOf c .groundLost) : ∃ u,
    Does 9 false (if b then [.electric c r.current r.pressure] else []) t u ∧
      OutputStep b c (s.read c r) { s.outRec c with lastCount := some r.count } (s.groundFlt c r t.flt) s t u := by
  refine outputStep h hs fun hc => ?_
  subst hc
  obtain ⟨u, hd, honly, hchan, hout, hflt⟩ := does_sensed h hpop r.current r.pressure hclear
  obtain ⟨hjack, hlatched, hlatch⟩ := hs.latch r.pressure
  refine ⟨u, hd, honly, hchan.trans hs.sensed, hout.trans hs.out, ?_⟩
  rw [hflt, hjack, hlatched, hlatch, hs.frame]
  rfl

theorem step_condition (hs : Shows c (if b then s.read c r else s.chan c)
    (if b then { s.outRec c with lastCount := some r.count } else s.outRec c) s t)
    (hhome : b = true → (s.chan c).cond = .limitRet → (s.chan c).known = true)
    (hclear : ∀ kind, condFault (t.chan c).cond = some kind → t.ClearOf c kind) : ∃ u,
    Does 9 false (if b then [.condition c r.cond] else []) t u ∧
      OutputStep b c (s.delivered c r) (s.deliveredOut c r) (s.reportFlt c r t.flt) s t u := by
  refine outputStep h hs fun hc => ?_
  subst hc
  obtain ⟨hcond, hknown⟩ := Shows.cond hs
  obtain ⟨hchan, hcandidate, hflt⟩ := Shows.report hs
  obtain ⟨u, hd, honly, huchan, huout, huflt⟩ := does_cond h hpop r.cond (by rw [hcond, hknown]; exact hhome rfl) hclear
  refine ⟨u, hd, honly, huchan.trans hchan, ?_, huflt.trans hflt⟩
  rw [huout, hcandidate, hs.out]
  rfl
end

/-! ## The delivery -/

/-- From s to t the report of output c has been delivered. -/
structure OutputDelivered (c : Fin 16) (r : Report) (s t : State) : Prop where
  chan : s.populated c = true → t.chan c = s.delivered c r
  out : t.outRec c = if s.populated c then s.deliveredOut c r else s.outRec c

/-- The fault list after a delivery to node n: what output A's pressure, output B's pressure, and then their condition codes list. -/
def State.deliveredFlt (s : State) (n : Fin 8) (f : Status) : Flt :=
  let a := s.populated (chanA n)
  let b := s.populated (chanB n)
  let g1 := if a then s.groundFlt (chanA n) f.reportA s.flt else s.flt
  let g2 := if b then s.groundFlt (chanB n) f.reportB g1 else g1
  let g3 := if a then s.reportFlt (chanA n) f.reportA g2 else g2
  if b then s.reportFlt (chanB n) f.reportB g3 else g3

/-- No condition of a channel is listed as present. -/
def State.NoChanFault (s : State) : Prop := ∀ e ∈ s.flt.entries, ∀ c, e.subject = .chan c → e.present = false

theorem mem_groundFlt {s : State} {c : Fin 16} {r : Report} {g : Flt} {e : FaultEntry} (h : e ∈ (s.groundFlt c r g).entries) :
    e ∈ g.entries ∨ e.kind = .groundLost := by
  unfold State.groundFlt at h
  split at h
  · exact (mem_raise h).imp id fun hraised => hraised.1
  · exact .inl h

theorem condFault_not_ground (k : Cond) : condFault k ≠ some .groundLost := by cases k <;> decide

theorem OutputStep.flt_same {b : Bool} {c : Fin 16} {x : Channel} {o : OutRec} {s t u : State} (h : OutputStep b c x o t.flt s t u) :
    u.flt = t.flt := h.flt.trans (ite_self _)

/-- What an electric step lists: the faults before it and a GROUND_LOST of its output. -/
theorem OutputStep.ground {b : Bool} {c : Fin 16} {x : Channel} {o : OutRec} {r : Report} {s t u : State}
    (h : OutputStep b c x o (s.groundFlt c r t.flt) s t u) {e : FaultEntry} (he : e ∈ u.flt.entries) :
    e ∈ t.flt.entries ∨ e.kind = .groundLost := by
  rw [h.flt] at he
  split at he
  · exact mem_groundFlt he
  · exact .inl he

/-- From s to t only the channels and the output records of node n have been served. -/
structure NodeServed (n : Fin 8) (s t : State) : Prop extends NodeOnly n s t where
  node : t.node n = { s.node n with outA := (t.node n).outA, outB := (t.node n).outB }

theorem NodeServed.trans {n : Fin 8} {s t u : State} (h : NodeServed n s t) (k : NodeServed n t u) : NodeServed n s u :=
  ⟨h.toNodeOnly.trans k.toNodeOnly, by have hnode := k.node; rw [h.node] at hnode; exact hnode⟩

theorem OutputOnly.served {c : Fin 16} {n : Fin 8} {s t : State} (h : OutputOnly c s t) (hn : nodeOf c = n) : NodeServed n s t := by
  subst hn
  exact ⟨h.toNodeOnly, h.node⟩

/-- The delivery of a VALID frame to a part at rest (R29 to R32). -/
theorem does_deliver {s : State} (h : AtRest s) (hclear : s.NoChanFault) (n : Fin 8) (f : Status)
    (hA : s.populated (chanA n) = true → (s.chan (chanA n)).cond = .limitRet → (s.chan (chanA n)).known = true)
    (hB : s.populated (chanB n) = true → (s.chan (chanB n)).cond = .limitRet → (s.chan (chanB n)).known = true) :
    ∃ t, Does 40 false (deliveryActs s n f) s t ∧ NodeServed n s t ∧ AtRest t ∧
      OutputDelivered (chanA n) f.reportA s t ∧ OutputDelivered (chanB n) f.reportB s t ∧ t.flt = s.deliveredFlt n f := by
  have hAB := chanA_ne_chanB n
  have hBA := chanB_ne_chanA n
  have hother {c d : Fin 16} (hne : c ≠ d) {e : FaultEntry} (hc : e.subject = .chan c) : ¬(e.subject = .chan d ∧ e.kind ≠ .awningExposed) :=
    fun hd => hne (Subject.chan.inj (hc.symm.trans hd.1))
  have hpop {t : State} (k : NodeServed n s t) (c : Fin 16) : t.populated c = s.populated c := k.populated c
  obtain ⟨s1, d1, k1⟩ := step_position (r := f.reportA) h rfl (shows_self (chanA n) s)
  have n1 : NodeServed n s s1 := k1.served (nodeOf_chanA n)
  obtain ⟨s2, d2, k2⟩ := step_position (r := f.reportB) k1.rest (hpop n1 _) ((shows_self (chanB n) s).other k1.toOutputOnly hBA)
  have n2 := n1.trans (k2.served (nodeOf_chanB n))
  have hflt2 : s2.flt = s.flt := k2.flt_same.trans k1.flt_same
  have hclear2 (c : Fin 16) (k : FaultKind) : s2.ClearOf c k := fun e he _ hsj => hclear e (hflt2 ▸ he) c hsj
  obtain ⟨s3, d3, k3⟩ := step_electric (r := f.reportA) k2.rest (hpop n2 _) (k1.shown.other k2.toOutputOnly hAB) (hclear2 _ _)
  have n3 := n2.trans (k3.served (nodeOf_chanA n))
  have hclear3 (k : FaultKind) : s3.ClearOf (chanB n) k := fun e he hk hsj =>
    (k3.listed e he).elim (fun he => hclear2 _ k e he hk hsj) fun he => absurd he (hother hBA hsj)
  obtain ⟨s4, d4, k4⟩ := step_electric (r := f.reportB) k3.rest (hpop n3 _) (k2.shown.other k3.toOutputOnly hBA) (hclear3 _)
  have n4 := n3.trans (k4.served (nodeOf_chanB n))
  obtain ⟨s5, d5, k5⟩ := step_condition (r := f.reportA) k4.rest (hpop n4 _) (k3.shown.other k4.toOutputOnly hAB) hA
    fun k hk e he hkind hsj => (k4.listed e he).elim (fun he => (k3.ground he).elim (fun he => hclear2 _ k e he hkind hsj) fun hg =>
      absurd hk (hkind ▸ hg ▸ condFault_not_ground _)) fun he => absurd he (hother hAB hsj)
  have n5 := n4.trans (k5.served (nodeOf_chanA n))
  obtain ⟨s6, d6, k6⟩ := step_condition (r := f.reportB) k5.rest (hpop n5 _) (k4.shown.other k5.toOutputOnly hBA) hB
    fun k hk e he hkind hsj => (k5.listed e he).elim (fun he => (k4.ground he).elim (fun he => hclear3 k e he hkind hsj) fun hg =>
      absurd hk (hkind ▸ hg ▸ condFault_not_ground _)) fun he => absurd he (hother hBA hsj)
  have hshownA := k5.shown.other k6.toOutputOnly hAB
  refine ⟨s6, ?_, n5.trans (k6.served (nodeOf_chanB n)), k6.rest, ⟨fun ha => ?_, hshownA.out⟩, ⟨fun hb => ?_, k6.shown.out⟩, ?_⟩
  · exact does_mono (does_append (does_append (does_append (does_append (does_append d1 d2) d3) d4) d5) d6) (by omega)
  · rw [hshownA.chan, if_pos ha]
  · rw [k6.shown.chan, if_pos hb]
  · rw [k6.flt, k5.flt, k4.flt, k3.flt, hflt2]
    rfl

end Sys2Proof.Machine
end

section
/-! SUPPORT. A VALID slot of a part at rest: what a plain report delivers, and what one output that reports more does (R30 to R32, R47,
R49, R50, R53, R54, R56). -/

namespace Sys2Proof.Machine

theorem outRec_chanA (s : State) (n : Fin 8) : s.outRec (chanA n) = (s.node n).outA := by
  have hA : isOutB (chanA n) = false := (by decide : ∀ n : Fin 8, isOutB (chanA n) = false) n
  unfold State.outRec
  rw [nodeOf_chanA]
  simp only [hA, Bool.false_eq_true, if_false]

theorem outRec_chanB (s : State) (n : Fin 8) : s.outRec (chanB n) = (s.node n).outB := by
  have hB : isOutB (chanB n) = true := (by decide : ∀ n : Fin 8, isOutB (chanB n) = true) n
  unfold State.outRec
  rw [nodeOf_chanB]
  simp only [hB, if_true]

/-! ## A plain report -/

/-- A plain report delivers its readings and clears the candidate, and lists nothing (R30 to R32). -/
theorem plain_report {s : State} {c : Fin 16} {r : Report} (h : PlainReport s c r.cond r.pressure) :
    s.delivered c r = s.intakeChan c r.count r.current r.pressure ∧ s.deliveredOut c r = { lastCount := some r.count, candidate := none } ∧
      (∀ g, s.groundFlt c r g = g) ∧ ∀ g, s.reportFlt c r g = g := by
  have hlatch : s.latchOf c r.pressure = (s.chan c).latch := by
    unfold State.latchOf
    split
    · exact h.latch ‹_›
    · rfl
  have hread : s.read c r = s.intakeChan c r.count r.current r.pressure := by
    unfold State.read
    rw [hlatch]
    rfl
  have hsame {p : Prop} : ¬(r.cond ≠ (s.chan c).cond ∧ p) := fun hne => hne.1 h.cond
  refine ⟨?_, ?_, fun g => ?_, fun g => ?_⟩
  · rw [State.delivered, if_neg hsame, hread]
  · rw [State.deliveredOut, State.condCandidate, if_neg hsame]
  · rw [State.groundFlt, if_neg]
    rintro ⟨-, hon, hoff⟩
    rw [hlatch, hon] at hoff
    cases hoff
  · rw [State.reportFlt, if_neg hsame]

/-- What a delivery of two plain reports leaves. -/
structure PlainDelivered (n : Fin 8) (f : Status) (s t : State) : Prop extends NodeServed n s t where
  rest : AtRest t
  readA : s.populated (chanA n) = true → t.chan (chanA n) = s.intakeChan (chanA n) f.countA f.currentA f.pressureA
  readB : s.populated (chanB n) = true → t.chan (chanB n) = s.intakeChan (chanB n) f.countB f.currentB f.pressureB
  outA : (t.node n).outA = if s.populated (chanA n) then { lastCount := some f.countA, candidate := none } else (s.node n).outA
  outB : (t.node n).outB = if s.populated (chanB n) then { lastCount := some f.countB, candidate := none } else (s.node n).outB
  flt : t.flt = s.flt

/-- Both populated outputs of node n report plainly. -/
def PlainSlot (s : State) (n : Fin 8) (f : Status) : Prop :=
  (s.populated (chanA n) = true → PlainReport s (chanA n) f.condA f.pressureA) ∧
    (s.populated (chanB n) = true → PlainReport s (chanB n) f.condB f.pressureB)

theorem plainSlot_closed {s : State} {n : Fin 8} {f : Status} (h : PlainSlot s n f) : PlainSlot s.closeSlot n f :=
  ⟨fun ha => ⟨(h.1 ha).cond, (h.1 ha).home, (h.1 ha).latch⟩, fun hb => ⟨(h.2 hb).cond, (h.2 hb).home, (h.2 hb).latch⟩⟩

theorem deliver_plain {s : State} (h : AtRest s) (hclear : s.NoChanFault) {n : Fin 8} {f : Status} (hplain : PlainSlot s n f) :
    ∃ t, Does 40 false (deliveryActs s n f) s t ∧ PlainDelivered n f s t := by
  obtain ⟨hA, hB⟩ := hplain
  obtain ⟨t, hd, hserved, hrest, kA, kB, hflt⟩ := does_deliver h hclear n f (fun hpop => (hA hpop).home) (fun hpop => (hB hpop).home)
  have hpA (hpop : s.populated (chanA n) = true) := plain_report (r := f.reportA) (hA hpop)
  have hpB (hpop : s.populated (chanB n) = true) := plain_report (r := f.reportB) (hB hpop)
  refine ⟨t, hd, hserved, hrest, fun hpop => (kA.chan hpop).trans (hpA hpop).1, fun hpop => (kB.chan hpop).trans (hpB hpop).1, ?_, ?_, ?_⟩
  · rw [← outRec_chanA, kA.out, ← outRec_chanA]
    split
    · exact (hpA ‹_›).2.1
    · rfl
  · rw [← outRec_chanB, kB.out, ← outRec_chanB]
    split
    · exact (hpB ‹_›).2.1
    · rfl
  · rw [hflt, State.deliveredFlt]
    by_cases ha : s.populated (chanA n) = true <;> by_cases hb : s.populated (chanB n) = true <;>
      simp only [ha, hb, if_true, if_false, Bool.false_eq_true]
    · rw [(hpB hb).2.2.2, (hpA ha).2.2.2, (hpB hb).2.2.1, (hpA ha).2.2.1]
    · rw [(hpA ha).2.2.2, (hpA ha).2.2.1]
    · rw [(hpB hb).2.2.2, (hpB hb).2.2.1]

theorem noChanFault_of_resting {s : State} (h : Resting s) : s.closeSlot.NoChanFault := fun e he _ _ => h.faults e he

theorem noChanFault_of_restingBut {s : State} {k : FaultKind} {n : Fin 8} (h : s.RestingBut k (.node n)) : s.closeSlot.NoChanFault :=
  fun e he c hsj => by
    cases hpr : e.present with
    | false => rfl
    | true => cases (h.faults e he hpr).2.symm.trans hsj

/-! ## A VALID slot of a READY node -/

/-- The state with a node's misses cleared by a VALID slot (R34). -/
def State.counted (t : State) (n : Fin 8) : State := t.setNode n { t.node n with misses := 0 }

theorem nodeOnly_counted (t : State) (n : Fin 8) : NodeOnly n t (t.counted n) := nodeOnly_setNode n t _

theorem AtRest.setNode {s : State} (h : AtRest s) (n : Fin 8) (x : Node) : AtRest (s.setNode n x) :=
  ⟨h.units, h.motions, h.level, ⟨h.parked.park, h.parked.alarm⟩, h.unexposed⟩

theorem counted_node (t : State) (n : Fin 8) : (t.counted n).node n = { t.node n with misses := 0 } := by
  rw [State.counted, State.setNode_node, if_pos rfl]

/-- A VALID slot of a READY node, from its delivery. -/
theorem exec_readySlot {n : Fin 8} {reply : SlotReply} {f : Status} {s t : State} {m : Nat} (hr : s.mode = .running)
    (hf : statusOf n reply = some f) (hready : (s.node n).state = .ready) (hs : AtRest s.closeSlot)
    (hd : Does m false (deliveryActs s.closeSlot n f) s.closeSlot t) (hm : m ≤ 100) (hserved : NodeServed n s.closeSlot t) (ht : AtRest t) :
    ∃ u, exec (.slotIntake n reply) s = .next u ∧ SlotDone n (t.counted n) u := by
  have hstate : (t.node n).state = .ready := by
    rw [hserved.node]
    exact hready
  refine exec_validSlot hr hf (by rw [hready]; nofun) hs (ht.setNode n _)
    (does_append hd (does_append (does_message_ready hstate f.ctl f.data) (does_countValid_ready hstate))) (by omega)

/-! ## One output that reports more -/

theorem latchAfter_eq (latch : Bool) (p : JackParams) (pressure : Nat) : latchAfter latch p pressure =
    if latch then decide ((p.contactThreshold : Int) - p.contactHysteresis ≤ pressure) else decide (p.contactThreshold ≤ pressure) := by
  unfold latchAfter
  cases latch
  · rfl
  · simp only [if_true, ← decide_not, Int.not_lt]

/-- The readings of a report, with the latch written out (R53). -/
theorem read_eq (s : State) (c : Fin 16) (r : Report) : s.read c r = { s.intakeChan c r.count r.current r.pressure with
    latch := if (s.chan c).isJack then
        (if (s.chan c).latch then decide (((s.jackPar c).contactThreshold : Int) - (s.jackPar c).contactHysteresis ≤ r.pressure)
          else decide ((s.jackPar c).contactThreshold ≤ r.pressure)) else (s.chan c).latch } := by
  rw [← latchAfter_eq]
  rfl

theorem groundFlt_eq (s : State) (c : Fin 16) (r : Report) : s.groundFlt c r s.flt =
    if (s.chan c).isJack = true ∧ (s.chan c).latch = true ∧ (if (s.chan c).latch then
        decide (((s.jackPar c).contactThreshold : Int) - (s.jackPar c).contactHysteresis ≤ r.pressure)
      else decide ((s.jackPar c).contactThreshold ≤ r.pressure)) = false then (s.flt.raise .groundLost (.chan c) s.frame).1 else s.flt := by
  have hiff : ((s.chan c).isJack = true ∧ (s.chan c).latch = true ∧ s.latchOf c r.pressure = false) ↔
      ((s.chan c).isJack = true ∧ (s.chan c).latch = true ∧ latchAfter (s.chan c).latch (s.jackPar c) r.pressure = false) := by
    unfold State.latchOf
    constructor <;> rintro ⟨hjack, hrest⟩ <;> exact ⟨hjack, by simpa [hjack] using hrest⟩
  rw [← latchAfter_eq]
  exact if_congr hiff rfl rfl

/-- What a validated code makes of the channel and of the fault list, code by code. -/
theorem validated_cases (s : State) (c : Fin 16) (r : Report) (g : Flt) :
    let y := s.read c r
    let v := y.validated r.cond
    let l := (s.setChan c y).validatedFlt c r.cond g
    let raised := fun kind : FaultKind => (g.raise kind (.chan c) s.frame).1
    let locked := fun kind : FaultKind => ({ y with
      lock := some kind, state := if (s.chan c).state = .disabled then ChanState.disabled else .faulted } : Channel)
    let off := (s.chan c).isMotor = true ∧ (s.chan c).known = true ∧
      (s.motorPar c).endTolerance < (y.position - ((s.motorPar c).travel : Int)).natAbs
    (r.cond = .normal → v = { y with cond := r.cond } ∧ l = g) ∧
    (r.cond = .limitRet → v = { y with cond := r.cond, position := 0, known := true, extendEnd := false } ∧ l = g) ∧
    (r.cond = .limitExt → v = { y with cond := r.cond, extendEnd := y.extendEnd || (s.chan c).isMotor } ∧
      l = if off then raised .travelMismatch else g) ∧
    (r.cond = .overcurrent → v = { locked .overcurrent with cond := r.cond } ∧ l = raised .overcurrent) ∧
    (r.cond = .openLoad → v = { locked .openLoad with cond := r.cond } ∧ l = raised .openLoad) ∧
    (r.cond = .overtemp → v = { y with cond := r.cond } ∧ l = raised .overtemp) := by
  have hat : (s.setChan c (s.read c r)).chan c = s.read c r := by rw [State.setChan_chan, if_pos rfl]
  refine ⟨fun h => ?_, fun h => ?_, fun h => ?ext, fun h => ?_, fun h => ?_, fun h => ?_⟩
  case ext =>
    refine ⟨by rw [h]; rfl, ?_⟩
    show State.validatedFlt _ _ _ _ = _
    unfold State.validatedFlt State.travelFails
    rw [h, hat]
    refine if_congr ?_ rfl rfl
    simp only [Bool.and_eq_true, decide_eq_true_eq, true_and]
    rfl
  all_goals
    show Channel.validated _ _ = _ ∧ State.validatedFlt _ _ _ _ = _
    rw [h]
    exact ⟨rfl, rfl⟩

/-- Output c of node n gives report r, and the other output reports plainly. -/
def OtherPlain (s : State) (n : Fin 8) (f : Status) (c : Fin 16) (r : Report) : Prop :=
  (c = chanA n ∧ r = f.reportA ∧ (s.populated (chanB n) = true → PlainReport s (chanB n) f.condB f.pressureB)) ∨
    (c = chanB n ∧ r = f.reportB ∧ (s.populated (chanA n) = true → PlainReport s (chanA n) f.condA f.pressureA))

/-- A VALID slot in which one output reports anything. -/
theorem exec_oneOutput {n : Fin 8} {reply : SlotReply} {f : Status} {s : State} (h : Resting s) (hready : (s.node n).state = .ready)
    (hf : statusOf n reply = some f) {c : Fin 16} {r : Report} (hc : s.populated c = true)
    (hhome : (s.chan c).cond = .limitRet → (s.chan c).known = true) (hsel : OtherPlain s n f c r) :
    ∃ t u, exec (.slotIntake n reply) s = .next t ∧ SlotDone n (u.counted n) t ∧ NodeServed n s.closeSlot u ∧
      t.chan c = s.delivered c r ∧ t.outRec c = s.deliveredOut c r ∧ t.flt = s.reportFlt c r (s.groundFlt c r s.flt) := by
  have hs := atRest_of_resting h
  have hpop (d : Fin 16) : s.closeSlot.populated d = s.populated d := rfl
  have hA : s.populated (chanA n) = true → (s.chan (chanA n)).cond = .limitRet → (s.chan (chanA n)).known = true := fun ha => by
    rcases hsel with ⟨rfl, -, -⟩ | ⟨-, -, hplain⟩
    · exact hhome
    · exact (hplain ha).home
  have hB : s.populated (chanB n) = true → (s.chan (chanB n)).cond = .limitRet → (s.chan (chanB n)).known = true := fun hb => by
    rcases hsel with ⟨-, -, hplain⟩ | ⟨rfl, -, -⟩
    · exact (hplain hb).home
    · exact hhome
  obtain ⟨u, hd, hserved, hrest, kA, kB, hflt⟩ := does_deliver hs (noChanFault_of_resting h) n f hA hB
  obtain ⟨t, hexec, hdone⟩ := exec_readySlot h.running hf hready hs hd (by omega) hserved hrest
  have hout (d : Fin 16) : t.outRec d = u.outRec d := by
    unfold State.outRec
    have hnode := hdone.node (nodeOf d)
    by_cases hd : nodeOf d = n
    · rw [hd, counted_node] at hnode
      rw [hd, hnode]
    · rw [State.counted, State.setNode_node, if_neg hd] at hnode
      rw [hnode]
  have hflt' : t.flt = s.deliveredFlt n f := hdone.flt.trans hflt
  refine ⟨t, u, hexec, hdone, hserved, ?_⟩
  rw [hdone.chan c, hout c, hflt', State.deliveredFlt]
  rcases hsel with ⟨rfl, rfl, hplain⟩ | ⟨rfl, rfl, hplain⟩
  · refine ⟨kA.chan hc, kA.out.trans (if_pos hc), ?_⟩
    simp only [hc, if_true]
    by_cases hb : s.populated (chanB n) = true
    · obtain ⟨-, -, hground, hreport⟩ := plain_report (r := f.reportB) (hplain hb)
      simp only [hb, if_true, hground, hreport]
    · simp only [hb, if_false, Bool.false_eq_true]
  · refine ⟨kB.chan hc, kB.out.trans (if_pos hc), ?_⟩
    simp only [hc, if_true]
    by_cases ha : s.populated (chanA n) = true
    · obtain ⟨-, -, hground, hreport⟩ := plain_report (r := f.reportA) (hplain ha)
      simp only [ha, if_true, hground, hreport]
    · simp only [ha, if_false, Bool.false_eq_true]

/-- A report that validates nothing, and one that validates a new code. -/
theorem report_split (s : State) (c : Fin 16) (r : Report) (g : Flt) :
    (r.cond = (s.chan c).cond → s.delivered c r = s.read c r ∧ s.reportFlt c r g = g ∧ (s.deliveredOut c r).candidate = none) ∧
    (r.cond ≠ (s.chan c).cond → (s.outRec c).candidate ≠ some r.cond →
      s.delivered c r = s.read c r ∧ s.reportFlt c r g = g ∧ (s.deliveredOut c r).candidate = some r.cond) ∧
    (r.cond ≠ (s.chan c).cond → (s.outRec c).candidate = some r.cond →
      s.delivered c r = (s.read c r).validated r.cond ∧ s.reportFlt c r g = (s.setChan c (s.read c r)).validatedFlt c r.cond g ∧
        (s.deliveredOut c r).candidate = none) := by
  unfold State.delivered State.reportFlt State.deliveredOut State.condCandidate
  refine ⟨fun h => ?_, fun h hcand => ?_, fun h hcand => ?_⟩
  · simp [h]
  · simp [h, hcand]
  · simp [h, hcand]

end Sys2Proof.Machine

namespace Sys2Proof

open Machine

/-- Settles O11. -/
theorem validSlotIsDelivered : Obligations.ValidSlotIsDelivered := by
  refine ⟨fun n reply f s h hready hf hA hB => ?plain, fun n b reply f s h hready hf => ?one⟩
  case plain =>
    obtain ⟨u, hd, hplain⟩ := deliver_plain (atRest_of_resting h) (noChanFault_of_resting h) (plainSlot_closed ⟨hA, hB⟩)
    obtain ⟨t, hexec, hdone⟩ := exec_readySlot h.running hf hready (atRest_of_resting h) hd (by omega) hplain.toNodeServed hplain.rest
    obtain ⟨hnodes, hchans, hunits, haside, hgrants, hlvs, hwgd, hstow, hpark⟩ := hdone.rest (hplain.toNodeOnly.trans (nodeOnly_counted u n))
    have hnode : t.node n = { s.node n with misses := 0, outA := (u.node n).outA, outB := (u.node n).outB, image := (t.node n).image } := by
      rw [hdone.node, counted_node, hplain.node]
      rfl
    refine ⟨t, hexec, fun ha => ⟨(hdone.chan _).trans (hplain.readA ha), ?_⟩, fun hb => ⟨(hdone.chan _).trans (hplain.readB hb), ?_⟩, hchans,
      by rw [hnode]; exact hready, by rw [hnode], by rw [hnode], fun m hm => ?_, hunits, hdone.flt.trans hplain.flt, ?_, ?_, haside, hgrants, hlvs, hwgd, hstow, hpark⟩
    · rw [hnode]
      exact hplain.outA.trans (if_pos ha)
    · rw [hnode]
      exact hplain.outB.trans (if_pos hb)
    · rw [hnodes m hm]
      exact ⟨rfl, rfl, rfl⟩
    · exact hdone.line.1.trans hplain.line.1
    · exact hdone.line.2.trans hplain.line.2
  case one =>
    intro c k pressure x jack latch y raised flt locked off hc hhome hother
    have hsel : ∃ r, OtherPlain s n f c r ∧ r.cond = k ∧ s.read c r = y ∧ s.groundFlt c r s.flt = flt := by
      cases b with
      | false => exact ⟨f.reportA, .inl ⟨rfl, rfl, hother⟩, rfl, read_eq s (chanA n) f.reportA, groundFlt_eq s (chanA n) f.reportA⟩
      | true => exact ⟨f.reportB, .inr ⟨rfl, rfl, hother⟩, rfl, read_eq s (chanB n) f.reportB, groundFlt_eq s (chanB n) f.reportB⟩
    obtain ⟨r, hsel, hcond, hread, hground⟩ := hsel
    obtain ⟨t, u, hexec, hdone, hserved, hchan, hout, hflt⟩ := exec_oneOutput h hready hf hc hhome hsel
    obtain ⟨-, hchans, hunits, haside, hgrants, hlvs, hwgd, hstow, hpark⟩ := hdone.rest (hserved.toNodeOnly.trans (nodeOnly_counted u n))
    obtain ⟨hsame, hnew, hvalid⟩ := report_split s c r (s.groundFlt c r s.flt)
    obtain ⟨c1, c2, c3, c4, c5, c6⟩ := validated_cases s c r (s.groundFlt c r s.flt)
    rw [← hchan, ← hflt, ← hout, hcond, hread, hground] at hsame hnew hvalid
    rw [hcond, hread, hground] at c1 c2 c3 c4 c5 c6
    refine ⟨t, hexec, hchans, hunits, haside, hgrants, hlvs, hwgd, hstow, hpark, hsame, hnew, fun hne hcand => ?_⟩
    obtain ⟨hv, hl, hnone⟩ := hvalid hne hcand
    rw [hv, hl]
    exact ⟨hnone, c1, c2, c3, c4, c5, c6⟩

end Sys2Proof
end

section
/-! SUPPORT. Descriptor reads in a part at rest (R36 to R39, R167). -/

namespace Sys2Proof.Machine

/-! ## The end of NODE_LOST (R167) -/

/-- NODE_LOST of node n may stand alone, or nothing stands. -/
def Flt.LostAlone (f : Flt) (n : Fin 8) : Prop := f.single .nodeLost (.node n) ∨ ∀ e ∈ f.entries, e.present = false

theorem ended_absent {f : Flt} (h : ∀ e ∈ f.entries, e.present = false) (k : FaultKind) (sj : Subject) : f.ended k sj = f := by
  have hmap : (f.entries.map fun e => if e.kind = k ∧ e.subject = sj then { e with present := false } else e) = f.entries := by
    conv_rhs => rw [← List.map_id f.entries]
    refine List.map_congr_left fun e he => ?_
    split
    · rw [← h e he]
      rfl
    · rfl
  unfold Flt.ended
  rw [hmap]

theorem actGone_aside (k : FaultKind) (sj : Subject) (s : State) : (actGone k sj s).st.aside = s.aside := by
  unfold actGone
  split
  · rfl
  · split
    · rfl
    · split
      · exact aside_offer _ _
      · rfl

theorem AtRest.goneLost {s : State} (h : AtRest s) {n : Fin 8} (hf : s.flt.LostAlone n) :
    ∃ t, Does 1 false [.gone .nodeLost (.node n)] s t ∧ NodeOnly n s t ∧ AtRest t ∧ t.node n = s.node n ∧ (∀ c, t.chan c = s.chan c) ∧
      t.flt = s.flt.ended .nodeLost (.node n) := by
  have hgone : ∃ p : Pli, actGone .nodeLost (.node n) s = .done { s with flt := s.flt.ended .nodeLost (.node n), pli := p } := by
    rcases hf with hone | hnone
    · obtain ⟨p, -, heq⟩ := gone_ended .nodeLost (.node n) s hone
      exact ⟨p, heq⟩
    · exact ⟨s.pli, by rw [actGone_absent fun e he _ => hnone e he, ended_absent hnone]⟩
  obtain ⟨p, heq⟩ := hgone
  have haside := actGone_aside .nodeLost (.node n) s
  rw [heq] at haside
  refine ⟨_, does_done (by simp) heq (does_nil _),
    ⟨⟨haside, rfl, rfl, rfl, rfl, rfl, fun _ _ _ => rfl⟩, rfl, fun _ _ => rfl, fun _ _ => rfl, fun _ => rfl, ⟨rfl, rfl⟩⟩,
    ⟨h.units, h.motions, h.level, ⟨h.parked.park, h.parked.alarm⟩, fun e he hexp => ?_⟩, rfl, fun _ => rfl, rfl⟩
  cases hpr : e.present with
  | false => rfl
  | true => rw [← hpr]; exact h.unexposed e (mem_ended he hpr) hexp

/-! ## MISMATCH (R38, R39) -/

/-- From s to u node n has gone to MISMATCH: its channels are DISABLED, NODE_LOST has ended and DESC_MISMATCH is listed. -/
structure Mismatched (n : Fin 8) (cause : MismatchCause) (s u : State) : Prop where
  state : (u.node n).state = .mismatch
  cause : (u.node n).cause = some cause
  desc : (u.node n).desc = (s.node n).desc
  read : (u.node n).cursor = none ∧ (u.node n).scratch = []
  disabled : ∀ c ∈ s.nodeChans n, (u.chan c).state = .disabled
  flt : u.flt = ((s.flt.ended .nodeLost (.node n)).raise .descMismatch (.node n) s.frame).1

theorem AtRest.mismatch {s : State} (h : AtRest s) {n : Fin 8} (hf : s.flt.LostAlone n) (cause : MismatchCause) :
    ∃ u, Does 8 false [.mismatch n cause] s u ∧ NodeOnly n s u ∧ AtRest u ∧ Mismatched n cause s u := by
  let x : Node := { (s.node n).stopRead with state := .mismatch, cause := some cause }
  let t : State := (s.nodeChans n).foldl (fun t c => t.modChan c fun x => { x with state := .disabled }) (s.setNode n x)
  obtain ⟨v, hv, -⟩ := foldl_modChan (fun x => { x with state := .disabled }) (s.nodeChans n) (s.setNode n x)
  have hchan (c : Fin 16) : t.chan c = if c ∈ s.nodeChans n then { s.chan c with state := .disabled } else s.chan c :=
    foldl_nodeChans _ s (s.setNode n x) n c
  have hnode : t.node n = x := by
    show State.node (List.foldl _ _ _) n = x
    rw [hv]
    show (s.setNode n x).node n = x
    rw [State.setNode_node, if_pos rfl]
  have hflt : t.flt = s.flt := (congrArg State.flt hv).trans rfl
  have honly : NodeOnly n s t := (nodeOnly_setNode n s x).trans
    (nodeOnly_modChans _ (by exact fun _ => rfl) (s.nodeChans n) (s.setNode n x) (by exact fun _ => id))
  have hrest : AtRest t := h.after honly (fun c hc => by rw [hchan, if_pos hc]; exact h.motions c) (by rw [hflt]; exact h.unexposed)
  obtain ⟨w, hd, hw, hwrest, hwnode, hwchan, hwflt⟩ := hrest.goneLost (n := n) (by rw [hflt]; exact hf)
  have hraise : Does 2 false [.raise .descMismatch (.node n)] w (w.raised .descMismatch (.node n)) := by
    have hraised : AtRest (w.raised .descMismatch (.node n)) := hwrest.raised (by decide) _
    exact does_act (o := ⟨w.raised .descMismatch (.node n), [.endUnits (((w.raised .descMismatch (.node n)).reach (.node n)).map fun u =>
      { unit := u, why := .fault, cause := .fault .descMismatch, subject := some (.node n) })]⟩) (by simp) rfl (hraised.endings _ _ fun _ => rfl)
  have hraised : AtRest (w.raised .descMismatch (.node n)) := hwrest.raised (by decide) _
  have hact : act (.mismatch n cause) s = { st := t, acts := [.gone .nodeLost (.node n)] ++ ([.raise .descMismatch (.node n)] ++ [.restCheck false]) } := rfl
  have hlast : (w.raised .descMismatch (.node n)).evaluated.node n = x := hwnode.trans hnode
  refine ⟨_, does_mono (does_act (by simp) hact (does_append hd (does_append hraise (hraised.restCheck false)))) (by omega),
    ((honly.trans hw).trans (nodeOnly_raised n w _ _)).trans (nodeOnly_evaluated n _), hraised.evaluated,
    by rw [hlast], by rw [hlast], by rw [hlast]; rfl, by rw [hlast]; exact ⟨rfl, rfl⟩, fun c hc => ?_, ?_⟩
  · show (w.chan c).state = _
    rw [hwchan, hchan, if_pos hc]
  · show (w.flt.raise _ _ w.frame).1 = _
    rw [hwflt, hflt, hw.frame, honly.frame]

/-! ## A failed attempt (R38) -/

/-- From s to u an attempt to read node n's descriptor has failed: ABORT goes out next, or the third failure is a MISMATCH. -/
structure AttemptFailed (n : Fin 8) (s u : State) : Prop where
  again : (s.node n).retry < 2 →
    u.node n = { (s.node n).stopRead with retry := (s.node n).retry + 1, xfer := .abortNext } ∧ u.flt = s.flt
  last : 2 ≤ (s.node n).retry → Mismatched n .transfer s u

theorem AtRest.attemptFail {s : State} (h : AtRest s) {n : Fin 8} (hf : s.flt.LostAlone n) (hstate : (s.node n).state = .discovering) :
    ∃ u, Does 9 false [.attemptFail n] s u ∧ NodeOnly n s u ∧ AtRest u ∧ AttemptFailed n s u ∧ (u.node n).state ≠ .lost := by
  let x : Node := { (s.node n).stopRead with retry := (s.node n).retry + 1, xfer := if (s.node n).retry + 1 < 3 then .abortNext else .none }
  let t := s.setNode n x
  have hact : act (.attemptFail n) s = { st := t, acts := if (s.node n).retry + 1 < 3 then [] else [.mismatch n .transfer] } := rfl
  have hnode : t.node n = x := by rw [State.setNode_node, if_pos rfl]
  have honly := nodeOnly_setNode n s x
  by_cases hagain : (s.node n).retry < 2
  · have hless : (s.node n).retry + 1 < 3 := by omega
    refine ⟨t, does_mono (does_done (by simp) (hact.trans ?_) (does_nil _)) (by omega : 0 + 1 ≤ 9), honly, h.setNode n x,
      ⟨fun _ => ⟨?_, rfl⟩, fun hlast => absurd hagain (by omega)⟩, ?_⟩
    · rw [if_pos hless]
    · rw [hnode]
      simp only [x, if_pos hless]
    · rw [hnode]
      show (s.node n).state ≠ _
      rw [hstate]
      nofun
  · have hmore : ¬(s.node n).retry + 1 < 3 := by omega
    rw [if_neg hmore] at hact
    obtain ⟨u, hd, hu, hrest, k⟩ := (h.setNode n x).mismatch (n := n) hf .transfer
    refine ⟨u, does_act (by simp) hact hd, honly.trans hu, hrest, ⟨fun hless => absurd hless hagain, fun _ =>
      ⟨k.state, k.cause, k.desc.trans (by rw [hnode]; rfl), k.read, k.disabled, k.flt⟩⟩, ?_⟩
    rw [k.state]
    nofun

/-! ## A descriptor that is whole (R39) -/

/-- From s to u node n's descriptor l has been judged and is held. -/
structure DescJudged (n : Fin 8) (l : List Byte) (s u : State) : Prop where
  held : (u.node n).desc = some l ∧ (u.node n).cursor = none ∧ (u.node n).scratch = []
  accepted : s.descFault n l = none → (u.node n).state = .ready ∧ (u.node n).retry = 0 ∧ u.flt = s.flt.ended .nodeLost (.node n)
  rejected : ∀ cause, s.descFault n l = some cause → (u.node n).state = .mismatch ∧ (u.node n).cause = some cause ∧
    (∀ c ∈ s.nodeChans n, (u.chan c).state = .disabled) ∧
    u.flt = ((s.flt.ended .nodeLost (.node n)).raise .descMismatch (.node n) s.frame).1

theorem AtRest.judgeDesc {s : State} (h : AtRest s) {n : Fin 8} (hf : s.flt.LostAlone n) (l : List Byte) :
    ∃ u, Does 9 false (s.judgeDesc n l).acts (s.judgeDesc n l).st u ∧ NodeOnly n s u ∧ AtRest u ∧ DescJudged n l s u ∧ (u.node n).state ≠ .lost := by
  cases hfault : s.descFault n l with
  | none =>
    let t := s.setNode n { (s.node n).stopRead with state := .ready, desc := some l, retry := 0 }
    have hjudge : s.judgeDesc n l = { st := t, acts := [.gone .nodeLost (.node n)] } := by
      unfold State.judgeDesc
      rw [hfault]
      rfl
    obtain ⟨u, hd, hu, hrest, hnode, -, hflt⟩ := (h.setNode n { (s.node n).stopRead with state := .ready, desc := some l, retry := 0 }).goneLost (n := n) hf
    have hlast : u.node n = { (s.node n).stopRead with state := .ready, desc := some l, retry := 0 } := by
      rw [hnode, State.setNode_node, if_pos rfl]
    rw [hjudge]
    refine ⟨u, does_mono hd (by omega), (nodeOnly_setNode n s _).trans hu, hrest, ⟨?_, fun _ => ?_, fun cause hc => ?_⟩, ?_⟩
    · rw [hlast]
      exact ⟨rfl, rfl, rfl⟩
    · rw [hlast]
      exact ⟨rfl, rfl, hflt⟩
    · rw [hfault] at hc
      cases hc
    · rw [hlast]
      nofun
  | some cause =>
    let t := s.setNode n { s.node n with desc := some l }
    have hjudge : s.judgeDesc n l = { st := t, acts := [.mismatch n cause] } := by
      unfold State.judgeDesc
      rw [hfault]
      rfl
    have hnode : t.node n = { s.node n with desc := some l } := by rw [State.setNode_node, if_pos rfl]
    obtain ⟨u, hd, hu, hrest, k⟩ := (h.setNode n { s.node n with desc := some l }).mismatch (n := n) hf cause
    rw [hjudge]
    refine ⟨u, does_mono hd (by omega), (nodeOnly_setNode n s _).trans hu, hrest, ⟨⟨k.desc.trans (by rw [hnode]), k.read⟩, fun hc => ?_, fun c hc => ?_⟩, ?_⟩
    · rw [hfault] at hc
      cases hc
    · rw [hfault] at hc
      cases hc
      exact ⟨k.state, k.cause, k.disabled, k.flt⟩
    · rw [k.state]
      nofun

end Sys2Proof.Machine
end

section
/-! SUPPORT. The message channel of a node that reads its descriptor (R37, R38), and its slot. -/

namespace Sys2Proof.Machine

/-! ## One message -/

/-- From s to u a byte has come for node n's read at cursor k: it joins, fails the attempt, or completes the descriptor (R37). -/
structure ReadStep (n : Fin 8) (k : Nat) (ctl data : Byte) (s u : State) : Prop where
  joins : ctl = expectedCtl k → k < 9 →
    u.node n = { s.node n with scratch := (s.node n).scratch ++ [data], cursor := some (k + 1) } ∧ u.flt = s.flt
  fails : ctl ≠ expectedCtl k ∨ (¬k < 9 ∧ descSum ((s.node n).scratch ++ [data]) ≠ 0) → AttemptFailed n s u
  whole : ctl = expectedCtl k → ¬k < 9 → descSum ((s.node n).scratch ++ [data]) = 0 → DescJudged n ((s.node n).scratch ++ [data]) s u

theorem AtRest.message {s : State} (h : AtRest s) {n : Fin 8} (hf : s.flt.LostAlone n) (hstate : (s.node n).state = .discovering)
    (hxfer : (s.node n).xfer = .none) {k : Nat} (hk : (s.node n).cursor = some k) (ctl data : Byte) :
    ∃ u, Does 10 false [.message n ctl data] s u ∧ NodeOnly n s u ∧ AtRest u ∧ ReadStep n k ctl data s u ∧ (u.node n).state ≠ .lost := by
  let l := (s.node n).scratch ++ [data]
  have hact : act (.message n ctl data) s =
      if ctl = expectedCtl k then
        (if k < 9 then .done (s.setNode n { s.node n with scratch := l, cursor := some (k + 1) })
        else if descSum l = 0 then (s.setNode n { (s.node n).stopRead with scratch := [] }).judgeDesc n l
        else { st := s, acts := [.attemptFail n] })
      else { st := s, acts := [.attemptFail n] } := by
    simp only [act, actMessage, hstate, hxfer, hk, l]
  by_cases hctl : ctl = expectedCtl k
  · rw [if_pos hctl] at hact
    by_cases hless : k < 9
    · rw [if_pos hless] at hact
      have hnode : (s.setNode n { s.node n with scratch := l, cursor := some (k + 1) }).node n =
          { s.node n with scratch := l, cursor := some (k + 1) } := by rw [State.setNode_node, if_pos rfl]
      refine ⟨_, does_mono (does_done (by simp) hact (does_nil _)) (by omega : 0 + 1 ≤ 10), nodeOnly_setNode n s _, h.setNode n _,
        ⟨fun _ _ => ⟨hnode, rfl⟩, fun hfail => ?_, fun _ hnot => absurd hless hnot⟩, ?_⟩
      · exact (hfail.elim (fun hne => hne hctl) fun hend => hend.1 hless).elim
      · rw [hnode]
        show (s.node n).state ≠ _
        rw [hstate]
        nofun
    · rw [if_neg hless] at hact
      by_cases hsum : descSum l = 0
      · rw [if_pos hsum] at hact
        let t := s.setNode n { (s.node n).stopRead with scratch := [] }
        obtain ⟨u, hd, hu, hrest, kjudged, hlost⟩ := (h.setNode n { (s.node n).stopRead with scratch := [] }).judgeDesc (n := n) hf l
        have hfault : t.descFault n l = s.descFault n l := descFault_congr (fun _ => rfl) (fun _ => rfl) (by
          rw [State.setNode_node, if_pos rfl]
          rfl)
        refine ⟨u, does_act (by simp) hact hd, (nodeOnly_setNode n s _).trans hu, hrest,
          ⟨fun _ hle => absurd hle hless, fun hfail => ?_, fun _ _ _ => ⟨kjudged.held, fun hnone => ?_, fun cause hsome => ?_⟩⟩, hlost⟩
        · exact (hfail.elim (fun hne => hne hctl) fun hend => hend.2 hsum).elim
        · exact kjudged.accepted (hfault.trans hnone)
        · exact kjudged.rejected cause (hfault.trans hsome)
      · rw [if_neg hsum] at hact
        obtain ⟨u, hd, hu, hrest, kfail, hlost⟩ := h.attemptFail hf hstate
        exact ⟨u, does_act (by simp) hact hd, hu, hrest, ⟨fun _ hle => absurd hle hless, fun _ => kfail, fun _ _ hzero => absurd hzero hsum⟩, hlost⟩
  · rw [if_neg hctl] at hact
    obtain ⟨u, hd, hu, hrest, kfail, hlost⟩ := h.attemptFail hf hstate
    exact ⟨u, does_act (by simp) hact hd, hu, hrest, ⟨fun he => absurd he hctl, fun _ => kfail, fun he => absurd he hctl⟩, hlost⟩

/-! ## The slot of a node that reads -/

/-- The part rests, but that NODE_LOST of node n may stand. -/
structure RestsFor (n : Fin 8) (s : State) : Prop where
  running : s.mode = .running
  rest : AtRest s.closeSlot
  clear : s.closeSlot.NoChanFault
  alone : s.flt.LostAlone n

theorem restsFor {n : Fin 8} {s : State} (h : Resting s ∨ s.RestingBut .nodeLost (.node n)) : RestsFor n s := by
  rcases h with h | h
  · exact ⟨h.running, atRest_of_resting h, noChanFault_of_resting h, .inr h.faults⟩
  · exact ⟨h.rest.running, atRest_of_restingBut h (by decide), noChanFault_of_restingBut h, .inl h.single⟩

theorem does_countValid_kept {s : State} {n : Fin 8} (h : (s.node n).state ≠ .lost) : Does 1 false [.countValid n] s (s.counted n) := by
  refine does_done (by simp) ?_ (does_nil _)
  simp only [act, actCountValid, if_neg h]
  rfl

/-- A VALID slot of a node that reads its descriptor: delivery, message and count. -/
theorem exec_readingSlot {n : Fin 8} {reply : SlotReply} {f : Status} {s : State} {k : Nat} (h : RestsFor n s)
    (hstate : (s.node n).state = .discovering) (hxfer : (s.node n).xfer = .none) (hk : (s.node n).cursor = some k)
    (hf : statusOf n reply = some f) (hplain : PlainSlot s n f) :
    ∃ t v u, exec (.slotIntake n reply) s = .next t ∧ SlotDone n (u.counted n) t ∧ NodeOnly n s.closeSlot u ∧
      PlainDelivered n f s.closeSlot v ∧ ReadStep n k f.ctl f.data v u := by
  obtain ⟨v, hd, hv⟩ := deliver_plain h.rest h.clear (plainSlot_closed hplain)
  have hnode := hv.node
  obtain ⟨u, hmsg, hu, hrest, kread, hlost⟩ := hv.rest.message (n := n) (by rw [hv.flt]; exact h.alone) (by rw [hnode]; exact hstate)
    (by rw [hnode]; exact hxfer) (k := k) (by rw [hnode]; exact hk) f.ctl f.data
  obtain ⟨t, hexec, hdone⟩ := exec_validSlot h.running hf (by rw [hstate]; nofun) h.rest (hrest.setNode n _)
    (does_append hd (does_append hmsg (does_countValid_kept hlost))) (by omega)
  exact ⟨t, v, u, hexec, hdone, hv.toNodeOnly.trans hu, hv, kread⟩

/-- A miss of a node that reads its descriptor fails the attempt (R38). -/
theorem exec_readingMiss {n : Fin 8} {reply : SlotReply} {s : State} {k : Nat} (h : RestsFor n s)
    (hstate : (s.node n).state = .discovering) (hxfer : (s.node n).xfer = .none) (hk : (s.node n).cursor = some k)
    (hf : statusOf n reply = none) (hm : (s.node n).misses < 2) :
    ∃ t u, exec (.slotIntake n reply) s = .next t ∧ SlotDone n u t ∧ NodeOnly n s.closeSlot u ∧
      AttemptFailed n (s.closeSlot.setNode n (s.node n).missed) u := by
  have hnode : (s.closeSlot.setNode n (s.node n).missed).node n = (s.node n).missed := by rw [State.setNode_node, if_pos rfl]
  have hact : act (.countMiss n) s.closeSlot = { st := s.closeSlot.setNode n (s.node n).missed, acts := [.attemptFail n] } := by
    rw [countMiss_counted (s := s.closeSlot) (n := n) fun _ => hm, if_pos ⟨hstate, hxfer, by show (s.node n).cursor.isSome = true; rw [hk]; rfl⟩]
    rfl
  obtain ⟨u, hd, hu, hrest, kfail, -⟩ := (h.rest.setNode n (s.node n).missed).attemptFail (n := n) h.alone (by rw [hnode]; exact hstate)
  obtain ⟨t, hexec, hdone⟩ := exec_slotDone (n := n) (reply := reply) h.running (by
    rw [slotActs_miss hf (by rw [hstate]; nofun)]
    exact hrest.commit (does_act (by simp) hact hd) (by omega))
  exact ⟨t, u, hexec, hdone, (nodeOnly_setNode n s.closeSlot _).trans hu, kfail⟩

/-! ## What the answer shows of the read -/

/-- An attempt that has failed, as the answer shows it. -/
theorem failed_shown {n : Fin 8} {s v u t : State} (hnode : ∃ i m, t.node n = { u.node n with image := i, misses := m }) (hflt : t.flt = u.flt)
    (hchan : ∀ c, t.chan c = u.chan c) (k : AttemptFailed n v u) (hretry : (v.node n).retry = (s.node n).retry) (hstate : (v.node n).state = .discovering)
    (hdesc : (v.node n).desc = (s.node n).desc) (hchans : v.nodeChans n = s.nodeChans n) (hvflt : v.flt = s.flt) (hframe : v.frame = s.frame) :
    ((s.node n).retry < 2 → (t.node n).state = .discovering ∧ (t.node n).retry = (s.node n).retry + 1 ∧
        (t.node n).xfer = .abortNext ∧ (t.node n).cursor = none ∧ (t.node n).scratch = [] ∧ t.flt = s.flt) ∧
      (2 ≤ (s.node n).retry → (t.node n).state = .mismatch ∧ (t.node n).cause = some .transfer ∧
        (t.node n).desc = (s.node n).desc ∧ (∀ c, c ∈ s.nodeChans n → (t.chan c).state = .disabled) ∧
        t.flt = ((s.flt.ended .nodeLost (.node n)).raise .descMismatch (.node n) s.frame).1) := by
  obtain ⟨i, m, hnode⟩ := hnode
  rw [hnode, hflt]
  refine ⟨fun hless => ?_, fun hmore => ?_⟩
  · obtain ⟨hagain, hsame⟩ := k.again (hretry ▸ hless)
    rw [hagain, hsame]
    exact ⟨hstate, congrArg (· + 1) hretry, rfl, rfl, rfl, hvflt⟩
  · have hlast := k.last (hretry ▸ hmore)
    exact ⟨hlast.state, hlast.cause, hlast.desc.trans hdesc, fun c hc => hchan c ▸ hlast.disabled c (hchans ▸ hc),
      by rw [hlast.flt, hvflt, hframe]⟩

end Sys2Proof.Machine

namespace Sys2Proof

open Machine

/-- Settles O14. -/
theorem descriptorIsJudged : Obligations.DescriptorIsJudged := by
  refine ⟨fun n reply f s hr hstate hxfer hk _ hf hctl hsum hA hB => ?whole, fun n reply k s hr hstate hxfer hk hle hplain hmiss => ?step⟩
  case whole =>
    have h := restsFor hr
    obtain ⟨t, v, u, hexec, hdone, honly, hv, kread⟩ := exec_readingSlot h hstate hxfer hk hf ⟨hA, hB⟩
    obtain ⟨hnodes, hchans, hunits, haside, hgrants, hlvs, hwgd, hstow, hpark⟩ := hdone.rest (honly.trans (nodeOnly_counted u n))
    have hvnode : (v.node n).scratch = (s.node n).scratch := by rw [hv.node]; rfl
    have hjudged := kread.whole hctl (by omega) (by rw [hvnode]; exact hsum)
    have hnode : t.node n = { u.node n with misses := 0, image := (u.counted n).imageRule n } := by rw [hdone.node, counted_node]
    have hfault : v.descFault n ((s.node n).scratch ++ [f.data]) = s.descFault n ((s.node n).scratch ++ [f.data]) :=
      descFault_congr hv.kinds (fun r => by unfold State.room; rw [hv.rooms]; rfl) (by rw [hv.node]; rfl)
    rw [hvnode] at hjudged
    have hflt : t.flt = u.flt := hdone.flt
    refine ⟨t, hexec, ?_, ?_, ?_, hnodes, hchans, hunits, haside, hgrants, hlvs, hwgd, hstow, hpark, fun hnone => ?_, fun cause hsome => ?_⟩
    · rw [hnode]; exact hjudged.held.1
    · rw [hnode]; exact hjudged.held.2.1
    · rw [hnode]; exact hjudged.held.2.2
    · obtain ⟨hready, hretry, hended⟩ := hjudged.accepted (hfault.trans hnone)
      rw [hnode, hflt, hended, hv.flt]
      exact ⟨hready, hretry, rfl⟩
    · obtain ⟨hmis, hcause, hdisabled, hended⟩ := hjudged.rejected cause (hfault.trans hsome)
      refine ⟨by rw [hnode]; exact hmis, by rw [hnode]; exact hcause, ?_, fun c hc => ?_, ?_⟩
      · rw [hnode]
        show (u.counted n).imageRule n = _
        unfold State.imageRule
        simp only [counted_node, hmis]
      · rw [hdone.chan]
        exact hdisabled c ((hv.nodeChans n).symm ▸ hc)
      · rw [hflt, hended, hv.flt, hv.frame]
        rfl
  case step =>
    have h := restsFor hr
    intro expected joins fails
    have hexpected : expected = expectedCtl k := rfl
    cases hf : statusOf n reply with
    | none =>
      obtain ⟨t, u, hexec, hdone, honly, kfail⟩ := exec_readingMiss h hstate hxfer hk hf (hmiss hf)
      have hrest := hdone.rest honly
      have hmissed : (s.closeSlot.setNode n (s.node n).missed).node n = (s.node n).missed := by rw [State.setNode_node, if_pos rfl]
      obtain ⟨hagain, hlast⟩ := failed_shown (s := s) ⟨u.imageRule n, (u.node n).misses, by rw [hdone.node]⟩ hdone.flt hdone.chan kfail
        (by rw [hmissed]; rfl) (by rw [hmissed]; exact hstate) (by rw [hmissed]; rfl) rfl rfl rfl
      exact ⟨t, hexec, fun ⟨_, hsome, _⟩ => (by cases hf.symm.trans hsome), fun _ => hagain, fun _ => hlast, hrest⟩
    | some f =>
      obtain ⟨t, v, u, hexec, hdone, honly, hv, kread⟩ := exec_readingSlot h hstate hxfer hk hf (hplain f hf)
      have hrest := hdone.rest (honly.trans (nodeOnly_counted u n))
      have hflt : t.flt = u.flt := hdone.flt
      have hvnode := hv.node
      have hscratch : (v.node n).scratch = (s.node n).scratch := by rw [hvnode]; rfl
      have hnode : t.node n = { u.node n with image := (u.counted n).imageRule n, misses := 0 } := by rw [hdone.node, counted_node]
      refine ⟨t, hexec, fun ⟨g, hsome, hctl, hless⟩ g' hsome' => ?joins, fun hfail => ?again, fun hfail => ?last, hrest⟩
      case joins =>
        cases hf.symm.trans hsome
        cases hsome'
        obtain ⟨hread, hsame⟩ := kread.joins hctl hless
        rw [hnode, hflt, hread, hsame, hvnode, hv.flt]
        exact ⟨hstate, rfl, rfl, rfl, rfl⟩
      all_goals
        have hbad : f.ctl ≠ expectedCtl k ∨ (¬k < 9 ∧ descSum ((v.node n).scratch ++ [f.data]) ≠ 0) := by
          rcases hfail with hnone | ⟨g, hsome, hbad⟩
          · cases hf.symm.trans hnone
          · cases hf.symm.trans hsome
            rw [hscratch]
            exact hbad.imp id fun ⟨h9, hsum⟩ => ⟨by omega, hsum⟩
        have hshown := failed_shown (s := s) ⟨_, _, hnode⟩ hflt hdone.chan (kread.fails hbad) (by rw [hvnode]; rfl)
          (by rw [hvnode]; exact hstate) (by rw [hvnode]; rfl) (hv.nodeChans n) hv.flt hv.frame
      case again => exact hshown.1
      case last => exact hshown.2

end Sys2Proof
end

section
/-! SUPPORT. The loss and the return of a node of a part at rest (R34 to R36). -/

namespace Sys2Proof.Machine

theorem imageRule_lost {s : State} {n : Fin 8} (h : (s.node n).state = .lost) : s.imageRule n = .off := by
  unfold State.imageRule
  simp only [h]

/-- The third miss of a READY node of a part at rest (R35). -/
theorem exec_lostSlot {n : Fin 8} {reply : SlotReply} {s : State} (h : Resting s) (hf : statusOf n reply = none)
    (hready : (s.node n).state = .ready) (hm : (s.node n).misses = 2) :
    ∃ t, exec (.slotIntake n reply) s = .next t ∧ SlotDone n ((s.closeSlot.lose n).raised .nodeLost (.node n)) t := by
  have hlose : NodeOnly n s.closeSlot (s.closeSlot.lose n) := nodeOnly_lose _ _
  have hrest : AtRest (s.closeSlot.lose n) := (atRest_of_resting h).after hlose
    (fun c hc => by rw [lose_chan, if_pos hc]; exact h.motions c) (by rw [lose_flt]; exact (atRest_of_resting h).unexposed)
  have hraised : AtRest ((s.closeSlot.lose n).raised .nodeLost (.node n)) := hrest.raised (by decide) _
  refine exec_slotDone h.running ?_
  rw [slotActs_miss hf (by rw [hready]; nofun)]
  have hd := does_act (by simp) (countMiss_lost (s := s.closeSlot) (.inl hready) hm)
    (does_append (l := [.raise .nodeLost (.node n)]) (does_raise_stop_idle rfl hrest.units) (hraised.restCheck false))
  rw [hraised.evaluated.commit hd (by omega), finish_evaluated]

/-! ## Two VALID slots in a row (R34, R36) -/

theorem does_message_apart {s : State} {n : Fin 8} (h : (s.node n).state ≠ .discovering) (ctl data : Byte) :
    Does 1 false [.message n ctl data] s s := by
  refine does_done (by simp) ?_ (does_nil _)
  simp only [act, actMessage]
  split
  · next hstate _ _ => exact absurd hstate h
  · rfl

/-- A LOST node after its first VALID slot, and after the second. -/
def State.firstGood (s : State) (n : Fin 8) : State := s.setNode n { s.node n with misses := 0, good := (s.node n).good + 1 }

def State.returned (s : State) (n : Fin 8) : State := (s.setNode n { (s.node n).startRead with misses := 0 }).forgetMotors n

theorem returned_chan (s : State) (n : Fin 8) (c : Fin 16) : (s.returned n).chan c =
    if c ∈ s.nodeChans n then (if (s.chan c).isMotor then (s.chan c).forget else s.chan c) else s.chan c :=
  foldl_nodeChans (fun x => if x.isMotor then x.forget else x) s (s.setNode n { (s.node n).startRead with misses := 0 }) n c

theorem nodeOnly_returned (s : State) (n : Fin 8) : NodeOnly n s (s.returned n) :=
  (nodeOnly_setNode n s { (s.node n).startRead with misses := 0 }).trans
    (nodeOnly_modChans (fun x => if x.isMotor then x.forget else x) (fun x => by split <;> rfl) _ _ fun _ => id)

theorem returned_node (s : State) (n : Fin 8) : (s.returned n).node n = { (s.node n).startRead with misses := 0 } ∧ (s.returned n).flt = s.flt := by
  obtain ⟨v, heq, -⟩ := foldl_modChan (fun x => if x.isMotor then x.forget else x) (s.nodeChans n)
    (s.setNode n { (s.node n).startRead with misses := 0 })
  have hstate : s.returned n = (s.setNode n { (s.node n).startRead with misses := 0 }).withChans v := heq
  rw [hstate]
  refine ⟨?_, rfl⟩
  show (s.setNode n _).node n = _
  rw [State.setNode_node, if_pos rfl]

/-- A VALID slot of a LOST node is counted (R34, R36). -/
theorem AtRest.countLost {s : State} (h : AtRest s) {n : Fin 8} (hstate : (s.node n).state = .lost) :
    ∃ u, Does 3 false [.countValid n] s u ∧ AtRest u ∧
      ((s.node n).good = 0 → u = s.firstGood n) ∧ (1 ≤ (s.node n).good → u = (s.returned n).evaluated) := by
  have hact : act (.countValid n) s = if 2 ≤ (s.node n).good + 1 then { st := s.returned n, acts := [.restCheck false] }
      else .done (s.firstGood n) := by
    simp only [act, actCountValid, if_pos hstate]
    rfl
  by_cases hgood : (s.node n).good = 0
  · rw [if_neg (by omega)] at hact
    exact ⟨s.firstGood n, does_mono (does_done (by simp) hact (does_nil _)) (by omega : 0 + 1 ≤ 3), h.setNode n _, fun _ => rfl,
      fun hmore => by omega⟩
  · rw [if_pos (by omega)] at hact
    have hrest : AtRest (s.returned n) := h.after (nodeOnly_returned s n) (fun c hc => by
      rw [returned_chan, if_pos hc]
      split <;> exact h.motions c) (by rw [(returned_node s n).2]; exact h.unexposed)
    exact ⟨_, does_act (by simp) hact (hrest.restCheck false), hrest.evaluated, fun hzero => absurd hzero hgood, fun _ => rfl⟩

theorem exec_lostValid {n : Fin 8} {reply : SlotReply} {f : Status} {s : State} (h : RestsFor n s) (hstate : (s.node n).state = .lost)
    (hf : statusOf n reply = some f) (hplain : PlainSlot s n f) :
    ∃ t v u, exec (.slotIntake n reply) s = .next t ∧ SlotDone n u t ∧ PlainDelivered n f s.closeSlot v ∧
      ((s.node n).good = 0 → u = v.firstGood n) ∧ (1 ≤ (s.node n).good → u = (v.returned n).evaluated) := by
  obtain ⟨v, hd, hv⟩ := deliver_plain h.rest h.clear (plainSlot_closed hplain)
  have hvstate : (v.node n).state = .lost := by rw [hv.node]; exact hstate
  have hgood : (v.node n).good = (s.node n).good := by rw [hv.node]; rfl
  obtain ⟨u, hcount, hrest, hfirst, hback⟩ := hv.rest.countLost hvstate
  obtain ⟨t, hexec, hdone⟩ := exec_validSlot h.running hf (by rw [hstate]; nofun) h.rest hrest
    (does_append hd (does_append (does_message_apart (by rw [hvstate]; nofun) f.ctl f.data) hcount)) (by omega)
  exact ⟨t, v, u, hexec, hdone, hv, hgood ▸ hfirst, hgood ▸ hback⟩

/-- A channel of the node shows the delivery of its own output. -/
theorem PlainDelivered.chan {n : Fin 8} {f : Status} {s v : State} (h : PlainDelivered n f s v) {c : Fin 16} (hc : c ∈ s.nodeChans n) :
    v.chan c = if c = chanA n then s.intakeChan c f.countA f.currentA f.pressureA else s.intakeChan c f.countB f.currentB f.pressureB := by
  obtain ⟨rfl | rfl, hpop⟩ := mem_nodeChans.mp hc
  · rw [if_pos rfl, h.readA hpop]
  · rw [if_neg (chanB_ne_chanA n), h.readB hpop]

end Sys2Proof.Machine
end

section
/-! SUPPORT. What the answer shows of a node of a part at rest that is lost, or comes back (R34 to R36). -/

namespace Sys2Proof.Machine

/-- What the answer t of slot n shows of a node lost in the slot (R35). -/
structure LostShown (n : Fin 8) (s t : State) : Prop where
  state : (t.node n).state = .lost
  misses : (t.node n).misses = 3
  image : (t.node n).image = .off
  read : (t.node n).cursor = none ∧ (t.node n).scratch = [] ∧ (t.node n).retry = 0
  desc : (t.node n).desc = (s.node n).desc
  countA : (t.node n).outA.lastCount = (s.node n).outA.lastCount
  countB : (t.node n).outB.lastCount = (s.node n).outB.lastCount

theorem SlotDone.lostShown {n : Fin 8} {s u t : State} (h : SlotDone n u t) (hm : (s.node n).misses = 2)
    (hu : u.node n = (s.closeSlot.lose n).node n) : LostShown n s t := by
  have hnode : t.node n = { (s.node n).missed.stopRead with state := .lost, retry := 0, image := .off } := by
    rw [h.node, imageRule_lost (by rw [hu, lose_node]), hu, lose_node]
    rfl
  rw [missed_eq, hm] at hnode
  constructor <;> rw [hnode]
  · rfl
  · exact ⟨rfl, rfl, rfl⟩
  · rfl
  · rfl
  · rfl

theorem returned_off {s : State} {n : Fin 8} : (s.returned n).evaluated.imageRule n = .off := by
  have hnode : (s.returned n).evaluated.node n = { (s.node n).startRead with misses := 0 } := (returned_node s n).1
  rw [imageRule_reading (by rw [hnode]; rfl), hnode]
  rfl

theorem firstGood_node (s : State) (n : Fin 8) :
    (s.firstGood n).node n = { s.node n with misses := 0, good := (s.node n).good + 1 } := by
  rw [State.firstGood, State.setNode_node, if_pos rfl]

/-- The first VALID slot of a LOST node is counted (R34). -/
theorem SlotDone.firstNode {n : Fin 8} {s v t : State} {a b : OutRec} (h : SlotDone n (v.firstGood n) t)
    (hv : v.node n = { s.node n with outA := a, outB := b }) (hstate : (s.node n).state = .lost) (hgood : (s.node n).good = 0)
    (himage : (s.node n).image = .off) : t.node n = { s.node n with misses := 0, good := 1, outA := a, outB := b } := by
  rw [h.node, imageRule_lost (by rw [firstGood_node, hv]; exact hstate), firstGood_node, hv, hgood, ← himage]

/-- The second brings it back (R34, R36). -/
theorem SlotDone.returnedNode {n : Fin 8} {s v t : State} {a b : OutRec} (h : SlotDone n (v.returned n).evaluated t)
    (hv : v.node n = { s.node n with outA := a, outB := b }) (himage : (s.node n).image = .off) : t.node n =
      { s.node n with
        state := .discovering, misses := 0, good := 0, retry := 0, cursor := none, scratch := [], xfer := .startNext
        outA := a, outB := b } := by
  have hnode : (v.returned n).evaluated.node n = { (v.node n).startRead with misses := 0 } := (returned_node v n).1
  rw [h.node, returned_off, hnode, hv, ← himage]
  rfl

/-! ## The statement's first two parts -/

theorem third_miss_loses {n : Fin 8} {reply : SlotReply} {s : State} (h : Resting s) (hf : statusOf n reply = none)
    (hready : (s.node n).state = .ready) (hm : (s.node n).misses = 2) : ∃ t, exec (.slotIntake n reply) s = .next t ∧ LostShown n s t ∧
      (∀ c, c ∈ s.nodeChans n → t.chan c = { s.chan c with current := 0 }) ∧ t.flt = (s.flt.raise .nodeLost (.node n) s.frame).1 ∧
      SlotDone n ((s.closeSlot.lose n).raised .nodeLost (.node n)) t := by
  obtain ⟨t, hexec, hdone⟩ := exec_lostSlot h hf hready hm
  refine ⟨t, hexec, hdone.lostShown hm rfl, fun c hc => ?_, ?_, hdone⟩
  · rw [hdone.chan]
    exact (lose_chan s.closeSlot n c).trans (if_pos hc)
  · rw [hdone.flt]
    show ((s.closeSlot.lose n).flt.raise _ _ (s.closeSlot.lose n).frame).1 = _
    obtain ⟨v, heq⟩ := lose_eq s.closeSlot n
    rw [heq]
    rfl

/-- What the answer shows of a LOST node whose slot was VALID, with the delivery of each of its channels and of its outputs. -/
structure BackShown (n : Fin 8) (delivered : Fin 16 → Channel) (a b : OutRec) (s t : State) : Prop where
  first : (s.node n).good = 0 → t.node n = { s.node n with misses := 0, good := 1, outA := a, outB := b } ∧
    ∀ c ∈ s.nodeChans n, t.chan c = delivered c
  second : 1 ≤ (s.node n).good → t.node n = { s.node n with
      state := .discovering, misses := 0, good := 0, retry := 0, cursor := none, scratch := [], xfer := .startNext
      outA := a, outB := b } ∧
    ∀ c ∈ s.nodeChans n, t.chan c = if (s.chan c).isMotor then { delivered c with known := false, extendEnd := false } else delivered c

theorem PlainDelivered.nodeIs {n : Fin 8} {f : Status} {s v : State} (h : PlainDelivered n f s v) : v.node n = { s.node n with
    outA := if s.populated (chanA n) then { lastCount := some f.countA, candidate := none } else (s.node n).outA
    outB := if s.populated (chanB n) then { lastCount := some f.countB, candidate := none } else (s.node n).outB } := by
  rw [h.node, h.outA, h.outB]

theorem valid_slots_return {n : Fin 8} {reply : SlotReply} {f : Status} {s : State} (h : RestsFor n s) (hstate : (s.node n).state = .lost)
    (hf : statusOf n reply = some f) (himage : (s.node n).image = .off) (hplain : PlainSlot s n f) :
    ∃ t u, exec (.slotIntake n reply) s = .next t ∧ SlotDone n u t ∧ NodeOnly n s.closeSlot u ∧ u.flt = s.flt ∧
      BackShown n (fun c => if c = chanA n then s.intakeChan c f.countA f.currentA f.pressureA
          else s.intakeChan c f.countB f.currentB f.pressureB)
        (if s.populated (chanA n) then { lastCount := some f.countA, candidate := none } else (s.node n).outA)
        (if s.populated (chanB n) then { lastCount := some f.countB, candidate := none } else (s.node n).outB) s t := by
  obtain ⟨t, v, u, hexec, hdone, hv, hfirst, hback⟩ := exec_lostValid h hstate hf hplain
  by_cases hgood : (s.node n).good = 0
  · obtain rfl := hfirst hgood
    refine ⟨t, _, hexec, hdone, hv.toNodeOnly.trans (nodeOnly_setNode n v _), hv.flt, fun _ => ⟨?_, fun c hc => ?_⟩, fun hmore => by omega⟩
    · exact hdone.firstNode hv.nodeIs hstate hgood himage
    · exact (hdone.chan c).trans (hv.chan hc)
  · obtain rfl := hback (by omega)
    refine ⟨t, _, hexec, hdone, hv.toNodeOnly.trans ((nodeOnly_returned v n).trans (nodeOnly_evaluated n _)),
      ((returned_node v n).2).trans hv.flt, fun hzero => absurd hzero hgood, fun _ => ⟨?_, fun c hc => ?_⟩⟩
    · exact hdone.returnedNode hv.nodeIs himage
    · have hmotor : (v.chan c).isMotor = (s.chan c).isMotor := by
        unfold Channel.isMotor
        rw [hv.kinds c]
        rfl
      rw [hdone.chan c]
      refine (returned_chan v n c).trans ?_
      rw [if_pos (hv.nodeChans n ▸ hc), hmotor, hv.chan hc]
      rfl

end Sys2Proof.Machine
end

section
/-! SUPPORT. The loss of a node while a stow's JACKS step runs (R35, R156, R157, R162, TABLE 10-3). -/

namespace Sys2Proof.Machine

/-! ## The step's state -/

/-- A stow's JACKS step runs: JACKS alone works, for the stow, and the step awaits it. -/
structure StowingJacks (s : State) : Prop where
  still : Still s
  parked : Parked s
  step : s.ciu.stow.state = .jacks
  awaited : .jacks ∈ s.ciu.stow.awaited
  works : (s.unit .jacks).state ≠ .idle
  origin : (s.unit .jacks).origin = some .stow
  queue : s.queueOnly .jacks
  others : ∀ u, u ≠ .jacks → (s.unit u).state = .idle

/-- Node n is lost and NODE_LOST is listed. -/
def State.lostListed (s : State) (n : Fin 8) : State := (s.closeSlot.lose n).raised .nodeLost (.node n)

theorem nodeOnly_lostListed (s : State) (n : Fin 8) : NodeOnly n s.closeSlot (s.lostListed n) :=
  (nodeOnly_lose s.closeSlot n).trans (nodeOnly_raised n _ _ _)

theorem lostListed_chan (s : State) (n : Fin 8) (c : Fin 16) :
    (s.lostListed n).chan c = if c ∈ s.nodeChans n then { s.chan c with current := 0 } else s.chan c := lose_chan s.closeSlot n c

theorem lostListed_frame (s : State) (n : Fin 8) : (s.lostListed n).frame = s.frame := by
  obtain ⟨v, heq⟩ := lose_eq s.closeSlot n
  rw [State.lostListed, heq]
  rfl

theorem lostListed_flt (s : State) (n : Fin 8) : (s.lostListed n).flt = (s.flt.raise .nodeLost (.node n) s.frame).1 := by
  obtain ⟨v, heq⟩ := lose_eq s.closeSlot n
  rw [State.lostListed, heq]
  rfl

theorem lostListed_link (s : State) (n : Fin 8) :
    (s.lostListed n).pli = (s.raised .nodeLost (.node n)).pli ∧ (s.lostListed n).sst = s.sst := by
  obtain ⟨v, heq⟩ := lose_eq s.closeSlot n
  rw [State.lostListed, heq]
  exact ⟨rfl, rfl⟩

/-- A node's loss moves nothing that the resting rules look at. -/
theorem still_lose {s : State} (h : Still s) (n : Fin 8) : Still (s.lose n) := by
  have hchan (c : Fin 16) : ((s.lose n).chan c) = s.chan c ∨ (s.lose n).chan c = { s.chan c with current := 0 } := by
    rw [lose_chan]
    split
    · exact .inr rfl
    · exact .inl rfl
  refine still_congr (s := s) (fun c => ?_) ?_ (fun r => ?_) (lose_flt s n) (fun c hc => ?_) h
  · rcases hchan c with hsame | hdark
    · rw [hsame]
      exact .refl _
    · rw [hdark]
      exact ⟨rfl, rfl, rfl, rfl, rfl, rfl⟩
  · obtain ⟨v, heq⟩ := lose_eq s n
    rw [heq]
    rfl
  · obtain ⟨v, heq⟩ := lose_eq s n
    rw [heq]
    rfl
  · rcases hchan c with hsame | hdark
    · rwa [hsame]
    · rw [hdark]
      exact hc

theorem StowingJacks.lostListed {s : State} (h : StowingJacks s) (n : Fin 8) : StowingJacks (s.lostListed n) := by
  have hk := nodeOnly_lostListed s n
  have hstow : (s.lostListed n).ciu.stow = s.ciu.stow := by
    rw [hk.ciu]
    rfl
  have hunit (u : UnitId) : (s.lostListed n).unit u = s.unit u := hk.unit u
  have hclosed : Still s.closeSlot := ⟨h.still.exposed, h.still.jacks⟩
  refine ⟨still_raised (k := .nodeLost) (still_lose hclosed n) (by decide) (.node n), hk.parked ⟨h.parked.park, h.parked.alarm⟩,
    by rw [hstow]; exact h.step, by rw [hstow]; exact h.awaited, by rw [hunit]; exact h.works, by rw [hunit]; exact h.origin, ?_,
    fun u hu => by rw [hunit]; exact h.others u hu⟩
  unfold State.queueOnly
  rw [hk.sgu]
  exact h.queue

/-! ## What the raise does -/

/-- The end of JACKS' work that the loss of node n asks for. -/
def nodeEnding (n : Fin 8) : Ending := { unit := .jacks, why := .fault, cause := .fault .nodeLost, subject := some (.node n) }

/-- Node n serves a populated jack; the step moves a jack of node n. -/
def State.servesJack (s : State) (n : Fin 8) : Prop := ∃ c ∈ s.unitChans .jacks, nodeOf c = n

def State.movesJack (s : State) (n : Fin 8) : Prop :=
  ∃ c ∈ s.unitChans .jacks, nodeOf c = n ∧ ((s.chan c).motion ≠ none ∨ ∃ p ∈ (s.unit .jacks).pending, p.chan = c)

theorem State.movesJack.serves {s : State} {n : Fin 8} (h : s.movesJack n) : s.servesJack n := by
  obtain ⟨c, hc, hn, -⟩ := h
  exact ⟨c, hc, hn⟩

theorem sparesStep_node {s : State} (h : StowingJacks s) (n : Fin 8) : s.sparesStep (nodeEnding n) = true ↔ ¬s.movesJack n := by
  have hworks (c : Fin 16) : s.worksOn .jacks c = true ↔ (s.chan c).motion ≠ none ∨ ∃ p ∈ (s.unit .jacks).pending, p.chan = c := by
    unfold State.worksOn
    rw [Bool.or_eq_true, Option.isSome_iff_ne_none, List.any_eq_true]
    simp only [decide_eq_true_eq]
  unfold State.sparesStep nodeEnding State.movesJack
  simp only [h.origin, and_self, decide_true, Bool.true_and, Bool.not_eq_true', Bool.eq_false_iff, ne_eq, List.any_eq_true,
    Bool.and_eq_true, decide_eq_true_eq, hworks]

theorem StowingJacks.reach {s : State} (h : StowingJacks s) (n : Fin 8) :
    (s.servesJack n → s.reach (.node n) = [.jacks]) ∧ (¬s.servesJack n → s.reach (.node n) = []) := by
  refine ⟨fun ⟨c, hc, hn⟩ => reach_node_one hc hn h.works h.others, fun hnone => reach_node_none fun u hu c hc hn => ?_⟩
  have hjacks : u = .jacks := by
    by_contra hne
    exact hu (h.others u hne)
  exact hnone ⟨c, hjacks ▸ hc, hn⟩

/-- A raise of NODE_LOST that reaches JACKS ends its work, with what follows. -/
theorem does_raise_jacks {t u : State} {n : Fin 8} {m : Nat} {x : Bool} (hr : (t.raised .nodeLost (.node n)).reach (.node n) = [.jacks])
    (hd : Does m x [.endUnits [nodeEnding n]] (t.raised .nodeLost (.node n)) u) : Does (m + 1) x [.raise .nodeLost (.node n)] t u := by
  have hact : act (.raise .nodeLost (.node n)) t = { st := t.raised .nodeLost (.node n), acts := [.endUnits [nodeEnding n]] } := by
    have hends : ((t.raised .nodeLost (.node n)).reach (.node n)).map (fun u =>
        ({ unit := u, why := .fault, cause := .fault .nodeLost, subject := some (.node n) } : Ending)) = [nodeEnding n] := by
      rw [hr]
      rfl
    rw [← hends]
    rfl
  exact does_act (by simp) hact hd

/-- The end of work that spares the step is not handed on (R156). -/
theorem StowingJacks.does_spared {s : State} (h : StowingJacks s) {n : Fin 8} (hm : ¬s.movesJack n) :
    Does 4 true [.endUnits [nodeEnding n]] s (s.endUnit .jacks .fault).evaluated := by
  have hact : act (.endUnits [nodeEnding n]) s = { st := s.endUnit .jacks .fault, acts := [.restCheck false] ++ [.exam] } := by
    have hsp : s.sparesStep (nodeEnding n) = true := (sparesStep_node h n).mpr hm
    have hworks : (s.unit (nodeEnding n).unit).state ≠ .idle := h.works
    simp [act, actEndUnits, hworks, hsp]
    rfl
  exact does_act (by simp) hact (does_append (does_evaluate (endUnit_still h.still _ _) (endUnit_parked h.parked _ _) false) (does_exam (does_nil _)))

/-- The stow sequence has ended FAILED with NODE_LOST of node n (R156, R157). -/
def State.stowFailed (s : State) (n : Fin 8) : State :=
  let q := s.ciu.stow
  { (s.endUnit .jacks .fault).offer (.stowDone .failed q.trigger (some q.state) (.fault .nodeLost) (some (.node n))) with
    ciu := { s.ciu with
      stow := .reset
      result := { outcome := .failed, trigger := q.trigger, step := some q.state, cause := .fault .nodeLost, subject := some (.node n) } } }

theorem still_stowFailed {s : State} (h : Still s) (n : Fin 8) : Still (s.stowFailed n) :=
  ⟨(endUnit_still h .jacks .fault).exposed, (endUnit_still h .jacks .fault).jacks⟩

theorem parked_stowFailed {s : State} (h : Parked s) (n : Fin 8) : Parked (s.stowFailed n) :=
  ⟨fun hp => h.park ((congrArg Sst.phase (endUnit_sst s .jacks .fault)).symm.trans hp), h.alarm⟩

theorem handOff_stowFault {t : State} {n : Fin 8} (hq : t.ciu.stow.state ≠ .idle) (hu : .jacks ∈ t.ciu.stow.awaited) :
    act (.handOff (nodeEnding n) .stow) t =
      { st := t.setStow { t.ciu.stow with awaited := t.ciu.stow.awaited.filter fun v => decide (v ≠ .jacks) }
        acts := [.stowEnd .failed (.fault .nodeLost) (some (.node n))] } := by
  have hwgd : wgdUnitEnd (nodeEnding n) .stow t = .done t := rfl
  have hstow : stowUnitEnd (nodeEnding n) t =
      { st := t.setStow { t.ciu.stow with awaited := t.ciu.stow.awaited.filter fun v => decide (v ≠ .jacks) }
        acts := [.stowEnd .failed (.fault .nodeLost) (some (.node n))] } := if_pos ⟨hq, hu⟩
  simp only [act, actHandOff, hwgd, Out.done, hstow, List.nil_append]

theorem StowingJacks.does_failed {s : State} (h : StowingJacks s) {n : Fin 8} (hm : s.movesJack n) :
    Does 20 true [.endUnits [nodeEnding n]] s (s.stowFailed n).evaluated := by
  obtain ⟨b, hb⟩ : ∃ b, (s.endUnit .jacks .fault).evaluated = { s.endUnit .jacks .fault with ciu := { s.ciu with travel := b } } :=
    ⟨(s.endUnit .jacks .fault).travelRule, by unfold State.evaluated; rw [endUnit_ciu]⟩
  have hstep : s.ciu.stow.state ≠ .idle := by
    rw [h.step]
    nofun
  let ended : State := { s.endUnit .jacks .fault with ciu := { s.ciu with travel := b } }
  let judged : State := ended.setStow { s.ciu.stow with awaited := s.ciu.stow.awaited.filter fun v => decide (v ≠ .jacks) }
  let waiting : State := ended.setStow { s.ciu.stow with awaited := [] }
  have hhand : act (.handOff (nodeEnding n) .stow) (s.endUnit .jacks .fault).evaluated =
      { st := judged, acts := [.stowEnd .failed (.fault .nodeLost) (some (.node n))] } := by
    rw [hb]
    exact handOff_stowFault (t := ended) hstep h.awaited
  have hend : act (.stowEnd .failed (.fault .nodeLost) (some (.node n))) judged =
      { st := waiting, acts := [.endUnits judged.stowEndings] ++ [.stowDone .failed (.fault .nodeLost) (some (.node n))] } :=
    stowEnd_acts (t := judged) hstep _ _ _
  have hidle : ∀ e ∈ judged.stowEndings, (waiting.unit e.unit).state = .idle := by
    intro e _
    show ((s.endUnit .jacks .fault).unit e.unit).state = .idle
    rw [endUnit_unit]
    split
    · rfl
    · next hne => exact h.others _ fun he => hne ⟨he, h.works⟩
  have hdone : act (.stowDone .failed (.fault .nodeLost) (some (.node n))) waiting =
      { st := (s.stowFailed n).withTravel b, acts := [.restCheck false] } := stowDone_acts (t := waiting) hstep _ _ _
  have hlast := does_act (by simp) hdone (does_evaluate (still_withTravel (still_stowFailed h.still n) b)
    (parked_withTravel (parked_stowFailed h.parked n) b) false)
  have hspare : s.sparesStep (nodeEnding n) = false := by
    rw [Bool.eq_false_iff, ne_eq, sparesStep_node h n, not_not]
    exact hm
  have hall := does_act (by simp) hhand (does_act (by simp) hend (does_append (does_endUnits_idle hidle) hlast))
  exact does_mono (does_endWork h.still h.parked h.works h.origin hspare hall) (by omega)

/-! ## What the end of JACKS' work leaves -/

/-- From s to u the work of JACKS, its grant, the panel link's notices and the stow sequence may have changed. -/
structure JacksOnly (s u : State) : Prop where
  nlc : u.nlc = s.nlc
  flt : u.flt = s.flt
  units : ∀ v, v ≠ .jacks → u.unit v = s.unit v
  chans : ∀ c, c ∉ jackChans → u.chan c = s.chan c
  aside : u.aside = s.aside
  lvs : u.lvs = s.lvs
  wgd : u.wgd = s.wgd
  park : u.ciu.park = s.ciu.park

theorem JacksOnly.refl (s : State) : JacksOnly s s := ⟨rfl, rfl, fun _ _ => rfl, fun _ _ => rfl, rfl, rfl, rfl, rfl⟩

theorem jacksOnly_endUnit {s : State} (h : (s.unit .jacks).state ≠ .idle) (why : Reason) : JacksOnly s (s.endUnit .jacks why) where
  nlc := endUnit_nlc s _ _
  flt := endUnit_flt s _ _
  units := (endUnit_ended h why).others
  chans := (endUnit_ended h why).otherChans
  aside := aside_endUnit s _ _
  lvs := endUnit_lvs s _ _
  wgd := endUnit_wgd s _ _
  park := congrArg Ciu.park (endUnit_ciu s _ _)

/-- The stow sequence and the result record are not of what a command leaves aside. -/
theorem aside_setCiu {t : State} {c : Ciu} (hign : c.ign = t.ciu.ign) (heng : c.eng = t.ciu.eng) :
    State.aside { t with ciu := c } = t.aside := by
  simp only [State.aside, hign, heng]

theorem aside_stowFailed (s : State) (n : Fin 8) : (s.stowFailed n).aside = s.aside := by
  have hciu (m : Notice) : ((s.endUnit .jacks .fault).offer m).ciu = s.ciu := endUnit_ciu s .jacks .fault
  refine (aside_setCiu (t := (s.endUnit .jacks .fault).offer _) ?_ ?_).trans ((aside_offer _ _).trans (aside_endUnit s .jacks .fault))
  · rw [hciu]
  · rw [hciu]

theorem jacksOnly_stowFailed {s : State} (h : (s.unit .jacks).state ≠ .idle) (n : Fin 8) : JacksOnly s (s.stowFailed n) :=
  have hends := jacksOnly_endUnit h .fault
  ⟨hends.nlc, hends.flt, hends.units, hends.chans, aside_stowFailed s n, hends.lvs, hends.wgd, rfl⟩

/-- What the end of the step's work leaves of JACKS and of the grants. -/
structure JacksEnded (s u : State) : Prop where
  unit : u.unit .jacks = .reset
  chans : ∀ c ∈ jackChans, u.chan c = ((s.chan c).endMotion s.frame).unwait
  queue : u.sgu.queue = []
  grants : u.sgu.grants = s.sgu.grants.filter fun e => decide (e.unit ≠ .jacks)

theorem StowingJacks.jacksEnded {s : State} (h : StowingJacks s) : JacksEnded s (s.endUnit .jacks .fault) :=
  have hends := endUnit_ended h.works .fault
  ⟨hends.idle, hends.chans, endUnit_queue h.works h.queue .fault, hends.grants⟩

theorem StowingJacks.jacksFailed {s : State} (h : StowingJacks s) (n : Fin 8) : JacksEnded s (s.stowFailed n) :=
  ⟨h.jacksEnded.unit, h.jacksEnded.chans, h.jacksEnded.queue, h.jacksEnded.grants⟩

end Sys2Proof.Machine
end

section
/-! SUPPORT. The slot in which a node is lost during a stow's JACKS step (R35, R156, R157). -/

namespace Sys2Proof.Machine

/-- The slot that loses node n, from what the raise of NODE_LOST ends in. -/
theorem exec_raisedLost {s u : State} (hr : s.mode = .running) {n : Fin 8} {reply : SlotReply}
    (hf : statusOf n reply = none) (hready : (s.node n).state = .ready) (hm : (s.node n).misses = 2) {m : Nat} {x : Bool} (hle : m ≤ 100)
    {b : Bool} (hd : Does m x [.raise .nodeLost (.node n)] (s.closeSlot.lose n) (u.withTravel b)) (hs : Still u) (hp : Parked u)
    (hq : x = true → u.sgu.queue = []) : ∃ t, exec (.slotIntake n reply) s = .next t ∧ SlotDone n u t := by
  refine exec_slotDone hr ?_
  rw [slotActs_miss hf (by rw [hready]; nofun)]
  have hs' := still_withTravel hs b
  have hp' := parked_withTravel hp b
  have hlost := does_act (by simp) (countMiss_lost (s := s.closeSlot) (.inl hready) hm) (does_append hd (does_evaluate hs' hp' false))
  rw [Bool.or_false] at hlost
  rw [commit_does hlost (by omega) (still_evaluated hs') (parked_evaluated hp') hq, finish_evaluated, finish_withTravel]

/-- What every answer to the loss shows, however JACKS' work ends. -/
structure LossShown (n : Fin 8) (s t : State) : Prop where
  lost : LostShown n s t
  flt : t.flt = (s.flt.raise .nodeLost (.node n) s.frame).1
  nodes : ∀ m, m ≠ n → t.node m = { s.node m with image := (t.node m).image }
  units : ∀ u, u ≠ .jacks → t.unit u = s.unit u
  chans : ∀ c, c ∉ jackChans → t.chan c = if c ∈ s.nodeChans n then { s.chan c with current := 0 } else s.chan c
  aside : SlotAside n s t
  lvs : t.lvs = s.lvs
  wgd : t.wgd = s.wgd
  park : t.ciu.park = s.ciu.park

theorem SlotDone.lossShown {n : Fin 8} {s u t : State} (h : SlotDone n u t) (hm : (s.node n).misses = 2)
    (hu : JacksOnly (s.lostListed n) u) : LossShown n s t := by
  have hk := nodeOnly_lostListed s n
  have hnode (m : Fin 8) : u.node m = (s.lostListed n).node m := congrArg (fun l => Vector.get (Nlc.nodes l) m) hu.nlc
  refine ⟨h.lostShown hm (hnode n), ?_, fun m hne => ?_, fun v hv => ?_, fun c hc => ?_, h.slotAside (hu.aside.trans hk.aside), ?_, ?_, ?_⟩
  · rw [h.flt, hu.flt, lostListed_flt]
  · rw [h.node, hnode, hk.nodes m hne]
    rfl
  · rw [h.unit, hu.units v hv]
    exact hk.unit v
  · rw [h.chan, hu.chans c hc, lostListed_chan]
  · rw [h.lvs, hu.lvs]
    exact hk.lvs
  · rw [h.wgd, hu.wgd]
    exact hk.wgd
  · rw [h.ciu]
    show u.ciu.park = _
    rw [hu.park, hk.ciu]
    rfl

/-- What the answer shows of a step whose work JACKS has ended. -/
theorem SlotDone.jacksEnded {n : Fin 8} {s u t : State} (h : SlotDone n u t) (hu : JacksEnded (s.lostListed n) u) :
    t.unit .jacks = .reset ∧
      (∀ c ∈ jackChans, t.chan c =
        (Channel.endMotion (if c ∈ s.nodeChans n then { s.chan c with current := 0 } else s.chan c) s.frame).unwait) ∧
      t.sgu.queue = [] ∧ t.sgu.grants = s.sgu.grants.filter fun e => decide (e.unit ≠ .jacks) := by
  obtain ⟨hqueue, hgrants, -⟩ := h.grants
  refine ⟨(h.unit _).trans hu.unit, fun c hc => ?_, hqueue.trans hu.queue, ?_⟩
  · rw [h.chan, hu.chans c hc, lostListed_chan, lostListed_frame]
  · rw [hgrants, hu.grants, (nodeOnly_lostListed s n).sgu]
    rfl

theorem lostListed_ciu (s : State) (n : Fin 8) : (s.lostListed n).ciu.stow = s.ciu.stow ∧ (s.lostListed n).ciu.result = s.ciu.result := by
  rw [(nodeOnly_lostListed s n).ciu]
  exact ⟨rfl, rfl⟩

theorem movesJack_lostListed (s : State) (n : Fin 8) : (s.lostListed n).movesJack n ↔ s.movesJack n := by
  have hk := nodeOnly_lostListed s n
  have hchans : (s.lostListed n).unitChans .jacks = s.unitChans .jacks := List.filter_congr fun c _ => hk.populated c
  have hmotion (c : Fin 16) : ((s.lostListed n).chan c).motion = (s.chan c).motion := by
    rw [lostListed_chan]
    split <;> rfl
  have hunit : (s.lostListed n).unit .jacks = s.unit .jacks := hk.unit _
  unfold State.movesJack
  simp only [hchans, hmotion, hunit]

theorem servesJack_lostListed (s : State) (n : Fin 8) : (s.lostListed n).servesJack n ↔ s.servesJack n := by
  have hchans : (s.lostListed n).unitChans .jacks = s.unitChans .jacks :=
    List.filter_congr fun c _ => (nodeOnly_lostListed s n).populated c
  unfold State.servesJack
  rw [hchans]

/-! ## The three ways the step takes it -/

section
variable {s : State} (h : StowingJacks s) (hr : s.mode = .running) {n : Fin 8} {reply : SlotReply} (hf : statusOf n reply = none)
  (hready : (s.node n).state = .ready) (hm : (s.node n).misses = 2)
include h hr hf hready hm

theorem StowingJacks.exec_unserved (hserved : ¬s.servesJack n) :
    ∃ t, exec (.slotIntake n reply) s = .next t ∧ SlotDone n (s.lostListed n) t := by
  have hl := h.lostListed n
  have hreach := (hl.reach n).2 ((servesJack_lostListed s n).not.mpr hserved)
  exact exec_raisedLost hr hf hready hm (by omega) (b := (s.lostListed n).ciu.travel) (does_raise_stop_unreached rfl hreach) hl.still hl.parked nofun

theorem StowingJacks.exec_spared (hserved : s.servesJack n) (hmoved : ¬s.movesJack n) :
    ∃ t, exec (.slotIntake n reply) s = .next t ∧ SlotDone n ((s.lostListed n).endUnit .jacks .fault) t := by
  have hl := h.lostListed n
  have hreach := (hl.reach n).1 ((servesJack_lostListed s n).mpr hserved)
  have hd := does_raise_jacks hreach (hl.does_spared ((movesJack_lostListed s n).not.mpr hmoved))
  exact exec_raisedLost hr hf hready hm (by omega) hd (endUnit_still hl.still _ _) (endUnit_parked hl.parked _ _) fun _ => hl.jacksEnded.queue

theorem StowingJacks.exec_failed (hmoved : s.movesJack n) :
    ∃ t, exec (.slotIntake n reply) s = .next t ∧ SlotDone n ((s.lostListed n).stowFailed n) t := by
  have hl := h.lostListed n
  have hreach := (hl.reach n).1 ((servesJack_lostListed s n).mpr hmoved.serves)
  have hd := does_raise_jacks hreach (hl.does_failed ((movesJack_lostListed s n).mpr hmoved))
  exact exec_raisedLost hr hf hready hm (by omega) hd (still_stowFailed hl.still n) (parked_stowFailed hl.parked n) fun _ => hl.jacksEnded.queue
end

end Sys2Proof.Machine
end

section
/-! SUPPORT. O13 from its three parts. -/

namespace Sys2Proof.Machine

/-- The stow sequence and its result stand when the step is not failed. -/
theorem SlotDone.stow_kept {n : Fin 8} {s u t : State} (h : SlotDone n u t) (hu : u.ciu = (s.lostListed n).ciu) :
    t.ciu.stow = s.ciu.stow ∧ t.ciu.result = s.ciu.result := by
  obtain ⟨hstow, hresult⟩ := lostListed_ciu s n
  rw [h.ciu, hu]
  exact ⟨hstow, hresult⟩

theorem lostListed_grants (s : State) (n : Fin 8) : GrantsStand s (s.lostListed n) := by
  have hsgu := (nodeOnly_lostListed s n).sgu
  exact ⟨congrArg Sgu.queue hsgu, congrArg Sgu.grants hsgu, congrArg Sgu.nextOrder hsgu⟩

theorem lostListed_transmitted {s : State} {n : Fin 8} (h : ((s.lostListed n).unit .jacks).state ≠ .idle) :
    ((s.lostListed n).endUnit .jacks .fault).transmitted = ((s.raised .nodeLost (.node n)).offer (.motionEnd .jacks .fault)).transmitted := by
  obtain ⟨hpli, hsst⟩ := lostListed_link s n
  refine transmitted_congr ((endUnit_pli h .fault).trans ?_) ((endUnit_sst _ _ _).trans hsst)
  unfold State.par
  rw [hpli, hsst]
  rfl

theorem stowFailed_ciu {s : State} {n : Fin 8} (h : s.ciu.stow.state = .jacks) :
    (s.stowFailed n).ciu.stow = .reset ∧ (s.stowFailed n).ciu.result =
      { outcome := .failed, trigger := s.ciu.stow.trigger, step := some .jacks, cause := .fault .nodeLost, subject := some (.node n) } := by
  rw [← h]
  exact ⟨rfl, rfl⟩

end Sys2Proof.Machine

namespace Sys2Proof

open Machine

/-- Settles O13. -/
theorem thirdMissLosesTheNode : Obligations.ThirdMissLosesTheNode := by
  refine ⟨fun n reply s h hf hready hm => ?lost, fun n reply f s h hstate hf himage hA hB => ?back,
    fun n reply s hsteady hf hready hm _ hstep hawaited hworks horigin hqueue hothers => ?stow⟩
  case lost =>
    obtain ⟨t, hexec, ⟨hstate, hmisses, himage, ⟨hcursor, hscratch, hretry⟩, hdesc, hcountA, hcountB⟩, hdark, hflt, hdone⟩ :=
      third_miss_loses h hf hready hm
    obtain ⟨hnodes, hchans, hrest⟩ := hdone.rest (nodeOnly_lostListed s n)
    exact ⟨t, hexec, hstate, hmisses, himage, hcursor, hscratch, hretry, hdesc, hcountA, hcountB, hdark, hchans, hflt, hnodes, hrest⟩
  case back =>
    obtain ⟨t, u, hexec, hdone, honly, hflt, hfirst, hsecond⟩ := valid_slots_return (restsFor (.inr h)) hstate hf himage ⟨hA, hB⟩
    obtain ⟨hnodes, hchans, hunits, hrest⟩ := hdone.rest honly
    exact ⟨t, hexec, hfirst, hsecond, hnodes, hchans, hunits, hdone.flt.trans hflt, hrest⟩
  case stow =>
    intro q moved served dark
    have hs : StowingJacks s := ⟨hsteady.still, hsteady.parked, hstep, hawaited, hworks, horigin, hqueue, hothers⟩
    have hl := hs.lostListed n
    by_cases hserved : served
    · by_cases hmoved : moved
      · obtain ⟨t, hexec, hdone⟩ := hs.exec_failed hsteady.running hf hready hm hmoved
        obtain ⟨hlost, hflt, hnodes, hunits, hchans, haside, hlvs, hwgd, hpark⟩ := hdone.lossShown hm (jacksOnly_stowFailed hl.works n)
        obtain ⟨hstow, hresult⟩ := stowFailed_ciu (n := n) hl.step
        refine ⟨t, hexec, hlost.state, hlost.misses, hflt, hnodes, hunits, hchans, haside, hlvs, hwgd, hpark, fun hnot => absurd hserved hnot,
          fun _ => hdone.jacksEnded (hl.jacksFailed n), fun hnot => absurd hmoved hnot, fun _ hnot => absurd hmoved hnot, fun _ => ⟨?_, ?_⟩⟩
        · rw [hdone.ciu]
          exact hstow
        · rw [hdone.ciu]
          refine hresult.trans ?_
          rw [(lostListed_ciu s n).1]
      · obtain ⟨t, hexec, hdone⟩ := hs.exec_spared hsteady.running hf hready hm hserved hmoved
        obtain ⟨hlost, hflt, hnodes, hunits, hchans, haside, hlvs, hwgd, hpark⟩ := hdone.lossShown hm (jacksOnly_endUnit hl.works .fault)
        exact ⟨t, hexec, hlost.state, hlost.misses, hflt, hnodes, hunits, hchans, haside, hlvs, hwgd, hpark, fun hnot => absurd hserved hnot,
          fun _ => hdone.jacksEnded hl.jacksEnded, fun _ => hdone.stow_kept (endUnit_ciu _ _ _),
          fun _ _ => hdone.pli.trans (lostListed_transmitted hl.works), fun hyes => absurd hyes hmoved⟩
    · obtain ⟨t, hexec, hdone⟩ := hs.exec_unserved hsteady.running hf hready hm hserved
      obtain ⟨hlost, hflt, hnodes, hunits, hchans, haside, hlvs, hwgd, hpark⟩ := hdone.lossShown hm (.refl _)
      have hmoves : ¬moved := fun hyes => hserved (State.movesJack.serves hyes)
      obtain ⟨hq, hg, ho⟩ := hdone.grants
      obtain ⟨hq', hg', ho'⟩ := lostListed_grants s n
      exact ⟨t, hexec, hlost.state, hlost.misses, hflt, hnodes, hunits, hchans, haside, hlvs, hwgd, hpark,
        fun _ => ⟨(hdone.unit _).trans ((nodeOnly_lostListed s n).unit _), fun c _ => (hdone.chan c).trans (lostListed_chan s n c),
          hq.trans hq', hg.trans hg', ho.trans ho'⟩,
        fun hyes => absurd hyes hserved, fun _ => hdone.stow_kept rfl, fun hyes => absurd hyes hserved, fun hyes => absurd hyes hmoves⟩

end Sys2Proof
end

section
/-! SUPPORT. The speed windows of channels with a motion record, and what a stall away from a known end does (R42 to R46, R162). -/

namespace Sys2Proof.Machine

/-- The speed of a window that ends now (R42). -/
def State.speedNow (s : State) (c : Fin 16) (m : Motion) : Int :=
  windowSpeed ((s.chan c).position - m.winPos) (elapsed s.frame m.winStart)

/-- The stall condition of a channel's record is evaluated (R44, R45). -/
abbrev State.stallJudged (s : State) (c : Fin 16) (m : Motion) : Prop :=
  (s.chan c).isMotor = true ∧ m.arrived = false ∧ reached s.frame m.graceEnd = true

/-- The stall condition holds in the window that ends now (R45). -/
abbrev State.stallStands (s : State) (c : Fin 16) (m : Motion) : Prop :=
  (s.speedNow c m).natAbs < (s.motorPar c).stallFloor ∧ 2 * (s.motorPar c).stallCurrent ≤ (s.chan c).current

/-- The stall windows in a row with the one that ends now (R46). -/
def State.stallWindows (s : State) (c : Fin 16) (m : Motion) : Nat :=
  if s.stallJudged c m then (if s.stallStands c m then m.stallCount + 1 else 0) else m.stallCount

/-- The state after the window of a motion record, with its count of stall windows (R42, R46). -/
def State.windowed (s : State) (c : Fin 16) (m : Motion) (count : Nat) : State :=
  s.setChan c { s.chan c with
    speed := s.speedNow c m
    motion := some { m with winStart := s.frame, winPos := (s.chan c).position, stallCount := count } }

theorem moves_of_motion {x : Channel} {m : Motion} (hm : x.motion = some m) (d : Dir) : x.moves d = decide (m.dir = d) := by
  unfold Channel.moves
  rw [hm]

section
variable {s : State} {c : Fin 16} {m : Motion} (hm : (s.chan c).motion = some m)
include hm

theorem still_windowed (hs : Still s) (count : Nat) : Still (s.windowed c m count) :=
  still_setChan hs ⟨rfl, rfl, rfl, rfl, rfl, rfl⟩ fun h => by rwa [moves_of_motion hm] at h

variable (hdue : s.par.speedWindow ≤ elapsed s.frame m.winStart)
include hdue

/-- The window of a motion record by what it counts. -/
theorem windowEnd_moving : s.windowEnd c =
    { st := s.windowed c m (min 2 (s.stallWindows c m))
      acts := if s.stallJudged c m ∧ 2 ≤ s.stallWindows c m then stallActs (s.windowed c m (min 2 (s.stallWindows c m))) c m.dir
        else [] } := by
  have hjudged : ((s.chan c).isMotor && !m.arrived && reached s.frame m.graceEnd) = decide (s.stallJudged c m) := by
    rw [Bool.eq_iff_iff]
    simp [and_assoc]
  have hcount : (if s.stallJudged c m then
      (if stallHolds (s.motorPar c) (windowSpeed ((s.chan c).position - m.winPos) (elapsed s.frame m.winStart)) (s.chan c).current = true
        then m.stallCount + 1 else 0) else m.stallCount) = s.stallWindows c m :=
    if_congr Iff.rfl (if_congr decide_eq_true_iff rfl rfl) rfl
  unfold State.windowEnd
  simp only [hm, hdue, if_true, hjudged, hcount, Bool.and_eq_true, decide_eq_true_iff]
  rfl

theorem windowEnd_counted (hfew : m.stallCount ≤ 1) (hno : ¬(s.stallJudged c m ∧ s.stallStands c m ∧ m.stallCount = 1)) :
    s.windowEnd c = .done (s.windowed c m (s.stallWindows c m)) := by
  have hcount : s.stallWindows c m ≤ 1 := by
    unfold State.stallWindows
    split
    · next hj =>
      split
      · next hst =>
        have : m.stallCount ≠ 1 := fun hone => hno ⟨hj, hst, hone⟩
        omega
      · exact Nat.zero_le 1
    · exact hfew
  rw [windowEnd_moving hm hdue, if_neg fun h => by omega, min_eq_right (by omega)]
  rfl

/-- The second stall window in a row is a STALL event (R46). -/
theorem windowEnd_stall (hj : s.stallJudged c m) (hst : s.stallStands c m) (hone : m.stallCount = 1) :
    s.windowEnd c = { st := s.windowed c m 2, acts := stallActs (s.windowed c m 2) c m.dir } := by
  have hcount : s.stallWindows c m = 2 := by
    unfold State.stallWindows
    rw [if_pos hj, if_pos hst, hone]
  rw [windowEnd_moving hm hdue, hcount, if_pos ⟨hj, le_refl 2⟩, min_self]
end

end Sys2Proof.Machine

namespace Sys2Proof

open Machine

/-- Settles O16: the window ends without a stall event, and its record changes neither rest positions nor directions. -/
theorem movingWindowGivesSpeed : Obligations.MovingWindowGivesSpeed := by
  intro c m s hs ho hc hm hdue hfew speed judged holds hno
  rw [exec_speedWindowEnd ho hc, windowEnd_counted hm hdue hfew hno]
  exact event_done hs.running (still_windowed hm hs.still _) (parked_setChan hs.parked c _)

end Sys2Proof
end

section
/-! SUPPORT. The end of the work of a unit with one motor channel: at a known end, or by a fault of that channel (R20, R47, R48, R49,
R56, R162, R163). -/

namespace Sys2Proof.Machine

/-! ## The end of work finds a record that has just ended -/

theorem unwait_endMotion {x : Channel} {m : Motion} (h : x.motion = some m) (now : FrameNo) :
    (x.endMotion now).unwait = x.endMotion now := by
  refine if_neg ?_
  simp only [Channel.endMotion, h]
  split
  · nofun
  · split <;> nofun

theorem rooms_ext {v w : Vector Room 4} (h : ∀ r, v.get r = w.get r) : v = w := by
  ext i hi
  simpa [Vector.get_eq_getElem] using h ⟨i, hi⟩

/-- The end of a unit's work does again what the end of its channel's record has done (R19, R20). -/
theorem endUnit_endMotion {s : State} {u : UnitId} {c : Fin 16} {m : Motion} (hc : c ∈ unitSlots u) (hm : (s.chan c).motion = some m)
    (hw : (s.unit u).state ≠ .idle) (why : Reason) :
    (s.setChan c ((s.chan c).endMotion s.frame)).endUnit u why = s.endUnit u why := by
  obtain ⟨v, w, hleft, hvout, hvin, hroom⟩ := endUnit_eq (s := s.setChan c ((s.chan c).endMotion s.frame)) hw why
  obtain ⟨v', w', hright, hvout', hvin', hroom'⟩ := endUnit_eq hw why
  have hchans : v = v' := chans_ext fun d => by
    by_cases hd : d ∈ unitSlots u
    · rw [hvin d hd, hvin' d hd, State.setChan_chan]
      split
      · next hdc =>
        subst hdc
        exact (endMotion_again hm _ _).trans (unwait_endMotion hm _).symm
      · rfl
    · rw [hvout d hd, hvout' d hd, State.setChan_chan, if_neg fun hdc : d = c => hd (hdc ▸ hc)]
  have hrooms : w = w' := rooms_ext fun r => (hroom r).trans (hroom' r).symm
  rw [hleft, hright, hchans, hrooms]
  rfl

/-! ## A unit with one motor channel -/

theorem setChan_again (s : State) (c : Fin 16) (x y : Channel) : (s.setChan c x).setChan c y = s.setChan c y := by
  unfold State.setChan
  simp only [Vector.set_set]

theorem unitChans_setChan {s : State} {c : Fin 16} {x : Channel} (hk : x.kind = (s.chan c).kind) (u : UnitId) :
    (s.setChan c x).unitChans u = s.unitChans u := by
  refine List.filter_congr fun d _ => ?_
  unfold State.populated
  rw [State.setChan_chan]
  split
  · next hd => rw [hk, hd]
  · rfl

/-- Unit u works for the user, and its only channel is a motor that moves; it is no end of a twin room. -/
structure SoleMotor (s : State) (u : UnitId) (c : Fin 16) (m : Motion) : Prop where
  sole : s.unitChans u = [c]
  motor : (s.chan c).isMotor = true
  single : ∀ r, u = .room r → (s.room r).type ≠ .twin
  works : (s.unit u).state ≠ .idle
  user : (s.unit u).origin = some .user
  motion : (s.chan c).motion = some m
  origin : m.origin = .user
  moving : m.arrived = false

section
variable {s : State} {u : UnitId} {c : Fin 16} {m : Motion} (h : SoleMotor s u c m)
include h

theorem SoleMotor.mem : c ∈ s.unitChans u := by simp [h.sole]

theorem SoleMotor.slot : c ∈ unitSlots u := List.mem_of_mem_filter h.mem

theorem SoleMotor.populated : s.populated c = true := (List.mem_filter.mp h.mem).2

theorem SoleMotor.not_jack : (s.chan c).isJack = false := by
  have hmotor := h.motor
  unfold Channel.isMotor at hmotor
  unfold Channel.isJack
  rcases of_decide_eq_true hmotor with hk | hk <;> rw [hk] <;> rfl

/-- A change of the channel's record that leaves a motor with a record not arrived. -/
theorem SoleMotor.setChan {x : Channel} {m' : Motion} (hk : x.kind = (s.chan c).kind) (hm : x.motion = some m') (ho : m'.origin = .user)
    (ha : m'.arrived = false) : SoleMotor (s.setChan c x) u c m' := by
  have hat : (s.setChan c x).chan c = x := by rw [State.setChan_chan, if_pos rfl]
  refine ⟨(unitChans_setChan hk u).trans h.sole, ?_, h.single, h.works, h.user, by rw [hat, hm], ho, ha⟩
  rw [hat]
  unfold Channel.isMotor
  rw [hk]
  exact h.motor

/-- What serves the channel's output, and keeps its record, leaves the unit at work. -/
theorem SoleMotor.after {t : State} (k : OutputOnly c s t) : SoleMotor t u c m := by
  have hmotor := h.motor
  unfold Channel.isMotor at hmotor
  refine ⟨(List.filter_congr fun d _ => k.populated d).trans h.sole, ?_, fun r hr => ?_, ?_, ?_, k.motion.trans h.motion, h.origin, h.moving⟩
  · unfold Channel.isMotor
    rwa [k.kinds]
  · unfold State.room
    rw [k.rooms]
    exact h.single r hr
  · rw [k.unit]
    exact h.works
  · rw [k.unit]
    exact h.user

/-! ## The end of the motion at a known end (R48) -/

theorem SoleMotor.motorEnd : act (.motorEnd c) s = { st := s, acts := [.chanEnd c .ended] } := by
  show actMotorEnd c s = _
  unfold actMotorEnd
  simp only [h.motion, h.moving, Bool.false_eq_true, if_false]
  split
  · rfl
  · next r hr =>
    have hu : u = .room r := by
      rw [← unitOfChan_slots h.slot]
      unfold unitOfChan
      rw [hr]
    rw [if_neg (h.single r hu)]

/-- A record that ends at a known end ends the unit's work with END (R20, R48). -/
theorem SoleMotor.does_motorEnd (hs : Still s) (hp : Parked s) : Does 7 true [.motorEnd c] s (s.endUnit u .ended).evaluated := by
  have hu : unitOfChan c = u := unitOfChan_slots h.slot
  have halone : ¬∃ d ∈ s.unitChans (unitOfChan c), d ≠ c ∧ (s.chan d).motion ≠ none := by
    rw [hu, h.sole]
    simp
  obtain ⟨-, hlast⟩ := does_chanEnd hs hp h.motion h.origin (hu.symm ▸ h.works) (hu.symm ▸ h.user) .ended
  have hd := hlast halone
  rw [hu, endUnit_endMotion h.slot h.motion h.works] at hd
  exact does_act (by simp) h.motorEnd hd

omit h in
/-- What follows the end of the unit's work evaluates TRAVEL again. -/
theorem does_evaluate_ended {t : State} (hs : Still t) (hp : Parked t) (why : Reason) :
    Does 2 false [.restCheck false] (t.endUnit u why).evaluated (t.endUnit u why).evaluated :=
  does_evaluate (still_evaluated (endUnit_still hs u why)) (parked_evaluated (endUnit_parked hp u why)) false

/-- A retract that is re-homed has come to its end (R48, R49). -/
theorem SoleMotor.does_rehome (hd : m.dir = .retract) (hs : Still (s.setChan c (s.chan c).rehomed)) (hp : Parked s) :
    Does 10 true [.rehome c] s ((s.setChan c (s.chan c).rehomed).endUnit u .ended).evaluated := by
  have hat : (s.modChan c Channel.rehomed).chan c = (s.chan c).rehomed := by rw [State.modChan_chan, if_pos rfl]
  have hmoves : (s.chan c).rehomed.moves .retract = true := by
    rw [moves_of_motion (show (s.chan c).rehomed.motion = some m from h.motion), hd]
    rfl
  have hjack : (s.chan c).rehomed.isJack = false := h.not_jack
  have hact : act (.rehome c) s = { st := s.setChan c (s.chan c).rehomed, acts := [.motorEnd c] ++ [.restCheck false] } := by
    show actRehome c s = _
    simp only [actRehome, hat, hmoves, hjack, if_true, Bool.false_eq_true, if_false]
    rfl
  have hsole : SoleMotor (s.setChan c (s.chan c).rehomed) u c m := h.after (outputOnly_setChan h.populated)
  have hp' : Parked (s.setChan c (s.chan c).rehomed) := parked_setChan hp c _
  exact does_act (by simp) hact (does_append (hsole.does_motorEnd hs hp') (does_evaluate_ended hs hp' .ended))

/-- The state at the extend end, with the travel test (R47, R50). -/
def State.extended (s : State) (c : Fin 16) : State :=
  let t := s.setChan c { s.chan c with extendEnd := true }
  if s.travelFails c = true then t.raised .travelMismatch (.chan c) else t

omit h in
theorem still_extended (hs : Still (s.setChan c { s.chan c with extendEnd := true })) : Still (s.extended c) := by
  unfold State.extended
  simp only []
  split
  · exact still_raised hs (by decide) _
  · exact hs

omit h in
theorem parked_extended (hp : Parked s) (c : Fin 16) : Parked (s.extended c) := by
  unfold State.extended
  simp only []
  split
  · exact parked_raised (parked_setChan hp c _) _ _
  · exact parked_setChan hp c _

omit h in
theorem outputOnly_extended (hc : s.populated c = true) : OutputOnly c s (s.extended c) := by
  have hset : OutputOnly c s (s.setChan c { s.chan c with extendEnd := true }) := outputOnly_setChan hc
  unfold State.extended
  simp only []
  split
  · exact hset.trans (outputOnly_raised _ c (by decide))
  · exact hset

theorem SoleMotor.extended : SoleMotor (s.extended c) u c m := h.after (outputOnly_extended h.populated)

/-- An extend that has come to its extend end (R47, R48, R50). -/
theorem SoleMotor.does_extendEnd (hd : m.dir = .extend) (hs : Still (s.setChan c { s.chan c with extendEnd := true })) (hp : Parked s) :
    Does 11 true [.extendEnd c] s ((s.extended c).endUnit u .ended).evaluated := by
  let t := s.setChan c { s.chan c with extendEnd := true }
  have hmoves : (s.chan c).moves .extend = true := by
    rw [moves_of_motion h.motion, hd]
    rfl
  have hact : act (.extendEnd c) s =
      { st := t
        acts := (if s.travelFails c = true then [.raise .travelMismatch (.chan c)] else []) ++ ([.motorEnd c] ++ [.restCheck false]) } := by
    show actExtendEnd c s = _
    simp only [actExtendEnd, hmoves, if_true, List.append_assoc]
    rfl
  have hraise : Does 1 false (if s.travelFails c = true then [.raise .travelMismatch (.chan c)] else []) t (s.extended c) :=
    does_if fun _ => does_raise_warn rfl
  have hs' : Still (s.extended c) := still_extended hs
  have hp' : Parked (s.extended c) := parked_extended hp c
  exact does_act (by simp) hact
    (does_append hraise (does_append (h.extended.does_motorEnd hs' hp') (does_evaluate_ended hs' hp' .ended)))
end

/-! ## A fault of a channel that works for the user (R162, R163) -/

/-- A channel with a motion record keeps its state until the record ends (R21, R163). -/
theorem takeLock_moving {x : Channel} {m : Motion} (h : x.motion = some m) (k : FaultKind) :
    x.takeLock k = { x with lock := some k } := by
  have hstate : (if x.state = .disabled then ChanState.disabled else if x.motion.isSome then x.state else .faulted) = x.state := by
    rw [h]
    split
    · next hdisabled => exact hdisabled.symm
    · rfl
  unfold Channel.takeLock
  rw [hstate]

section
variable {s : State} {u : UnitId} {c : Fin 16} {m : Motion} (hc : c ∈ s.unitChans u) (hw : (s.unit u).state ≠ .idle)
  (ho : (s.unit u).origin = some .user) (hs : Still s) (hp : Parked s)
include hc hw ho hs hp

/-- A STOP fault of a channel ends its unit's work with FAULT. -/
theorem does_raise_stop_chan {k : FaultKind} (hk : k.severity = .stop) (hx : k ≠ .awningExposed) :
    Does 6 true [.raise k (.chan c)] s ((s.raised k (.chan c)).endUnit u .fault).evaluated :=
  does_raise_ends hk hx (reach_chan (s := s.raised k (.chan c)) hc hw) hs hp hw ho

/-- A LOCK fault of a channel with a record gives the channel its lock and ends its unit's work with FAULT. -/
theorem does_raise_lock_chan {k : FaultKind} (hk : k.severity = .lock) (hm : (s.chan c).motion = some m) :
    Does 6 true [.raise k (.chan c)] s
      (((s.raised k (.chan c)).setChan c { s.chan c with lock := some k }).endUnit u .fault).evaluated := by
  have hx : k ≠ .awningExposed := fun e => by rw [e] at hk; cases hk
  let t := (s.raised k (.chan c)).setChan c { s.chan c with lock := some k }
  have hlock : (s.raised k (.chan c)).lockAll k ((s.raised k (.chan c)).lockChans (.chan c)) = t := by
    rw [lockAll_one (s.raised k (.chan c)) k (List.mem_filter.mp hc).2]
    exact congrArg (State.setChan _ c) (takeLock_moving hm k)
  have hreach : (s.raised k (.chan c)).reach (.chan c) = [u] := reach_chan (s := s.raised k (.chan c)) hc hw
  have hact : act (.raise k (.chan c)) s =
      { st := t, acts := [.endUnits [{ unit := u, why := .fault, cause := .fault k, subject := some (.chan c) }]] } := by
    have hends : ((s.raised k (.chan c)).reach (.chan c)).map (fun u =>
        ({ unit := u, why := .fault, cause := .fault k, subject := some (.chan c) } : Ending)) =
        [{ unit := u, why := .fault, cause := .fault k, subject := some (.chan c) }] := by rw [hreach]; rfl
    rw [← hends, ← hlock]
    simp only [act, actRaise, State.raised, hk]
  have hst : Still t := still_setChan (still_raised hs hx _) ⟨rfl, rfl, rfl, rfl, rfl, rfl⟩ id
  exact does_act (by simp) hact (does_ends hst (parked_setChan (parked_raised hp k _) c _) hw ho)
end

end Sys2Proof.Machine
end

section
/-! SUPPORT. What a STALL event does to the work of a USER unit, away from the ends and at them (R46, R47, R48, R49). -/

namespace Sys2Proof.Machine

/-! ## Channels that go on reading STOWED (R6, R7, R112) -/

theorem rest_stowed_iff (x : Channel) (b : Nat) :
    x.rest b = .stowed ↔ x.cond = .limitRet ∧ (x.isJack = true ∨ (x.known = true ∧ x.position ≤ b)) := by
  unfold Channel.rest
  cases hjack : x.isJack with
  | true => cases x.latch <;> simp
  | false =>
    cases hknown : x.known with
    | false => simp
    | true =>
      by_cases hhome : x.position ≤ b ∧ x.cond = .limitRet
      · simp [hhome]
      · have hnot : ¬(x.cond = .limitRet ∧ x.position ≤ b) := fun h => hhome h.symm
        cases x.extendEnd <;> simp [hhome, hnot]

theorem roomRestOf_stowed_iff (l : List Rest) : roomRestOf l = .stowed ↔ ∀ r ∈ l, r = .stowed := by
  unfold roomRestOf
  split
  · next h => simpa using h
  · next h =>
    have hout : ¬∀ r ∈ l, r = .stowed := by simpa using h
    refine iff_of_false ?_ hout
    split
    · nofun
    · split <;> nofun

/-- No AWNING_EXPOSED is listed as present. -/
def State.Unexposed (s : State) : Prop := ∀ e ∈ s.flt.entries, e.kind = .awningExposed → e.present = false

/-- A channel that goes on reading STOWED, and begins no retract, leaves a still state still. -/
theorem still_setChan_stowed {s : State} (h : Still s) (hx : s.Unexposed) {c : Fin 16} {x : Channel} (hk : x.kind = (s.chan c).kind)
    (hrest : ∀ b, (s.chan c).rest b = .stowed → x.rest b = .stowed)
    (hm : (s.chan c).moves .retract = false → x.moves .retract = false) : Still (s.setChan c x) := by
  have hstowed (d : Fin 16) (hd : s.rest d = .stowed) : (s.setChan c x).rest d = .stowed := by
    unfold State.rest at hd ⊢
    rw [State.setChan_chan]
    split
    · next hdc => exact hrest _ (hdc ▸ hd)
    · exact hd
  have hrooms (hs : s.roomsStowed = true) : (s.setChan c x).roomsStowed = true := by
    unfold State.roomsStowed at hs ⊢
    rw [List.all_eq_true] at hs ⊢
    intro r hr
    have hroom := hs r hr
    rw [Bool.or_eq_true, decide_eq_true_iff] at hroom ⊢
    refine hroom.imp id fun hread => ?_
    unfold State.roomRest at hread ⊢
    rw [roomRestOf_stowed_iff, List.forall_mem_map] at hread ⊢
    rw [unitChans_setChan hk]
    exact fun d hd => hstowed d (hread d hd)
  refine ⟨fun e he hke hpr => absurd hpr (by rw [hx e he hke]; nofun), h.jacks.imp hrooms fun hj d hd => ?_⟩
  rw [State.setChan_chan]
  split
  · next hdc => exact hm (hdc ▸ hj d hd)
  · exact hj d hd

theorem still_rehomed {s : State} (h : Still s) (hx : s.Unexposed) (c : Fin 16) : Still (s.setChan c (s.chan c).rehomed) :=
  still_setChan_stowed h hx rfl (fun b hs => by
    obtain ⟨hcond, -⟩ := (rest_stowed_iff _ b).mp hs
    exact (rest_stowed_iff _ b).mpr ⟨hcond, .inr ⟨rfl, Int.natCast_nonneg b⟩⟩) id

theorem still_flagged {s : State} (h : Still s) (hx : s.Unexposed) (c : Fin 16) :
    Still (s.setChan c { s.chan c with extendEnd := true }) :=
  still_setChan_stowed h hx rfl (fun b hs => (rest_stowed_iff _ b).mpr ((rest_stowed_iff (s.chan c) b).mp hs)) id

/-! ## The outcome of a stall (R46, R47) -/

theorem windowed_chan (s : State) (c : Fin 16) (m : Motion) (k : Nat) : (s.windowed c m k).chan c = { s.chan c with
    speed := s.speedNow c m
    motion := some { m with winStart := s.frame, winPos := (s.chan c).position, stallCount := k } } := by
  unfold State.windowed
  rw [State.setChan_chan, if_pos rfl]

theorem stallActs_windowed (s : State) (c : Fin 16) (m : Motion) (k : Nat) (d : Dir) :
    stallActs (s.windowed c m k) c d = stallActs s c d := by
  unfold stallActs
  rw [windowed_chan]
  rfl

section
variable {s : State} {c : Fin 16}

theorem stallActs_away {d : Dir}
    (hret : d = .retract → if (s.chan c).known then ((s.motorPar c).endBand : Int) < (s.chan c).position
      else (s.chan c).cond ≠ .limitRet)
    (hext : d = .extend → (s.chan c).known = true ∧ (s.chan c).position < (s.motorPar c).travel - (s.motorPar c).endBand) :
    stallActs s c d = [.raise .stall (.chan c)] := by
  unfold stallActs
  cases d with
  | retract =>
    have haway := hret rfl
    cases hk : (s.chan c).known with
    | true =>
      rw [hk, if_pos rfl] at haway
      simp [hk, haway]
    | false =>
      rw [hk, if_neg Bool.false_ne_true] at haway
      simp [hk, haway]
  | extend =>
    obtain ⟨hk, haway⟩ := hext rfl
    exact if_neg (by rw [hk, Bool.not_true, Bool.false_or, decide_eq_true_iff]; omega)

theorem stallActs_home (h : if (s.chan c).known then (s.chan c).position ≤ (s.motorPar c).endBand else (s.chan c).cond = .limitRet) :
    stallActs s c .retract = [.rehome c] := by
  unfold stallActs
  cases hk : (s.chan c).known with
  | true =>
    rw [hk, if_pos rfl] at h
    simp [hk, h]
  | false =>
    rw [hk, if_neg Bool.false_ne_true] at h
    simp [hk, h]

theorem stallActs_out
    (h : (s.chan c).known = true → ((s.motorPar c).travel : Int) - (s.motorPar c).endBand ≤ (s.chan c).position) :
    stallActs s c .extend = [.extendEnd c] := by
  have hat : (!(s.chan c).known || decide (((s.motorPar c).travel : Int) - (s.motorPar c).endBand ≤ (s.chan c).position)) = true := by
    cases hk : (s.chan c).known with
    | true => exact decide_eq_true (h hk)
    | false => rfl
  exact if_pos hat

theorem travelFails_iff : s.travelFails c = true ↔
    (s.chan c).known = true ∧ (s.motorPar c).endTolerance < ((s.chan c).position - (s.motorPar c).travel).natAbs := by
  unfold State.travelFails
  rw [Bool.and_eq_true, decide_eq_true_iff]
end

/-! ## The event of a STALL -/

theorem SoleMotor.windowed {s : State} {u : UnitId} {c : Fin 16} {m : Motion} (h : SoleMotor s u c m) : SoleMotor (s.windowed c m 2) u c
    { m with winStart := s.frame, winPos := (s.chan c).position, stallCount := 2 } :=
  h.setChan rfl rfl h.origin h.moving

section
variable {s : State} {u : UnitId} {c : Fin 16} {m : Motion} (hs : Steady s) (ho : s.frameOver = true) (hc : s.populated c = true)
  (hm : (s.chan c).motion = some m) (hdue : s.par.speedWindow ≤ elapsed s.frame m.winStart) (hj : s.stallJudged c m)
  (hst : s.stallStands c m) (hone : m.stallCount = 1)
include hs ho hc hm hdue hj hst hone

/-- The event of a second stall window in a row that ends unit u's work, from what its acts do. -/
theorem exec_stall {t : State} {why : Reason} {k : Nat} (hw : (t.unit u).state ≠ .idle) (hq : t.queueOnly u) (hstill : Still t)
    (hp : Parked t) (hd : Does k true (stallActs s c m.dir) (s.windowed c m 2) (t.endUnit u why).evaluated) (hk : k ≤ 4000) :
    exec (.speedWindowEnd c) s = .next (finish (t.endUnit u why)) := by
  rw [exec_speedWindowEnd ho hc, windowEnd_stall hm hdue hj hst hone, stallActs_windowed]
  exact event_ends hs.running hd hk (endUnit_still hstill u why) (endUnit_parked hp u why) fun _ => endUnit_queue hw hq why

/-- Away from the ends STALL is raised and the unit's work ends with FAULT (R46, R162). -/
theorem exec_stall_away (hu : c ∈ s.unitChans u) (hw : (s.unit u).state ≠ .idle) (huser : (s.unit u).origin = some .user)
    (hq : s.queueOnly u) (haway : stallActs s c m.dir = [.raise .stall (.chan c)]) :
    exec (.speedWindowEnd c) s = .next (finish (((s.windowed c m 2).raised .stall (.chan c)).endUnit u .fault)) := by
  have hstill := still_windowed hm hs.still 2
  have hparked : Parked (s.windowed c m 2) := parked_setChan hs.parked c _
  have hu' : c ∈ (s.windowed c m 2).unitChans u := by
    have hchans : (s.windowed c m 2).unitChans u = s.unitChans u := unitChans_setChan (by rfl) u
    rwa [hchans]
  refine exec_stall hs ho hc hm hdue hj hst hone (t := (s.windowed c m 2).raised .stall (.chan c)) hw hq
    (still_raised hstill (by decide) _) (parked_raised hparked _ _) ?_ (by omega : 6 ≤ 4000)
  rw [haway]
  exact does_raise_stop_chan hu' hw huser hstill hparked rfl (by decide)

variable (hsole : SoleMotor s u c m) (hx : s.Unexposed) (hq : s.queueOnly u)
include hsole hx hq

/-- A retract that stalls at its end is re-homed, and the work ends with END (R46, R48, R49). -/
theorem exec_stall_home (hd : m.dir = .retract) (hhome : stallActs s c .retract = [.rehome c]) :
    exec (.speedWindowEnd c) s =
      .next (finish (((s.windowed c m 2).setChan c ((s.windowed c m 2).chan c).rehomed).endUnit u .ended)) := by
  have hstill := still_rehomed (still_windowed hm hs.still 2) hx c
  have hparked : Parked (s.windowed c m 2) := parked_setChan hs.parked c _
  refine exec_stall hs ho hc hm hdue hj hst hone (t := (s.windowed c m 2).setChan c _) hsole.works hq hstill
    (parked_setChan hparked c _) ?_ (by omega : 10 ≤ 4000)
  rw [hd, hhome]
  exact hsole.windowed.does_rehome hd hstill hparked

/-- An extend that stalls at its end has the travel test, and the work ends with END (R47, R48). -/
theorem exec_stall_out (hd : m.dir = .extend) (hout : stallActs s c .extend = [.extendEnd c]) :
    exec (.speedWindowEnd c) s = .next (finish (((s.windowed c m 2).extended c).endUnit u .ended)) := by
  have hstill := still_flagged (still_windowed hm hs.still 2) hx c
  have hparked : Parked (s.windowed c m 2) := parked_setChan hs.parked c _
  have hsole' := hsole.windowed.extended
  refine exec_stall hs ho hc hm hdue hj hst hone (t := (s.windowed c m 2).extended c) hsole'.works ?_ (still_extended hstill)
    (parked_extended hparked c) ?_ (by omega : 11 ≤ 4000)
  · rw [State.queueOnly, (outputOnly_extended hsole.windowed.populated).sgu]
    exact hq
  · rw [hd, hout]
    exact hsole.windowed.does_extendEnd hd hstill hparked
end

end Sys2Proof.Machine
end

section
/-! SUPPORT. The slot of a node whose output A drives the only motor of a USER unit (R29 to R32, R49, R50, R55, R56, R163). -/

namespace Sys2Proof.Machine

/-! ## Output A served (R30 to R32) -/

/-- The state with another record and another channel of output A of node n. -/
def State.served (s : State) (n : Fin 8) (o : OutRec) (x : Channel) : State :=
  (s.setNode n { s.node n with outA := o }).setChan (chanA n) x

theorem setNode_again (s : State) (n : Fin 8) (x y : Node) : (s.setNode n x).setNode n y = s.setNode n y := by
  unfold State.setNode
  simp only [Vector.set_set]

section
variable (s : State) (n : Fin 8) (o p : OutRec) (x y : Channel)

theorem served_chan : (s.served n o x).chan (chanA n) = x := by
  unfold State.served
  rw [State.setChan_chan, if_pos rfl]

theorem served_node : (s.served n o x).node n = { s.node n with outA := o } := by
  show (s.setNode n _).node n = _
  rw [State.setNode_node, if_pos rfl]

theorem served_outRec : (s.served n o x).outRec (chanA n) = o := by
  rw [outRec_chanA, served_node]

theorem setOutRec_chanA : s.setOutRec (chanA n) o = s.setNode n { s.node n with outA := o } := by
  have hA : isOutB (chanA n) = false := (by decide : ∀ n : Fin 8, isOutB (chanA n) = false) n
  unfold State.setOutRec State.modNode
  rw [nodeOf_chanA, hA]
  rfl

theorem served_setChan : (s.served n o x).setChan (chanA n) y = s.served n o y := setChan_again _ _ _ _

theorem served_setOutRec : (s.served n o x).setOutRec (chanA n) p = s.served n p x := by
  rw [setOutRec_chanA, served_node]
  exact congrArg (fun t : State => t.setChan (chanA n) x) (setNode_again s n _ _)

theorem served_counted : (s.served n o x).counted n = (s.setNode n { s.node n with misses := 0, outA := o }).setChan (chanA n) x := by
  unfold State.counted
  rw [served_node]
  exact congrArg (fun t : State => t.setChan (chanA n) x) (setNode_again s n _ _)

theorem setChan_self (c : Fin 16) : s.setChan c (s.chan c) = s := by
  have h : s.chc.chans.set c (s.chc.chans.get c) = s.chc.chans := by simp [Vector.get_eq_getElem]
  unfold State.setChan State.chan
  rw [h]

theorem withPosition_served (cnt : BitVec 16) : withPosition s (chanA n) cnt =
    s.served n { (s.node n).outA with lastCount := some cnt } ((withPosition s (chanA n) cnt).chan (chanA n)) := by
  have hfirst : s.setOutRec (chanA n) { s.outRec (chanA n) with lastCount := some cnt } =
      s.setNode n { s.node n with outA := { (s.node n).outA with lastCount := some cnt } } := by
    rw [setOutRec_chanA, outRec_chanA]
  unfold State.served
  rw [← hfirst]
  unfold withPosition
  simp only []
  split
  · exact (setChan_self _ _).symm
  · exact (congrArg (State.setChan _ _) (by rw [State.modChan_chan, if_pos rfl])).symm
end

/-- The end of a unit's work does not look at the node table. -/
theorem endUnit_counted (s : State) (n : Fin 8) (u : UnitId) (why : Reason) : (s.endUnit u why).counted n = (s.counted n).endUnit u why := by
  have hnode : (s.endUnit u why).node n = s.node n := endUnit_node s u why n
  have hset (x : Node) : (s.endUnit u why).setNode n x = (s.setNode n x).endUnit u why := by
    unfold State.endUnit
    rw [State.setNode_unit]
    split
    · rfl
    · cases u <;> rfl
  unfold State.counted
  rw [hnode, hset]

/-! ## What the acts of output A do -/

section
variable {s : State} {c : Fin 16} (hj : (s.chan c).isJack = false)
include hj

theorem does_position_motor (cnt : BitVec 16) : Does 2 false [.position c cnt] s (withPosition s c cnt) := by
  by_cases hl : (s.outRec c).lastCount = none
  · refine does_mono (does_done (by simp) ?_ (does_nil _)) (by omega : 0 + 1 ≤ 2)
    simp [act, actPosition, hl, withPosition, Out.done]
  · refine does_position_tested hl (does_done (by simp) ?_ (does_nil _))
    have hjack : ((withPosition s c cnt).chan c).isJack = false := (alike_position s c c cnt).isJack.trans hj
    show actJackTest c _ = _
    unfold actJackTest
    simp only [hjack, Bool.false_eq_true, false_and, if_false]
    split <;> rfl

theorem electric_motor (i p : Nat) : act (.electric c i p) s = (s.setChan c { s.chan c with current := i }).dragCount c i := by
  show actElectric c i p s = _
  unfold actElectric
  simp only [hj, Bool.false_eq_true, if_false]
end

section
variable {s : State} {c : Fin 16} {m : Motion} (hm : (s.chan c).motion = some m) (ha : m.arrived = false) (i : Nat)
include hm ha

/-- Within its grace period, or in the running band, a current is not counted (R55). -/
theorem dragCount_inside (h : ¬(reached s.frame m.graceEnd = true ∧ (i < 2 * (s.motorPar c).dragLow ∨ 2 * (s.motorPar c).dragHigh < i))) :
    s.dragCount c i = .done s := by
  have hout : (reached s.frame m.graceEnd && dragOutside (s.motorPar c) i) = false := by
    rw [Bool.eq_false_iff]
    intro hboth
    rw [Bool.and_eq_true] at hboth
    exact h ⟨hboth.1, of_decide_eq_true hboth.2⟩
  unfold State.dragCount
  simp only [hm, ha, Bool.not_false, Bool.true_and, hout, Bool.false_eq_true, if_false]

variable (hr : reached s.frame m.graceEnd = true) (hout : i < 2 * (s.motorPar c).dragLow ∨ 2 * (s.motorPar c).dragHigh < i)
  (hlim : (s.chan c).dragCount < 65535)
include hr hout hlim

/-- A current outside the running band is counted, and past drag-limit reported once (R55). -/
theorem dragCount_outside : s.dragCount c i =
    if (s.motorPar c).dragLimit ≤ (s.chan c).dragCount ∧ (s.chan c).dragReported = false then
      { st := s.setChan c { s.chan c with dragCount := (s.chan c).dragCount + 1, dragReported := true }, acts := [.raise .drag (.chan c)] }
    else .done (s.setChan c { s.chan c with dragCount := (s.chan c).dragCount + 1 }) := by
  have hoff : dragOutside (s.motorPar c) i = true := decide_eq_true hout
  have hsat : sat 65535 (s.chan c).dragCount = (s.chan c).dragCount + 1 := if_pos hlim
  unfold State.dragCount
  simp only [hm, ha, hr, hoff, hsat, Bool.not_false, Bool.true_and, if_true, Bool.and_eq_true, decide_eq_true_iff, Bool.not_eq_true',
    Nat.lt_succ_iff]
end

/-- A validated condition whose old code was no fault hands on what the new code does. -/
theorem condition_validated {s : State} {c : Fin 16} {k : Cond} (hcand : (s.outRec c).candidate = some k) (hne : k ≠ (s.chan c).cond)
    (hold : condFault (s.chan c).cond = none) :
    let t := (s.setOutRec c { s.outRec c with candidate := none }).setChan c { s.chan c with cond := k }
    act (.condition c k) s = { st := t, acts := newCondActs t c k ++ [.restCheck false] } := by
  intro t
  show actCondition c k s = _
  unfold actCondition
  rw [if_neg hne, if_pos hcand]
  unfold condActs newCondActs
  simp only [hold, List.nil_append]
  rfl

/-! ## The slot -/

/-- A VALID report reaches a READY node whose output B serves no channel and whose output A drives the only motor of a USER unit; no
level sequence runs, no AWNING_EXPOSED stands and no jack retracts. -/
structure SoleSlot (s : State) (n : Fin 8) (reply : SlotReply) (f : Status) (u : UnitId) (m : Motion) : Prop where
  steady : Steady s
  level : s.lvs.seq.state = .idle
  ready : (s.node n).state = .ready
  valid : statusOf n reply = some f
  alone : s.populated (chanB n) = false
  sole : SoleMotor s u (chanA n) m
  queue : s.queueOnly u
  unexposed : s.Unexposed
  jacks : ∀ d ∈ jackChans, (s.chan d).moves .retract = false

/-- The readings of output A delivered, its condition code not yet (R30, R31). -/
def State.readA (s : State) (n : Fin 8) (f : Status) : State :=
  s.served n { (s.node n).outA with lastCount := some f.countA } (s.intakeChan (chanA n) f.countA f.currentA f.pressureA)

theorem outputOnly_served {s : State} {n : Fin 8} (hc : s.populated (chanA n) = true) {o : OutRec} {x : Channel}
    (hk : x.kind = (s.chan (chanA n)).kind) (hm : x.motion = (s.chan (chanA n)).motion) : OutputOnly (chanA n) s (s.served n o x) := by
  unfold State.served
  rw [← setOutRec_chanA]
  exact (outputOnly_setOutRec s _ o).trans (outputOnly_setChan (s := s.setOutRec _ o) hc hk hm)

/-- What output A hands on in a VALID slot (R29). -/
def reportActs (n : Fin 8) (f : Status) : List Act :=
  [.position (chanA n) f.countA, .electric (chanA n) f.currentA f.pressureA, .condition (chanA n) f.condA]

/-- The end of a slot's intake, of the frame too at slot 7 (R24). -/
def slotClosed (n : Fin 8) (t : State) : State := if n = 7 then (finish t).frameEnd else finish t

theorem slotClosed_evaluated (n : Fin 8) (t : State) : slotClosed n (t.evaluated.counted n) = slotClosed n (t.counted n) := by
  have hfinish : finish (t.evaluated.counted n) = finish (t.counted n) := finish_evaluated (t.counted n)
  unfold slotClosed
  rw [hfinish]

section
variable {s : State} {n : Fin 8} {reply : SlotReply} {f : Status} {u : UnitId} {m : Motion} (h : SoleSlot s n reply f u m)
include h

theorem SoleSlot.still {t : State} (k : OutputOnly (chanA n) s.closeSlot t) : Still t := by
  refine ⟨fun e he hexp hpr => ?_, .inr fun d hd => ?_⟩
  · rcases k.listed e he with hold | ⟨-, hnot⟩
    · rw [h.unexposed e hold hexp] at hpr
      cases hpr
    · exact absurd hexp hnot
  · have hmotion : (t.chan d).motion = (s.chan d).motion := by
      by_cases hdc : d = chanA n
      · rw [hdc]
        exact k.motion
      · rw [k.chanOthers d hdc]
        rfl
    have hjack := h.jacks d hd
    unfold Channel.moves at hjack ⊢
    rwa [hmotion]

theorem SoleSlot.parked {t : State} (k : OutputOnly (chanA n) s.closeSlot t) : Parked t :=
  k.parked ⟨h.steady.parked.park, h.steady.parked.alarm⟩

theorem SoleSlot.readyAfter {t : State} (k : OutputOnly (chanA n) s.closeSlot t) : (t.node n).state = .ready := by
  have hnode := k.node
  rw [nodeOf_chanA] at hnode
  rw [hnode]
  exact h.ready

theorem SoleSlot.soleAfter {t : State} (k : OutputOnly (chanA n) s.closeSlot t) : SoleMotor t u (chanA n) m :=
  SoleMotor.after (s := s.closeSlot) ⟨h.sole.sole, h.sole.motor, h.sole.single, h.sole.works, h.sole.user, h.sole.motion, h.sole.origin,
    h.sole.moving⟩ k

/-- The acts of the slot: what output A hands on, then the message, the count and the ends. -/
theorem SoleSlot.acts : s.slotActs n reply =
    reportActs n f ++ [.message n f.ctl f.data, .countValid n, .lvsIntake [], .restCheck false] := by
  have hnone : (s.nodeChans n).filter (fun c => (s.chan c).movesFor .level) = [] := by
    have hchans : s.nodeChans n = [chanA n] := by simp [State.nodeChans, h.sole.populated, h.alone]
    simp [hchans, Channel.movesFor, h.sole.motion, h.sole.origin]
  rw [slotActs_valid h.valid (by rw [h.ready]; nofun)]
  unfold State.intakeActs
  simp only [hnone, h.sole.populated, h.alone, if_true, Bool.false_eq_true, if_false]
  rfl

/-- The event of the slot, from what output A's acts lead to. -/
theorem SoleSlot.event {v : State} {k : Nat} {x : Bool}
    (hd : Does k x (reportActs n f) s.closeSlot v)
    (hk : k ≤ 1000) (hs : Still v) (hp : Parked v) (hq : x = true → v.sgu.queue = []) (hr : (v.node n).state = .ready)
    (hl : v.lvs.seq.state = .idle) : exec (.slotIntake n reply) s = .next (slotClosed n (v.counted n)) := by
  have hs' : Still (v.counted n) := ⟨hs.exposed, hs.jacks⟩
  have hp' : Parked (v.counted n) := ⟨hp.park, hp.alarm⟩
  have hl' : (v.counted n).lvs.seq.state = .idle := hl
  have hall := does_append hd (does_append (does_message_ready hr f.ctl f.data) (does_append (does_countValid_ready hr)
    (does_append (does_intakeNil hl') (does_evaluate hs' hp' false))))
  have hcommit : commit s.closeSlot (s.slotActs n reply) = finish (v.counted n) := by
    rw [h.acts]
    exact (commit_does hall (by omega) (still_evaluated hs') (parked_evaluated hp') fun hx => hq (by simpa using hx)).trans
      (finish_evaluated _)
  show execSlotIntake n reply s = _
  simp only [execSlotIntake, running_of h.steady.running, if_true, hcommit]
  rfl

/-- The event of a slot that goes on with the unit's work. -/
theorem SoleSlot.exec_on {v : State} {k : Nat}
    (hd : Does k false (reportActs n f) s.closeSlot v)
    (hk : k ≤ 1000) (hv : OutputOnly (chanA n) s.closeSlot v) :
    exec (.slotIntake n reply) s = .next (slotClosed n (v.counted n)) :=
  h.event hd hk (h.still hv) (h.parked hv) nofun (h.readyAfter hv) (by rw [hv.lvs]; exact h.level)

/-- The event of a slot that ends the unit's work. -/
theorem SoleSlot.exec_ended {t : State} {k : Nat} {why : Reason}
    (hd : Does k true (reportActs n f) s.closeSlot (t.endUnit u why).evaluated)
    (hk : k ≤ 1000) (ht : OutputOnly (chanA n) s.closeSlot t) :
    exec (.slotIntake n reply) s = .next (slotClosed n ((t.counted n).endUnit u why)) := by
  have hqueue : t.queueOnly u := by
    rw [State.queueOnly, ht.sgu]
    exact h.queue
  have hnode : (((t.endUnit u why).evaluated).node n).state = .ready :=
    (congrArg Node.state (endUnit_node t u why n)).trans (h.readyAfter ht)
  have hlevel : (t.endUnit u why).evaluated.lvs.seq.state = .idle :=
    (congrArg (fun l : Lvs => l.seq.state) ((endUnit_lvs t u why).trans ht.lvs)).trans h.level
  rw [h.event hd hk (still_evaluated (endUnit_still (h.still ht) u why)) (parked_evaluated (endUnit_parked (h.parked ht) u why))
    (fun _ => endUnit_queue (h.soleAfter ht).works hqueue why) hnode hlevel, slotClosed_evaluated, endUnit_counted]

/-! ## The readings -/

theorem SoleSlot.outputOnly {o : OutRec} {x : Channel} (hk : x.kind = (s.chan (chanA n)).kind)
    (hm : x.motion = (s.chan (chanA n)).motion) : OutputOnly (chanA n) s.closeSlot (s.closeSlot.served n o x) :=
  outputOnly_served (s := s.closeSlot) h.sole.populated hk hm

theorem SoleSlot.does_position :
    Does 2 false [.position (chanA n) f.countA] s.closeSlot (withPosition s.closeSlot (chanA n) f.countA) :=
  does_position_motor (s := s.closeSlot) h.sole.not_jack f.countA

theorem SoleSlot.electric : act (.electric (chanA n) f.currentA f.pressureA) (withPosition s.closeSlot (chanA n) f.countA) =
    (s.closeSlot.readA n f).dragCount (chanA n) f.currentA := by
  have hjack : (s.closeSlot.chan (chanA n)).isJack = false := h.sole.not_jack
  have hread : s.closeSlot.intakeChan (chanA n) f.countA f.currentA f.pressureA =
      { (withPosition s.closeSlot (chanA n) f.countA).chan (chanA n) with current := f.currentA } := by
    rw [intakeChan_eq, hjack, withPosition_chan, if_pos rfl]
    rfl
  have hjack' : ((withPosition s.closeSlot (chanA n) f.countA).chan (chanA n)).isJack = false :=
    (alike_position _ _ _ _).isJack.trans hjack
  rw [electric_motor hjack', State.readA, hread, withPosition_served, served_setChan, served_chan]

/-- The slot's state with output A served, its candidate gone, and this channel (R30, R32). -/
def State.slotA (s : State) (n : Fin 8) (f : Status) (x : Channel) : State :=
  s.closeSlot.served n { lastCount := some f.countA, candidate := none } x

omit h in
theorem slotA_counted (s : State) (n : Fin 8) (f : Status) (x : Channel) : (s.slotA n f x).counted n =
    (s.closeSlot.setNode n { s.node n with
      misses := 0, outA := { lastCount := some f.countA, candidate := none } }).setChan (chanA n) x := served_counted s.closeSlot n _ x

/-! ## A condition code is validated (R32, R49, R50, R56) -/

omit h in
theorem readA_withoutCandidate (s : State) (n : Fin 8) (f : Status) :
    (s.readA n f).setOutRec (chanA n) { (s.readA n f).outRec (chanA n) with candidate := none } =
      s.served n { lastCount := some f.countA, candidate := none } (s.intakeChan (chanA n) f.countA f.currentA f.pressureA) := by
  unfold State.readA
  rw [served_outRec, served_setOutRec]

/-- The channel of output A with its readings and its new condition code. -/
def State.validChan (s : State) (n : Fin 8) (f : Status) : Channel :=
  { s.intakeChan (chanA n) f.countA f.currentA f.pressureA with cond := f.condA }

/-- The slot's state in which output A has validated its new condition code, before what that hands on. -/
def State.validA (s : State) (n : Fin 8) (f : Status) : State := s.slotA n f (s.validChan n f)

omit h in
theorem validA_chan (s : State) (n : Fin 8) (f : Status) : (s.validA n f).chan (chanA n) = s.validChan n f := served_chan _ _ _ _

theorem SoleSlot.validA : OutputOnly (chanA n) s.closeSlot (s.validA n f) := h.outputOnly rfl rfl

theorem SoleSlot.soleValid : SoleMotor (s.validA n f) u (chanA n) m := h.soleAfter h.validA

theorem SoleSlot.validSet {x : Channel} (hk : x.kind = ((s.validA n f).chan (chanA n)).kind)
    (hm : x.motion = ((s.validA n f).chan (chanA n)).motion) : OutputOnly (chanA n) s.closeSlot ((s.validA n f).setChan (chanA n) x) :=
  h.validA.trans (outputOnly_setChan h.soleValid.populated hk hm)

/-- Output A's current is not counted for drag, and its code is validated after one that is no fault. -/
structure Validates (s : State) (n : Fin 8) (f : Status) (m : Motion) : Prop where
  inside : ¬(reached s.frame m.graceEnd = true ∧
    (f.currentA < 2 * (s.motorPar (chanA n)).dragLow ∨ 2 * (s.motorPar (chanA n)).dragHigh < f.currentA))
  candidate : (s.outRec (chanA n)).candidate = some f.condA
  new : f.condA ≠ (s.chan (chanA n)).cond
  old : condFault (s.chan (chanA n)).cond = none

section
variable (hv : Validates s n f m)
include hv

theorem SoleSlot.does_validated {w : State} {k : Nat} {x : Bool}
    (hd : Does k x (newCondActs (s.validA n f) (chanA n) f.condA ++ [.restCheck false]) (s.validA n f) w) :
    Does (k + 4) x (reportActs n f) s.closeSlot w := by
  have hchan : (s.closeSlot.readA n f).chan (chanA n) = s.intakeChan (chanA n) f.countA f.currentA f.pressureA := served_chan _ _ _ _
  have hmotion : ((s.closeSlot.readA n f).chan (chanA n)).motion = some m := by
    rw [hchan]
    exact h.sole.motion
  have helectric : act (.electric (chanA n) f.currentA f.pressureA) (withPosition s.closeSlot (chanA n) f.countA) =
      .done (s.closeSlot.readA n f) := h.electric.trans (dragCount_inside hmotion h.sole.moving _ hv.inside)
  have hcand : ((s.closeSlot.readA n f).outRec (chanA n)).candidate = some f.condA := by
    rw [State.readA, served_outRec, ← hv.candidate, outRec_chanA]
    rfl
  have hcond := condition_validated hcand (by rw [hchan]; exact hv.new) (by rw [hchan]; exact hv.old)
  rw [readA_withoutCandidate, served_setChan, hchan] at hcond
  have hall := does_append h.does_position (does_append (does_done (by simp) helectric (does_nil _)) (does_act (by simp) hcond hd))
  simp only [Bool.false_or] at hall
  exact does_mono hall (by omega)

/-- A validated code that ends the unit's work. -/
theorem SoleSlot.exec_validated {t : State} {k : Nat} {why : Reason} {l : List Act}
    (hl : newCondActs (s.validA n f) (chanA n) f.condA = l) (hd : Does k true l (s.validA n f) (t.endUnit u why).evaluated)
    (hk : k ≤ 100) (ht : OutputOnly (chanA n) s.closeSlot t) :
    exec (.slotIntake n reply) s = .next (slotClosed n ((t.counted n).endUnit u why)) := by
  subst hl
  have hall := does_append hd (does_evaluate_ended (h.still ht) (h.parked ht) why)
  exact h.exec_ended (h.does_validated hv hall) (by omega) ht

/-- A validated LIMIT_RET ends a retract with END (R49). -/
theorem SoleSlot.exec_limitRet (hk : f.condA = .limitRet) (hd : m.dir = .retract) : exec (.slotIntake n reply) s =
    .next (slotClosed n ((((s.validA n f).setChan (chanA n) ((s.validA n f).chan (chanA n)).rehomed).counted n).endUnit u .ended)) :=
  h.exec_validated hv (by simp [newCondActs, hk, condFault])
    (h.soleValid.does_rehome hd (h.still (h.validSet rfl rfl)) (h.parked h.validA)) (by omega) (h.validSet rfl rfl)

/-- A validated LIMIT_EXT ends an extend with END, after the travel test (R47, R50). -/
theorem SoleSlot.exec_limitExt (hk : f.condA = .limitExt) (hd : m.dir = .extend) : exec (.slotIntake n reply) s =
    .next (slotClosed n ((((s.validA n f).extended (chanA n)).counted n).endUnit u .ended)) :=
  h.exec_validated hv (by simp [newCondActs, hk, condFault, h.soleValid.motor, moves_of_motion h.soleValid.motion, hd])
    (h.soleValid.does_extendEnd hd (h.still (h.validSet rfl rfl)) (h.parked h.validA)) (by omega)
    (h.validA.trans (outputOnly_extended h.soleValid.populated))

omit h hv in
theorem newCondActs_fault {k : Cond} {kind : FaultKind} (hk : condFault k = some kind) (s : State) (c : Fin 16) :
    newCondActs s c k = [.raise kind (.chan c)] := by
  have hret : k ≠ .limitRet := fun e => by rw [e] at hk; cases hk
  have hext : k ≠ .limitExt := fun e => by rw [e] at hk; cases hk
  simp [newCondActs, hk, hret, hext]

/-- A protection code that locks the channel ends the work with FAULT (R56, R163). -/
theorem SoleSlot.exec_lock {kind : FaultKind} (hk : condFault f.condA = some kind) (hs : kind.severity = .lock) :
    exec (.slotIntake n reply) s = .next (slotClosed n (((((s.validA n f).raised kind (.chan (chanA n))).setChan (chanA n)
      { (s.validA n f).chan (chanA n) with lock := some kind }).counted n).endUnit u .fault)) := by
  have hx : kind ≠ .awningExposed := fun e => by rw [e] at hs; cases hs
  have hraised := h.validA.trans (outputOnly_raised _ _ hx)
  exact h.exec_validated hv (newCondActs_fault hk _ _)
    (does_raise_lock_chan h.soleValid.mem h.soleValid.works h.soleValid.user (h.still h.validA) (h.parked h.validA) hs h.soleValid.motion)
    (by omega) (hraised.trans (outputOnly_setChan (h.soleAfter hraised).populated))

/-- A protection code that locks nothing ends the work with FAULT (R56). -/
theorem SoleSlot.exec_stop {kind : FaultKind} (hk : condFault f.condA = some kind) (hs : kind.severity = .stop) (hx : kind ≠ .awningExposed) :
    exec (.slotIntake n reply) s =
      .next (slotClosed n ((((s.validA n f).raised kind (.chan (chanA n))).counted n).endUnit u .fault)) :=
  h.exec_validated hv (newCondActs_fault hk _ _)
    (does_raise_stop_chan h.soleValid.mem h.soleValid.works h.soleValid.user (h.still h.validA) (h.parked h.validA) hs hx)
    (by omega) (h.validA.trans (outputOnly_raised _ _ hx))
end

/-! ## A current outside the running band (R55) -/

/-- The report of an unchanged condition code, from what output A's current does. -/
theorem SoleSlot.does_drawn {t : State} {k : Nat} (hsame : f.condA = (s.chan (chanA n)).cond)
    (hhome : (s.chan (chanA n)).cond = .limitRet → (s.chan (chanA n)).known = true)
    (hd : Does k false [.electric (chanA n) f.currentA f.pressureA] (withPosition s.closeSlot (chanA n) f.countA) t)
    (ha : JudgedAlike (t.chan (chanA n)) (s.chan (chanA n))) :
    Does (k + 3) false (reportActs n f) s.closeSlot (withoutCandidate t (chanA n)) := by
  have hcond := does_condition (hsame.trans ha.cond.symm) (by rw [ha.cond, ha.known]; exact hhome)
  exact does_mono (does_append h.does_position (does_append hd hcond)) (by omega)

omit h in
/-- Output A's candidate goes after its current is counted, and after DRAG. -/
theorem withoutCandidate_readA (s : State) (n : Fin 8) (f : Status) (x : Channel) :
    withoutCandidate ((s.closeSlot.readA n f).setChan (chanA n) x) (chanA n) = s.slotA n f x := by
  unfold withoutCandidate State.readA State.slotA
  rw [served_setChan, served_outRec, served_setOutRec]

omit h in
theorem withoutCandidate_raised (s : State) (c : Fin 16) (k : FaultKind) (sj : Subject) :
    withoutCandidate (s.raised k sj) c = (withoutCandidate s c).raised k sj := rfl

section
variable (hr : reached s.frame m.graceEnd = true)
  (hout : f.currentA < 2 * (s.motorPar (chanA n)).dragLow ∨ 2 * (s.motorPar (chanA n)).dragHigh < f.currentA)
  (hlim : (s.chan (chanA n)).dragCount < 65535)
include hr hout hlim

theorem SoleSlot.electric_outside : let x := s.intakeChan (chanA n) f.countA f.currentA f.pressureA
    act (.electric (chanA n) f.currentA f.pressureA) (withPosition s.closeSlot (chanA n) f.countA) =
      if (s.motorPar (chanA n)).dragLimit ≤ x.dragCount ∧ x.dragReported = false then
        { st := (s.closeSlot.readA n f).setChan (chanA n) { x with dragCount := x.dragCount + 1, dragReported := true }
          acts := [.raise .drag (.chan (chanA n))] }
      else .done ((s.closeSlot.readA n f).setChan (chanA n) { x with dragCount := x.dragCount + 1 }) := by
  intro x
  have hchan : (s.closeSlot.readA n f).chan (chanA n) = x := served_chan _ _ _ _
  rw [h.electric, dragCount_outside (s := s.closeSlot.readA n f) (by rw [hchan]; exact h.sole.motion) h.sole.moving _ hr hout
    (by rw [hchan]; exact hlim), hchan]
  rfl

variable (hsame : f.condA = (s.chan (chanA n)).cond) (hhome : (s.chan (chanA n)).cond = .limitRet → (s.chan (chanA n)).known = true)
include hsame hhome

/-- A current outside the running band is counted. -/
theorem SoleSlot.exec_counted : let x := s.intakeChan (chanA n) f.countA f.currentA f.pressureA
    x.dragCount < (s.motorPar (chanA n)).dragLimit ∨ x.dragReported = true →
    exec (.slotIntake n reply) s = .next (slotClosed n ((s.slotA n f { x with dragCount := x.dragCount + 1 }).counted n)) := by
  intro x hfew
  have hnot : ¬((s.motorPar (chanA n)).dragLimit ≤ x.dragCount ∧ x.dragReported = false) := fun ⟨hmany, hfirst⟩ =>
    hfew.elim (fun hless => absurd hmany (Nat.not_le.mpr hless)) fun htold => by rw [hfirst] at htold; cases htold
  have hrun := h.does_drawn hsame hhome
    (does_done (by simp) ((h.electric_outside hr hout hlim).trans (if_neg hnot)) (does_nil _))
    (by rw [State.setChan_chan, if_pos rfl]; exact ⟨rfl, rfl, rfl, rfl⟩)
  rw [withoutCandidate_readA] at hrun
  exact h.exec_on hrun (by omega) (h.outputOnly rfl rfl)

/-- Past drag-limit it raises DRAG once. -/
theorem SoleSlot.exec_drag : let x := s.intakeChan (chanA n) f.countA f.currentA f.pressureA
    (s.motorPar (chanA n)).dragLimit ≤ x.dragCount → x.dragReported = false →
    exec (.slotIntake n reply) s = .next (slotClosed n
      (((s.slotA n f { x with dragCount := x.dragCount + 1, dragReported := true }).raised .drag (.chan (chanA n))).counted n)) := by
  intro x hmany hfirst
  have hrun := h.does_drawn hsame hhome
    (does_act (by simp) ((h.electric_outside hr hout hlim).trans (if_pos ⟨hmany, hfirst⟩)) (does_raise_warn rfl))
    (by rw [raised_chan, State.setChan_chan, if_pos rfl]; exact ⟨rfl, rfl, rfl, rfl⟩)
  rw [withoutCandidate_raised, withoutCandidate_readA] at hrun
  have hslot : OutputOnly (chanA n) s.closeSlot (s.slotA n f { x with dragCount := x.dragCount + 1, dragReported := true }) :=
    h.outputOnly rfl rfl
  exact h.exec_on hrun (by omega) (hslot.trans (outputOnly_raised _ _ (by decide)))
end
end

end Sys2Proof.Machine
end

section
/-! SUPPORT. O17 from its three parts. -/

namespace Sys2Proof.Machine

theorem counted_setChan (t : State) (n : Fin 8) (c : Fin 16) (x : Channel) : (t.setChan c x).counted n = (t.counted n).setChan c x := rfl

theorem counted_raised (t : State) (n : Fin 8) (k : FaultKind) (sj : Subject) : (t.raised k sj).counted n = (t.counted n).raised k sj := rfl

theorem counted_extended (t : State) (n : Fin 8) (c : Fin 16) : (t.extended c).counted n = (t.counted n).extended c := by
  unfold State.extended
  have hfails : (t.counted n).travelFails c = t.travelFails c := rfl
  simp only [hfails]
  split <;> rfl

/-- The extend end with its travel test written out (R47). -/
theorem extended_eq (s : State) (c : Fin 16) : s.extended c =
    if (s.chan c).known = true ∧ (s.motorPar c).endTolerance < ((s.chan c).position - (s.motorPar c).travel).natAbs then
      (s.setChan c { s.chan c with extendEnd := true }).raised .travelMismatch (.chan c)
    else s.setChan c { s.chan c with extendEnd := true } := if_congr travelFails_iff rfl rfl

end Sys2Proof.Machine

namespace Sys2Proof

open Machine

/-- Settles O17: the STALL event away from the ends and at them, and the slot of a unit's only motor. -/
theorem stallEndsTheWork : Obligations.StallEndsTheWork := by
  refine ⟨?away, ?atEnd, ?slot⟩
  case away =>
    intro c u m s hs ho hu hmotor hw huser hq hm hdue harr hgrace hone hret hext speed hslow hcur
    exact exec_stall_away hs ho (List.mem_filter.mp hu).2 hm hdue ⟨hmotor, harr, hgrace⟩ ⟨hslow, hcur⟩ hone hu hw huser hq
      (stallActs_away hret hext)
  case atEnd =>
    intro c u m s hs ho hsole hmotor hsingle hw huser hq hm horigin hdue harr hgrace hone hx x p speed stalled off atEnd hslow hcur
    have hunit : SoleMotor s u c m := ⟨hsole, hmotor, hsingle, hw, huser, hm, horigin, harr⟩
    refine ⟨fun hd hhome => ?_, fun hd hout => ?_⟩
    · rw [exec_stall_home hs ho hunit.populated hm hdue ⟨hmotor, harr, hgrace⟩ ⟨hslow, hcur⟩ hone hunit hx hq hd (stallActs_home hhome),
        windowed_chan, State.windowed, setChan_again]
      rfl
    · rw [exec_stall_out hs ho hunit.populated hm hdue ⟨hmotor, harr, hgrace⟩ ⟨hslow, hcur⟩ hone hunit hx hq hd (stallActs_out hout),
        extended_eq, windowed_chan, State.windowed, setChan_again]
      rfl
  case slot =>
    intro n reply f u m s hs hl hready hf hB c hsole hmotor hw huser hq hm horigin harr hsingle hx hjacks p outside x w done becomes
    have h : SoleSlot s n reply f u m :=
      ⟨hs, hl, hready, hf, hB, ⟨hsole, hmotor, hsingle, hw, huser, hm, horigin, harr⟩, hq, hx, hjacks⟩
    have hslot (y : Channel) : (s.slotA n f y).counted n = w y := slotA_counted s n f y
    have hagain (y z : Channel) : (w y).setChan c z = w z := setChan_again _ _ _ _
    refine ⟨fun hin hcand hnew hold => ?_, fun ⟨hr, hout⟩ hsame hhome hlim => ⟨fun hfew => ?_, fun hmany hfirst => ?_⟩⟩
    · intro y off faulted
      have hv : Validates s n f m := ⟨hin, hcand, hnew, hold⟩
      have hvalid : (s.validA n f).counted n = w y := hslot y
      have hchan : (s.validA n f).chan c = y := validA_chan s n f
      have hchan' : (w y).chan c = y := by rw [State.setChan_chan, if_pos rfl]
      have hlock (k : FaultKind) (hk : condFault f.condA = some k) (hs : k.severity = .lock) :
          becomes (((faulted k).setChan c { y with lock := some k }).endUnit u .fault) := by
        have hexec := h.exec_lock hv hk hs
        rw [counted_setChan, counted_raised, hvalid, hchan] at hexec
        exact hexec
      refine ⟨fun hk hd => ?_, fun hk hd => ?_, fun hk => hlock _ (by rw [hk]; rfl) rfl, fun hk => hlock _ (by rw [hk]; rfl) rfl, fun hk => ?_⟩
      · have hexec := h.exec_limitRet hv hk hd
        rw [counted_setChan, hvalid, hchan, hagain] at hexec
        exact hexec
      · have hexec := h.exec_limitExt hv hk hd
        rw [counted_extended, hvalid, extended_eq, hchan', hagain] at hexec
        exact hexec
      · have hexec := h.exec_stop hv (kind := .overtemp) (by rw [hk]; rfl) rfl (by decide)
        rw [counted_raised, hvalid] at hexec
        exact hexec
    · rw [← hslot]
      exact h.exec_counted hr hout hlim hsame hhome hfew
    · rw [← hslot, ← counted_raised]
      exact h.exec_drag hr hout hlim hsame hhome hmany hfirst

end Sys2Proof
end

section
/-! SUPPORT. An entry that waits too long (R68), and the PUMP line under every command (R72). -/

namespace Sys2Proof.Machine

/-- At the frame end the row of a queue entry's wait is the event of what has waited too long. -/
theorem exec_grantWaitExpiry {s : State} (ho : s.frameOver = true) (u : UnitId) : exec (.grantWaitExpiry u) s =
    event s { st := s, acts := if s.waitDue u then [.endUnits [ending u .revoked .revoked]] else [] } := by
  simp only [exec, execGrantWaitExpiry, expiry_over ho]

/-- Where one entry waits, its own arrival is judged (R68). -/
theorem waitDue_one {s : State} {e : QEntry} (hq : s.sgu.queue = [e]) :
    s.waitDue e.unit = true ↔ 2000 ≤ (s.frame - e.arrival).toNat := by
  simp [State.waitDue, hq, elapsed]

/-! ## The law of the PUMP line (R72) -/

/-- The PUMP line as its rule gives it. -/
def State.Pumps (s : State) : Prop := s.sgu.pump = s.pumpRule

/-- The law as the statement writes it. -/
theorem pumps_iff (s : State) : s.Pumps ↔ (s.sgu.pump = true ↔ (∃ g ∈ s.sgu.grants, g.unit = .jacks) ∧
    ∃ j ∈ jackChans, (s.chan j).kind = .jack ∧ (s.chan j).state = .moving) := by
  have hrule : s.pumpRule = true ↔ (∃ g ∈ s.sgu.grants, g.unit = .jacks) ∧
      ∃ j ∈ jackChans, (s.chan j).kind = .jack ∧ (s.chan j).state = .moving := by
    simp only [State.pumpRule, Sgu.holds, Channel.isJack, Bool.and_eq_true, List.any_eq_true, decide_eq_true_eq]
  rw [← hrule]
  exact Bool.eq_iff_iff

theorem pumps_finish (s : State) : (finish s).Pumps := (lines_finish s).pump

theorem pumps_commit (s : State) (l : List Act) : (commit s l).Pumps := pumps_finish _

theorem pumps_event {s t : State} {o : Out} (h : s.Pumps) (he : event s o = .next t) : t.Pumps := by
  unfold event at he
  split at he <;> cases he
  · exact pumps_commit _ _
  · exact h

/-- The end of a frame moves neither the grants nor the channels. -/
theorem pumps_frameEnd {s : State} (h : s.Pumps) : s.frameEnd.Pumps := by
  obtain ⟨v, k, heq⟩ := frameEnd_counts s
  rw [heq]
  exact h

theorem pumps_intake {s t : State} (h : s.Pumps) {n : Fin 8} {r : SlotReply} (he : execSlotIntake n r s = .next t) : t.Pumps := by
  unfold execSlotIntake at he
  split at he <;> cases he
  · split
    · exact pumps_frameEnd (pumps_commit _ _)
    · exact pumps_commit _ _
  · exact h

theorem Effect.pumps {s t : State} {c : Instr} (h : Effect s c (.next t)) (hs : s.Pumps) : t.Pumps := by
  generalize hres : Host.Outcome.next t = r at h
  cases h with
  | powerOn k => cases hres; exact pumps_commit _ _
  | release k _ => cases hres; exact pumps_commit _ _
  | powerLoss => cases hres; rfl
  | resetnAssert _ => cases hres; rfl
  | ignored _ => cases hres; exact hs
  | slot n => exact pumps_event hs hres.symm
  | intake n r => exact pumps_intake hs hres.symm
  | enterRun => exact pumps_event hs hres.symm
  | softReset => exact pumps_event hs hres.symm
  | commitEnd ok _ => exact pumps_event hs hres.symm
  | same o _ _ => exact pumps_event hs hres.symm

/-! ## The soft reset (R190) -/

/-- Without a grant the pump stands. -/
theorem pumpRule_noGrants {s : State} (h : s.sgu.grants = []) : s.pumpRule = false := by
  simp [State.pumpRule, Sgu.holds, h]

/-- The soft reset leaves no motion record and no unit at work. -/
theorem softReset_idle (s : State) : (∀ u, s.softReset.st.unit u = .reset) ∧ ∀ c, (s.softReset.st.chan c).motion = none := by
  refine ⟨fun u => ?_, fun c => ?_⟩
  · simp [State.softReset, State.unit, Vector.get_eq_getElem]
  · simp [State.softReset, State.chan, State.mapNodes, State.mapRooms, State.mapChans, Vector.get_eq_getElem, Channel.softReset]

/-- The event of a soft reset that acts ends without a grant: it lists conditions again and ends no work. -/
theorem softReset_pump {s : State} (hr : s.mode = .running) : ∃ t, event s s.softReset = .next t ∧ t.sgu.pump = false := by
  obtain ⟨hunits, hmotions⟩ := softReset_idle s
  obtain ⟨hraise, hlen⟩ := reRaise_raises s.softReset.st
  have hunexposed : Unexposed s.softReset.st := fun e he => nomatch he
  obtain ⟨t, hdoes, hlisted, hunexp⟩ := does_raises s.softReset.st.reRaise s.softReset.st hraise
    (fun u => by rw [hunits]; rfl) hunexposed
  have hmotion (c : Fin 16) : (t.chan c).motion = none := by
    obtain ⟨v, hv, hk⟩ := hlisted.chc
    rw [show t.chan c = v.get c by rw [State.chan, hv], (hk c).1, hmotions]
  have hstill : Still t := still_of_rest (fun e he hk => absurd hk (hunexp e he)) hmotion
  have hload : t.sst.phase = .load := by rw [hlisted.sst]; rfl
  have hparked : Parked t := ⟨fun hrun => (nomatch hload.symm.trans hrun), by rw [hlisted.ciu]; rfl⟩
  have hgrants : t.sgu.grants = [] := by rw [hlisted.sgu]; rfl
  exact ⟨_, event_does (o := s.softReset) hr hdoes (by omega) hstill hparked nofun, pumpRule_noGrants hgrants⟩

end Sys2Proof.Machine

namespace Sys2Proof

open Machine

/-- Settles O25: an entry that has waited too long is one end of a USER unit's work, and no other entry waits. -/
theorem waitingEntryIsRevoked : Obligations.WaitingEntryIsRevoked := by
  rintro u e s hs ho hq rfl hw hu
  rw [exec_grantWaitExpiry ho]
  by_cases hdue : 2000 ≤ (s.frame - e.arrival).toNat
  · rw [if_pos hdue, if_pos ((waitDue_one hq).mpr hdue)]
    exact event_endUser hs (by rw [hw]; nofun) hu fun q hm => by rw [hq, List.mem_singleton] at hm; rw [hm]
  · rw [if_neg hdue, if_neg (mt (waitDue_one hq).mp hdue)]
    exact event_done hs.running hs.still hs.parked

/-- Settles O58: every event ends with the line set by its rule, the frame end touches nothing the rule reads, and the resets leave
no grant. -/
theorem pumpFollowsTheGrant : Obligations.PumpFollowsTheGrant := by
  refine ⟨fun c s t h he => ?_, rfl, fun s => ⟨fun straps => ?_, fun hm => ?_, fun hm straps => ?_, fun hr hp hslot hc => ?_⟩⟩
  · exact (pumps_iff t).mp ((he ▸ exec_effect c s).pumps ((pumps_iff s).mpr h))
  · obtain ⟨t, he, hstarted, -⟩ := (resetsStartThePart straps s).1
    exact ⟨t, he, by rw [hstarted.supply]; rfl⟩
  · exact ⟨_, if_neg hm, rfl⟩
  · obtain ⟨t, he, hstarted, -⟩ := (resetsStartThePart straps s).2 hm
    exact ⟨t, he, by rw [hstarted.supply]; rfl⟩
  · have hdue : s.softResetDue = true := by simp [State.softResetDue, hp, hslot, hc]
    have hexec : exec .softReset s = event s s.softReset := by simp only [exec, execSoftReset, hdue, if_true]
    rw [hexec]
    exact softReset_pump hr

end Sys2Proof
end

section
/-! SUPPORT. The converter scan with no block complete (R58, R59, R77). -/

namespace Sys2Proof.Machine

theorem code12_of_le {n : Nat} (h : n ≤ 4095) : code12 n = n := Nat.min_eq_left h

theorem attitudeSample_early {s : State} (h : s.atu.blockCount < 16) : s.attitudeSample = .done s := if_pos h

/-- One persistence count at a frame end (R59). -/
theorem persist_eq (b : Bool) (n : Nat) : persist b n = if b then min 100 (n + 1) else 0 := by
  have hsat : sat 100 n = min 100 (n + 1) := by unfold sat; split <;> omega
  rw [persist, hsat]

/-- The clear level of HIGH, free of subtraction (TABLE 4-1). -/
theorem clearOfHigh_iff (avg high hyst : Nat) :
    decide ((avg : Int) ≤ (high : Int) - hyst) = decide (avg + hyst ≤ high) := decide_eq_decide.mpr (by omega)

/-- CONVERSION_SCAN with no block complete is the event of its three codes, which hand nothing on. -/
theorem exec_scan {tx ty vbat : Nat} {s : State} (hb : s.atu.blockCount < 16)
    (hx : tx ≤ 4095) (hy : ty ≤ 4095) (hv : vbat ≤ 4095) :
    exec (.conversionScan tx ty vbat) s = event s (.done { s.battery vbat with atu := s.atu.scan tx ty }) := by
  simp only [exec, execConversionScan, attitudeSample_early hb, code12_of_le hx, code12_of_le hy, code12_of_le hv, Out.done]

/-- The codes move the supply values and the tilt accumulators, on which no line depends. -/
theorem quiet_scan {s : State} (h : Quiet s) (tx ty vbat : Nat) : Quiet { s.battery vbat with atu := s.atu.scan tx ty } :=
  quiet_blocks h rfl rfl rfl rfl rfl h.still.exposed rfl rfl

end Sys2Proof.Machine

namespace Sys2Proof

open Machine

/-- Settles O18: the scan hands nothing on, and its records are the history, the average, the counts and the accumulators. -/
theorem scanTakesTheCodes : Obligations.ScanTakesTheCodes := by
  refine ⟨fun tx ty vbat s hq hb hx hy hv => ?_, rfl, rfl, rfl, rfl⟩
  rw [exec_scan hb hx hy hv, event_quiet hq.running (quiet_scan hq tx ty vbat)]
  simp only [State.battery, supplyCounts, persist_eq, clearOfHigh_iff]
  rfl

end Sys2Proof
end

section
/-! SUPPORT. OVERDRAW and the overdraw count of a frame end (R74). -/

namespace Sys2Proof.Machine

/-! ## The count of a frame end -/

/-- The state with its rooms' windows counted. -/
def State.withRooms (s : State) (v : Vector Room 4) : State := { s with chc := { s.chc with rooms := v } }

theorem countRacks_rooms : ∀ (l : List (Fin 4)) (s : State), ∃ v, l.foldl State.countRack s = s.withRooms v
  | [], s => ⟨s.chc.rooms, rfl⟩
  | q :: l, s => by
    obtain ⟨v, hv⟩ := countRacks_rooms l (s.countRack q)
    exact ⟨v, by rw [List.foldl_cons, hv, countRack_eq]; rfl⟩

/-- The frame end, whole: the rack windows do not move the draw. -/
theorem frameEnd_eq (s : State) : ∃ v, s.frameEnd = { s with
    chc := { s.chc with rooms := v }, frameOver := true
    sgu := { s.sgu with overdraw := if s.overdrawn then sat 200 s.sgu.overdraw else 0 } } := by
  obtain ⟨v, hv⟩ := countRacks_rooms allRooms s
  exact ⟨v, by rw [State.frameEnd, hv]; rfl⟩

/-- The intake of slot 7 with nothing at its address is the frame end alone (log entry 3). -/
theorem exec_emptySlot {s : State} (hq : Quiet s) (ha : (s.node 7).state = .absent) (reply : SlotReply) :
    exec (.slotIntake 7 reply) s = .next s.closeSlot.sending.frameEnd := by
  have hacts : s.slotActs 7 reply = [] := if_pos ha
  simp only [exec, execSlotIntake, running_of hq.running, if_true, hacts, commit_quiet (quiet_closeSlot hq)]

/-- The overdraw count of a frame end, as a comparison of four times the draw with five times B. -/
theorem overdraw_count (s : State) : (if s.overdrawn then sat 200 s.sgu.overdraw else 0) =
    if 5 * (2 * s.sgu.budget) < 4 * s.draw then (if s.sgu.overdraw < 200 then s.sgu.overdraw + 1 else 200) else 0 := by
  simp only [State.overdrawn, decide_eq_true_eq, sat]

/-! ## OVERDRAW_EXPIRY -/

/-- The state with the overdraw count at 0. -/
def State.overdrawTaken (s : State) : State := { s with sgu := { s.sgu with overdraw := 0 } }

/-- The end of work that an overdraw makes. -/
def overdrawEnds (l : List GEntry) : List Act :=
  match overdrawVictim l with
  | some g => [.endUnits [ending g.unit .revoked .revoked]]
  | none => []

theorem exec_overdraw {s : State} (ho : s.frameOver = true) (hd : 200 ≤ s.sgu.overdraw) : exec .overdrawExpiry s =
    event s { st := s.overdrawTaken, acts := [.raise .overdraw .coach] ++ overdrawEnds s.sgu.grants ++ [.exam] } := by
  simp only [exec, execOverdrawExpiry, expiry_over ho, hd, if_true]
  rfl

/-- The victim is the USER grant of the greatest order. -/
theorem overdrawVictim_user {l : List GEntry} {g : GEntry} (hg : g ∈ l) (hu : g.cls = .user)
    (hyoung : ∀ e ∈ l, e.cls = .user → e ≠ g → e.order < g.order) : overdrawVictim l = some g := by
  have hhead : (youngest l .user).head? = some g := by
    refine head_sortYoung g _ (List.mem_filter.mpr ⟨hg, decide_eq_true hu⟩) fun e he hne => ?_
    obtain ⟨hmem, hcls⟩ := List.mem_filter.mp he
    exact hyoung e hmem (of_decide_eq_true hcls) hne
  rw [overdrawVictim, List.head?_append, hhead]
  rfl

theorem youngest_nil {l : List GEntry} {cls : GrantClass} (h : ∀ g ∈ l, g.cls ≠ cls) : youngest l cls = [] := by
  have hnone : (l.filter fun e => decide (e.cls = cls)) = [] := List.filter_eq_nil_iff.mpr fun g hg => by simpa using h g hg
  rw [youngest, hnone]
  rfl

theorem overdrawVictim_none {l : List GEntry} (h : ∀ g ∈ l, g.cls ≠ .user ∧ g.cls ≠ .level) : overdrawVictim l = none := by
  rw [overdrawVictim, youngest_nil fun g hg => (h g hg).1, youngest_nil fun g hg => (h g hg).2]
  rfl

/-- The state after OVERDRAW is raised. -/
def State.overdrawRaised (s : State) : State := s.overdrawTaken.raised .overdraw .coach

theorem does_overdraw (s : State) : Does 1 false [.raise .overdraw .coach] s.overdrawTaken s.overdrawRaised := does_raise_warn rfl

section
variable {s : State} (hs : Steady s) (ho : s.frameOver = true) (hd : 200 ≤ s.sgu.overdraw) (hq : s.sgu.queue = [])
include hs

theorem still_overdrawRaised : Still s.overdrawRaised :=
  still_raised (s := s.overdrawTaken) (k := .overdraw) ⟨hs.still.exposed, hs.still.jacks⟩ (by decide) _

theorem parked_overdrawRaised : Parked s.overdrawRaised := ⟨hs.parked.park, hs.parked.alarm⟩

include ho hd hq

/-- The victim's work ends after the raise. -/
theorem exec_overdraw_victim {g : GEntry} (hv : overdrawVictim s.sgu.grants = some g) (hw : (s.unit g.unit).state ≠ .idle)
    (hu : (s.unit g.unit).origin = some .user) :
    exec .overdrawExpiry s = .next (finish (s.overdrawRaised.endUnit g.unit .revoked)) := by
  have hends : overdrawEnds s.sgu.grants = [.endUnits [ending g.unit .revoked .revoked]] := by rw [overdrawEnds, hv]
  have hstill := still_overdrawRaised hs
  have hparked := parked_overdrawRaised hs
  have hqueue : (s.overdrawRaised.endUnit g.unit .revoked).sgu.queue = [] :=
    List.sublist_nil.mp (hq ▸ (released_endUnit s.overdrawRaised g.unit .revoked).queue)
  have hend : Does 5 true [.endUnits [ending g.unit .revoked .revoked]] s.overdrawRaised
      (s.overdrawRaised.endUnit g.unit .revoked).evaluated := does_ends hstill hparked hw hu
  have hacts := does_append (does_append (does_overdraw s) hend) (does_exam (does_nil _))
  rw [exec_overdraw ho hd, hends]
  exact event_ends hs.running hacts (by omega) (endUnit_still hstill _ _) (endUnit_parked hparked _ _) fun _ => hqueue

/-- Without a victim only the event is raised. -/
theorem exec_overdraw_alone (hv : overdrawVictim s.sgu.grants = none) :
    exec .overdrawExpiry s = .next (finish s.overdrawRaised) := by
  have hends : overdrawEnds s.sgu.grants = [] := by rw [overdrawEnds, hv]
  rw [exec_overdraw ho hd, hends]
  exact event_does hs.running (does_append (does_overdraw s) (does_exam (does_nil _))) (by omega) (still_overdrawRaised hs)
    (parked_overdrawRaised hs) fun _ => hq
end

end Sys2Proof.Machine

namespace Sys2Proof

open Machine

/-- Settles O26: the sorted grants are headed by the youngest, and the frame end is the only thing that slot 7 does where its
address is unused. -/
theorem overdrawRevokesTheYoungest : Obligations.OverdrawRevokesTheYoungest := by
  refine ⟨fun s hs ho hq hd => ⟨fun g hg hcls hyoung hw hu => ?_, fun hnone => ?_⟩, fun reply s hq ha => ?_⟩
  · exact exec_overdraw_victim hs ho hd hq (overdrawVictim_user hg hcls hyoung) hw hu
  · exact exec_overdraw_alone hs ho hd hq (overdrawVictim_none hnone)
  · obtain ⟨v, hend⟩ := frameEnd_eq s.closeSlot.sending
    refine ⟨_, exec_emptySlot hq ha reply, ?_⟩
    rw [hend, overdraw_count]
    exact ⟨rfl, rfl, rfl, rfl, fun _ => rfl, fun _ => rfl, fun _ => rfl, rfl, rfl, rfl, rfl, rfl⟩

end Sys2Proof
end

section
/-! SUPPORT. Work revoked by the supply: the ends of several USER units (R62, R63, R70), and the end of a listed condition (R167). -/

namespace Sys2Proof.Machine

/-! ## The end of a listed condition (R167) -/

theorem eq_of_single {f : Flt} {k : FaultKind} {sj : Subject} (h : f.single k sj) {d e : FaultEntry} (hd : d ∈ f.entries)
    (hdk : d.kind = k ∧ d.subject = sj) (he : e ∈ f.entries) (hek : e.kind = k ∧ e.subject = sj) : d = e := by
  have hmem {x : FaultEntry} (hx : x ∈ f.entries) (hk : x.kind = k ∧ x.subject = sj) :
      x ∈ f.entries.filter fun e => decide (e.kind = k ∧ e.subject = sj) := List.mem_filter.mpr ⟨hx, decide_eq_true hk⟩
  have hd' := hmem hd hdk
  have he' := hmem he hek
  rw [Flt.single, Nat.le_one_iff_eq_zero_or_eq_one, List.length_eq_zero_iff, List.length_eq_one_iff] at h
  rcases h with h | ⟨x, h⟩ <;> simp only [h, List.not_mem_nil, List.mem_singleton] at hd' he'
  rw [hd', he']

/-- A condition with one entry at most is reported gone where that entry shows it present. -/
theorem actGone_lifted {k : FaultKind} {sj : Subject} {s : State} (h : s.flt.single k sj) :
    actGone k sj s = .done (s.lifted k sj) := by
  unfold actGone State.lifted
  split
  · next hnone =>
    have hfind : (s.flt.entries.findIdx? fun e => decide (e.kind = k ∧ e.subject = sj ∧ e.present = true)) = none :=
      List.findIdx?_eq_none_iff.mpr fun e he => decide_eq_false fun hk => findFault_none hnone e he ⟨hk.1, hk.2.1⟩
    rw [hfind]
  · next i hi =>
    obtain ⟨hlt, hmatch, hfirst⟩ := List.findIdx?_eq_some_iff_getElem.mp hi
    obtain ⟨hkind, hsubject⟩ := of_decide_eq_true hmatch
    rw [List.getElem?_eq_getElem hlt]
    by_cases hp : s.flt.entries[i].present = true
    · have hfind : (s.flt.entries.findIdx? fun e => decide (e.kind = k ∧ e.subject = sj ∧ e.present = true)) = some i :=
        List.findIdx?_eq_some_iff_getElem.mpr ⟨hlt, decide_eq_true ⟨hkind, hsubject, hp⟩,
          fun j hj hk => hfirst j hj (decide_eq_true ⟨(of_decide_eq_true hk).1, (of_decide_eq_true hk).2.1⟩)⟩
      have hset := map_eq_set (fun e : FaultEntry => decide (e.kind = k ∧ e.subject = sj)) (fun e => { e with present := false })
        s.flt.entries i _ h hi (List.getElem?_eq_getElem hlt)
      simp only [decide_eq_true_eq] at hset
      simp only [hfind, hp, if_true, Flt.ended, hset]
    · have hfind : (s.flt.entries.findIdx? fun e => decide (e.kind = k ∧ e.subject = sj ∧ e.present = true)) = none := by
        refine List.findIdx?_eq_none_iff.mpr fun e he => decide_eq_false fun ⟨hk, hs, hpe⟩ => hp ?_
        have hsame := eq_of_single h he ⟨hk, hs⟩ (List.getElem_mem hlt) ⟨hkind, hsubject⟩
        rw [← hsame, hpe]
      simp only [hfind, hp, if_false, Bool.false_eq_true]

/-- What the end of a condition moves: the fault list, where entries stay but may be present no more, and the notices. -/
theorem lifted_eq (s : State) (k : FaultKind) (sj : Subject) :
    ∃ (f : Flt) (p : Pli), s.lifted k sj = { s with flt := f, pli := p } ∧
    ∀ e ∈ f.entries, e.present = true → e ∈ s.flt.entries := by
  unfold State.lifted
  split
  · exact ⟨_, _, rfl, fun e he hp => mem_ended he hp⟩
  · exact ⟨s.flt, s.pli, rfl, fun e he _ => he⟩

theorem still_lifted {s : State} (h : Still s) (k : FaultKind) (sj : Subject) : Still (s.lifted k sj) := by
  obtain ⟨f, p, heq, hmem⟩ := lifted_eq s k sj
  rw [heq]
  exact ⟨fun e he hk hp => h.exposed e (hmem e he hp) hk hp, h.jacks⟩

theorem parked_lifted {s : State} (h : Parked s) (k : FaultKind) (sj : Subject) : Parked (s.lifted k sj) := by
  obtain ⟨f, p, heq, -⟩ := lifted_eq s k sj
  rw [heq]
  exact ⟨h.park, h.alarm⟩

@[simp] theorem lifted_unit (s : State) (k : FaultKind) (sj : Subject) (u : UnitId) : (s.lifted k sj).unit u = s.unit u := by
  obtain ⟨f, p, heq, -⟩ := lifted_eq s k sj
  rw [heq]
  rfl

@[simp] theorem lifted_sgu (s : State) (k : FaultKind) (sj : Subject) : (s.lifted k sj).sgu = s.sgu := by
  obtain ⟨f, p, heq, -⟩ := lifted_eq s k sj
  rw [heq]

/-- The fault list and the notices do not look at TRAVEL. -/
theorem lifted_withTravel (s : State) (b : Bool) (k : FaultKind) (sj : Subject) :
    (s.withTravel b).lifted k sj = (s.lifted k sj).withTravel b := by
  have hflt : (s.withTravel b).flt = s.flt := rfl
  unfold State.lifted
  rw [hflt]
  cases s.flt.entries.findIdx? fun e => decide (e.kind = k ∧ e.subject = sj ∧ e.present = true) <;> rfl

/-! ## The ends of several USER units -/

/-- The work of the units of a list ends with REVOKED. -/
def State.revoke (s : State) (l : List UnitId) : State := l.foldl (fun t v => t.endUnit v .revoked) s

/-- The endings of units, each with its cause. -/
def revoking (l : List (UnitId × Cause)) : List Ending := l.map fun p => ending p.1 .revoked p.2

/-- The units of a list that work. -/
def State.working (s : State) (l : List (UnitId × Cause)) : List (UnitId × Cause) :=
  l.filter fun p => decide ((s.unit p.1).state ≠ .idle)

/-- What the end of several USER units' work hands on: nothing where none of them works. -/
theorem endUnits_revoking {s : State} {l : List (UnitId × Cause)}
    (ho : ∀ p ∈ l, (s.unit p.1).state ≠ .idle → (s.unit p.1).origin = some .user) :
    actEndUnits (revoking l) s = { st := s.revoke (l.map Prod.fst)
                                   acts := if (s.working l).length = 0 then [] else
                                     [.restCheck false, .exam] ++
                                       (s.working l).map fun p => .handOff (ending p.1 .revoked p.2) .user } := by
  have hlive : (revoking l).filter (fun e => decide ((s.unit e.unit).state ≠ .idle)) = revoking (s.working l) := by
    rw [revoking, List.filter_map]
    rfl
  have htold : (revoking (s.working l)).filter (fun e => !s.sparesStep e) = revoking (s.working l) :=
    List.filter_eq_self.mpr fun e he => by
      obtain ⟨p, -, rfl⟩ := List.mem_map.mp he
      rw [sparesStep_of_why (by simp [ending])]
      rfl
  have hends : (revoking (s.working l)).foldl (fun t e => t.endUnit e.unit e.why) s = s.revoke (l.map Prod.fst) := by
    have hfilter : (s.working l).map Prod.fst = (l.map Prod.fst).filter fun v => decide ((s.unit v).state ≠ .idle) := by
      rw [State.working, List.filter_map]
      rfl
    calc (revoking (s.working l)).foldl (fun t e => t.endUnit e.unit e.why) s
        = ((s.working l).map Prod.fst).foldl (fun t v => t.endUnit v .revoked) s := by
          rw [revoking, List.foldl_map, List.foldl_map]
          rfl
      _ = s.revoke (l.map Prod.fst) := by
        rw [hfilter]
        exact foldl_endUnit_filter _ s fun v _ hv => by simpa using hv
  have hhands : (revoking (s.working l)).filterMap (fun e => ((s.unit e.unit).origin).map fun o => Act.handOff e o) =
      (s.working l).map fun p => .handOff (ending p.1 .revoked p.2) .user := by
    rw [revoking, List.filterMap_map, ← List.filterMap_eq_map]
    refine List.filterMap_congr fun p hp => ?_
    obtain ⟨hmem, hw⟩ := List.mem_filter.mp hp
    simp [ending, ho p hmem (of_decide_eq_true hw)]
  have hlen : (revoking (s.working l)).length = (s.working l).length := List.length_map _
  simp only [actEndUnits, hlive, htold, hends, hhands, hlen]

theorem still_revoke {s : State} (h : Still s) (l : List UnitId) : Still (s.revoke l) :=
  foldl_endUnit_keeps (P := Still) (fun _ v h => endUnit_still h v _) l h

theorem parked_revoke {s : State} (h : Parked s) (l : List UnitId) : Parked (s.revoke l) :=
  foldl_endUnit_keeps (P := Parked) (fun _ v h => endUnit_parked h v _) l h

/-- The ends of several USER units' work, with all that follows them in their event. -/
theorem does_revoking {s : State} {l : List (UnitId × Cause)} (hs : Still s) (hp : Parked s)
    (ho : ∀ p ∈ l, (s.unit p.1).state ≠ .idle → (s.unit p.1).origin = some .user) :
    ∃ x b, Does (l.length + 3) x (actEndUnits (revoking l) s).acts (actEndUnits (revoking l) s).st
      ((s.revoke (l.map Prod.fst)).withTravel b) := by
  rw [endUnits_revoking ho]
  by_cases hnone : (s.working l).length = 0
  · exact ⟨false, _, by rw [if_pos hnone]; exact does_mono (does_nil _) (Nat.zero_le _)⟩
  · rw [if_neg hnone]
    have hhands := does_nothing (s := (s.revoke (l.map Prod.fst)).evaluated)
      (l := (s.working l).map fun p => .handOff (ending p.1 .revoked p.2) .user) fun a ha => by
        obtain ⟨p, -, rfl⟩ := List.mem_map.mp ha
        exact ⟨by simp, rfl⟩
    have hlen : (s.working l).length ≤ l.length := List.length_filter_le _ _
    have hd := does_append (does_evaluate (still_revoke hs (l.map Prod.fst)) (parked_revoke hp _) false) (does_exam hhands)
    rw [List.length_map] at hd
    exact ⟨true, _, does_mono hd (by omega)⟩

/-- There are six units. -/
theorem nodup_few {l : List UnitId} (h : l.Nodup) : l.length ≤ 6 :=
  (h.subperm fun u _ => mem_allUnits u).length_le

/-! ## What revoked work leaves -/

theorem revoke_unit : ∀ (l : List UnitId) (s : State) (v : UnitId),
    (s.revoke l).unit v = if v ∈ l ∧ (s.unit v).state ≠ .idle then .reset else s.unit v
  | [], s, v => by simp [State.revoke]
  | u :: l, s, v => by
    rw [show s.revoke (u :: l) = (s.endUnit u .revoked).revoke l from rfl, revoke_unit l, endUnit_unit]
    by_cases hv : v = u ∧ (s.unit u).state ≠ .idle
    · obtain ⟨rfl, hw⟩ := hv
      simp [hw, UnitRec.reset]
    · rw [if_neg hv]
      have hmem : (v ∈ u :: l ∧ (s.unit v).state ≠ .idle) ↔ (v ∈ l ∧ (s.unit v).state ≠ .idle) := by
        rw [List.mem_cons, or_and_right]
        exact or_iff_right fun h => hv ⟨h.1, h.1 ▸ h.2⟩
      rw [if_congr hmem rfl rfl]

theorem revoke_idle {l : List UnitId} {v : UnitId} (h : v ∈ l) (s : State) : ((s.revoke l).unit v).state = .idle := by
  rw [revoke_unit]
  by_cases hw : (s.unit v).state = .idle
  · rw [if_neg fun k => k.2 hw, hw]
  · rw [if_pos ⟨h, hw⟩]
    rfl

/-- Where every waiting unit is revoked, the queue is empty. -/
theorem revoke_queue {s : State} {l : List UnitId} (h : ∀ e ∈ s.sgu.queue, e.unit ∈ l ∧ (s.unit e.unit).state ≠ .idle) :
    (s.revoke l).sgu.queue = [] := by
  refine List.eq_nil_iff_forall_not_mem.mpr fun e he => ?_
  obtain ⟨hq, hidle⟩ := mem_foldl_endUnit_queue l he
  obtain ⟨hmem, hw⟩ := h e hq
  exact hw (hidle hmem)

end Sys2Proof.Machine
end

section
/-! SUPPORT. A change of the supply state (R60, R62, R63, R64, R167; TABLE 4-2). -/

namespace Sys2Proof.Machine

/-! ## What a change hands on -/

/-- The state in its new supply state, with the counts at 0 and SUPPLY_CHANGE offered (R60, R64). -/
def State.supplied (s : State) (new : Supply) : State :=
  ({ s with sgu := { s.sgu with supply := new, counts := .zero } } : State).offer (.supplyChange new s.sgu.supply s.sgu.batAvg)

/-- The end of the old state's fault (R167). -/
def supplyGone (old : Supply) : List Act :=
  match supplyFault old with
  | some k => [.gone k .coach]
  | none => []

/-- The raise of the new state's fault (R62, R63). -/
def supplyRaise (new : Supply) : List Act :=
  match supplyFault new with
  | some k => [.raise k .coach]
  | none => []

/-- Under an ARMED guard a change of the supply state exposes no awning (R137). -/
theorem supplyEnter_armed {s : State} (hg : s.wgd.state = .armed) (new : Supply) : s.supplyEnter new =
    { st := (actEndUnits (supplyEndings s.sgu new) (s.supplied new)).st
      acts := (actEndUnits (supplyEndings s.sgu new) (s.supplied new)).acts ++ supplyGone s.sgu.supply ++ supplyRaise new
        ++ [.exam] } := by
  have hexposed : s.exposed = false := by simp [State.exposed, hg]
  have hnone : ¬(new = .cutoff ∧ s.exposed = true) := fun h => Bool.noConfusion (hexposed.symm.trans h.2)
  unfold State.supplyEnter
  simp only [if_neg hnone, List.append_nil]
  rfl

theorem exec_supplyChange {s : State} {new : Supply} (h : supplyNext s.sgu.supply s.sgu.counts = some new) :
    exec .supplyStateChange s = event s (s.supplyEnter new) := by
  simp only [exec, execSupplyStateChange, h]

/-! ## The faults of the states -/

/-- The state with the old supply state's fault ended. -/
def State.supplyLifted (s : State) : Supply → State
  | .normal => s
  | .low => s.lifted .supplyLow .coach
  | .high => s.lifted .supplyHigh .coach
  | .cutoff => s.lifted .supplyCutoff .coach

/-- The state with the new supply state's fault raised. -/
def State.supplyRaised (s : State) : Supply → State
  | .normal => s
  | .low => s.raised .supplyLow .coach
  | .high => s.raised .supplyHigh .coach
  | .cutoff => s.raised .supplyCutoff .coach

/-- What both leave of the part. -/
structure FaultsOnly (s t : State) : Prop where
  unit : ∀ u, t.unit u = s.unit u
  sgu : t.sgu = s.sgu
  still : Still s → Still t
  parked : Parked s → Parked t

theorem supplyLifted_only (s : State) (old : Supply) : FaultsOnly s (s.supplyLifted old) := by
  have hlift (k : FaultKind) : FaultsOnly s (s.lifted k .coach) :=
    ⟨lifted_unit s k _, lifted_sgu s k _, fun h => still_lifted h k _, fun h => parked_lifted h k _⟩
  cases old with
  | normal => exact ⟨fun _ => rfl, rfl, id, id⟩
  | low | high | cutoff => exact hlift _

theorem supplyRaised_only (s : State) (new : Supply) : FaultsOnly s (s.supplyRaised new) := by
  have hraise {k : FaultKind} (hk : k ≠ .awningExposed) : FaultsOnly s (s.raised k .coach) :=
    ⟨fun _ => rfl, rfl, fun h => still_raised h hk _, fun h => parked_raised h k _⟩
  cases new with
  | normal => exact ⟨fun _ => rfl, rfl, id, id⟩
  | low | high | cutoff => exact hraise (by decide)

theorem supplyLifted_withTravel (s : State) (b : Bool) (old : Supply) :
    (s.withTravel b).supplyLifted old = (s.supplyLifted old).withTravel b := by
  cases old with
  | normal => rfl
  | low | high | cutoff => exact lifted_withTravel s b _ _

theorem supplyRaised_withTravel (s : State) (b : Bool) (new : Supply) :
    (s.withTravel b).supplyRaised new = (s.supplyRaised new).withTravel b := by
  cases new <;> rfl

theorem does_supplyGone {s : State} (h : ∀ k ∈ [FaultKind.supplyLow, .supplyHigh, .supplyCutoff], s.flt.single k .coach)
    (old : Supply) : Does 1 false (supplyGone old) s (s.supplyLifted old) := by
  have hgone {k : FaultKind} (hk : k ∈ [FaultKind.supplyLow, .supplyHigh, .supplyCutoff]) :
      Does 1 false [.gone k .coach] s (s.lifted k .coach) := does_done (by simp) (actGone_lifted (h k hk)) (does_nil _)
  cases old with
  | normal => exact does_mono (does_nil s) (Nat.zero_le _)
  | low | high | cutoff => exact hgone (by decide)

/-- Where no condition stands, none is reported gone. -/
theorem does_supplyGone_absent {s : State} (h : ∀ e ∈ s.flt.entries, e.present = false) (old : Supply) :
    Does 1 false (supplyGone old) s s := by
  cases old with
  | normal => exact does_mono (does_nil s) (Nat.zero_le _)
  | low | high | cutoff => exact does_gone fun e he _ => h e he

/-- The STOP effect of SUPPLY_CUTOFF finds every unit idle (R63). -/
theorem does_supplyRaise {s : State} {new : Supply} (h : new = .cutoff → ∀ u, (s.unit u).state = .idle) :
    Does 2 false (supplyRaise new) s (s.supplyRaised new) := by
  cases new with
  | normal => exact does_mono (does_nil s) (Nat.zero_le _)
  | low | high => exact does_mono (does_raise_warn rfl) (by omega)
  | cutoff => exact does_raise_stop_idle rfl (h rfl)

/-! ## The work that ends -/

/-- The units that leave on entry to a state, each with its cause, where all work is of class USER. -/
def supplyLeave (g : Sgu) : Supply → List (UnitId × Cause)
  | .normal => []
  | .low | .high => g.queue.map fun e => (e.unit, .supply)
  | .cutoff => (g.grants.map fun e => (e.unit, .revoked)) ++ g.queue.map fun e => (e.unit, .supply)

theorem supplyEndings_user {g : Sgu} (h : ∀ e ∈ g.queue, e.cls = .user) (new : Supply) :
    supplyEndings g new = revoking (supplyLeave g new) := by
  have hall : g.queue.filter (fun e => decide (e.cls = .user ∨ e.cls = .level)) = g.queue :=
    List.filter_eq_self.mpr fun e he => decide_eq_true (.inl (h e he))
  have hwaits : (g.queue.map fun e => ending e.unit .revoked .supply) = revoking (g.queue.map fun e => (e.unit, .supply)) := by
    rw [revoking, List.map_map]
    rfl
  cases new with
  | normal => rfl
  | low | high =>
    rw [supplyEndings, hall]
    exact hwaits
  | cutoff =>
    rw [supplyEndings, hwaits, supplyLeave, revoking, revoking, List.map_append, List.map_map, List.map_map]
    rfl

/-- The units that leave, in the order in which they do. -/
theorem supplyLeave_units (g : Sgu) (new : Supply) : (supplyLeave g new).map Prod.fst =
    match new with
    | .normal => []
    | .low | .high => g.queue.map QEntry.unit
    | .cutoff => g.grants.map GEntry.unit ++ g.queue.map QEntry.unit := by
  cases new with
  | normal => rfl
  | low | high =>
    rw [supplyLeave, List.map_map]
    rfl
  | cutoff =>
    rw [supplyLeave, List.map_append, List.map_map, List.map_map]
    rfl

theorem supplyEndings_nil {g : Sgu} (hq : g.queue = []) (hg : g.grants = []) (new : Supply) : supplyEndings g new = [] := by
  cases new <;> simp [supplyEndings, hq, hg]

/-! ## The event -/

/-- A change of the supply state of a part at rest. -/
theorem exec_supplyChange_resting {s : State} {new : Supply} (hs : Resting s)
    (hn : supplyNext s.sgu.supply s.sgu.counts = some new) :
    exec .supplyStateChange s = .next (finish ((s.supplied new).supplyRaised new)) := by
  have hends : actEndUnits (supplyEndings s.sgu new) (s.supplied new) = { st := s.supplied new, acts := [] } := by
    rw [supplyEndings_nil hs.queue hs.grants]
    exact endUnits_idle fun _ he => absurd he List.not_mem_nil
  have hidle : ∀ u, ((s.supplied new).unit u).state = .idle := fun u => by
    rw [show (s.supplied new).unit u = s.unit u from rfl, hs.units]
    rfl
  have hstill : Still (s.supplied new) := still_of_resting hs rfl hs.motions
  have hparked : Parked (s.supplied new) := ⟨hs.parked.park, hs.parked.alarm⟩
  have honly := supplyRaised_only (s.supplied new) new
  have hacts := does_append (does_append (does_supplyGone_absent (s := s.supplied new) hs.faults s.sgu.supply)
    (does_supplyRaise (new := new) fun _ => hidle)) (does_exam (does_nil _))
  rw [exec_supplyChange hn, supplyEnter_armed hs.guard, hends, List.nil_append]
  refine event_does hs.running hacts (by omega) (honly.still hstill) (honly.parked hparked) fun _ => ?_
  rw [honly.sgu]
  exact hs.queue

section
variable {s : State} {new : Supply} (hs : Steady s)
  (hwork : ∀ u, (s.unit u).state ≠ .idle → (s.unit u).origin = some .user ∧
    ((∃ e ∈ s.sgu.queue, e.unit = u) ∨ ∃ g ∈ s.sgu.grants, g.unit = u))
  (hqueue : ∀ e ∈ s.sgu.queue, e.cls = .user ∧ (s.unit e.unit).state ≠ .idle)

include hwork in
/-- In CUTOFF every unit that works leaves. -/
theorem supplyLeave_all (u : UnitId) :
    (((s.supplied .cutoff).revoke ((supplyLeave s.sgu .cutoff).map Prod.fst)).unit u).state = .idle := by
  by_cases hw : (s.unit u).state = .idle
  · rw [revoke_unit, if_neg fun h => h.2 hw]
    exact hw
  · refine revoke_idle ?_ _
    rw [supplyLeave_units, List.mem_append]
    rcases (hwork u hw).2 with ⟨e, he, rfl⟩ | ⟨g, hg, rfl⟩
    · exact .inr (List.mem_map_of_mem he)
    · exact .inl (List.mem_map_of_mem hg)

include hqueue in
/-- After the ends nothing waits. -/
theorem supplyLeave_queue (hnormal : new = .normal → s.sgu.queue = []) :
    ((s.supplied new).revoke ((supplyLeave s.sgu new).map Prod.fst)).sgu.queue = [] := by
  refine revoke_queue fun e (he : e ∈ s.sgu.queue) => ⟨?_, (hqueue e he).2⟩
  have hmem : e.unit ∈ s.sgu.queue.map QEntry.unit := List.mem_map_of_mem he
  rw [supplyLeave_units]
  cases new with
  | normal => rw [hnormal rfl] at he; cases he
  | low | high => exact hmem
  | cutoff => exact List.mem_append_right _ hmem

include hs hwork hqueue in
/-- A change of the supply state where only USER work runs. -/
theorem exec_supplyChange_user (hguard : s.wgd.state = .armed) (hn : supplyNext s.sgu.supply s.sgu.counts = some new)
    (hnormal : new = .normal → s.sgu.queue = [])
    (hone : ∀ k ∈ [FaultKind.supplyLow, .supplyHigh, .supplyCutoff], s.flt.single k .coach)
    (hlen : (supplyLeave s.sgu new).length ≤ 3000) : exec .supplyStateChange s =
    .next (finish ((((s.supplied new).revoke ((supplyLeave s.sgu new).map Prod.fst)).supplyLifted
      s.sgu.supply).supplyRaised new)) := by
  obtain ⟨l, hl⟩ : ∃ l, l = (supplyLeave s.sgu new).map Prod.fst := ⟨_, rfl⟩
  have hstill : Still (s.supplied new) := ⟨hs.still.exposed, hs.still.jacks⟩
  have hparked : Parked (s.supplied new) := ⟨hs.parked.park, hs.parked.alarm⟩
  obtain ⟨x, b, hends⟩ := does_revoking (l := supplyLeave s.sgu new) hstill hparked fun p _ hw => (hwork p.1 hw).1
  rw [← supplyEndings_user (fun e he => (hqueue e he).1), ← hl] at hends
  obtain ⟨t, ht⟩ : ∃ t, t = (s.supplied new).revoke l := ⟨_, rfl⟩
  rw [← hl, ← ht]
  rw [← ht] at hends
  have hidle : new = .cutoff → ∀ u, (t.unit u).state = .idle := by
    rintro rfl u
    rw [ht, hl]
    exact supplyLeave_all hwork u
  have hempty : t.sgu.queue = [] := by
    rw [ht, hl]
    exact supplyLeave_queue hqueue hnormal
  have hflt : t.flt = s.flt := by
    rw [ht]
    exact foldl_endUnit_keeps (P := fun u => u.flt = s.flt) (fun u v h => (endUnit_flt u v _).trans h) l rfl
  have hlift := supplyLifted_only t s.sgu.supply
  have hraise := supplyRaised_only (t.supplyLifted s.sgu.supply) new
  have hgone := does_supplyGone (s := t.withTravel b) (by rwa [show (t.withTravel b).flt = s.flt from hflt]) s.sgu.supply
  rw [supplyLifted_withTravel] at hgone
  have hrise := does_supplyRaise (s := (t.supplyLifted s.sgu.supply).withTravel b) (new := new)
    fun hc u => (congrArg UnitRec.state (hlift.unit u)).trans (hidle hc u)
  rw [supplyRaised_withTravel] at hrise
  have hacts := does_append (does_append (does_append hends hgone) hrise) (does_exam (does_nil _))
  rw [exec_supplyChange hn, supplyEnter_armed hguard, ← finish_withTravel _ b]
  refine event_does hs.running hacts (by omega) (still_withTravel (hraise.still (hlift.still (ht ▸ still_revoke hstill l))) b)
    (parked_withTravel (hraise.parked (hlift.parked (ht ▸ parked_revoke hparked l))) b) fun _ => ?_
  show ((t.supplyLifted s.sgu.supply).supplyRaised new).sgu.queue = []
  rw [hraise.sgu, hlift.sgu, hempty]
end

/-- No more units leave than there are. -/
theorem supplyLeave_length {g : Sgu} (h : (g.grants.map GEntry.unit ++ g.queue.map QEntry.unit).Nodup) (new : Supply) :
    (supplyLeave g new).length ≤ 3000 := by
  have hall := nodup_few h
  rw [List.length_append, List.length_map, List.length_map] at hall
  cases new <;> simp only [supplyLeave, List.length_append, List.length_map, List.length_nil] <;> omega

end Sys2Proof.Machine

namespace Sys2Proof
open Machine

/-- Settles O19: the acts of `State.supplyEnter`, block by block, without work (`exec_supplyChange_resting`) and with USER work
(`exec_supplyChange_user`). -/
theorem supplyStateChanges : Obligations.SupplyStateChanges := by
  refine ⟨fun new s hs hn => ?_, fun new s hs hguard hn hwork hqueue hnormal hnodup hone => ?_⟩
  · rw [exec_supplyChange_resting hs hn]
    cases new <;> rfl
  · rw [exec_supplyChange_user hs hwork hqueue hguard hn hnormal hone (supplyLeave_length hnodup new), supplyLeave_units]
    rfl
end Sys2Proof
end

section
/-! SUPPORT. ENG and the budget (R65, R67, R70, R73). -/

namespace Sys2Proof.Machine

/-! ## The victims of a fall of B (R67, R70) -/

theorem insertYoung_sorted (e : GEntry) : ∀ {l : List GEntry}, l.Pairwise (fun a b => b.order ≤ a.order) →
    (insertYoung e l).Pairwise fun a b => b.order ≤ a.order
  | [], _ => List.pairwise_singleton _ e
  | g :: l, h => by
    obtain ⟨hg, hl⟩ := List.pairwise_cons.mp h
    unfold insertYoung
    split
    · next hle =>
      refine List.pairwise_cons.mpr ⟨fun b hb => ?_, h⟩
      rcases List.mem_cons.mp hb with rfl | hb
      · exact hle
      · exact (hg b hb).trans hle
    · next hlt =>
      refine List.pairwise_cons.mpr ⟨fun b hb => ?_, insertYoung_sorted e hl⟩
      rcases (mem_insertYoung e b l).mp hb with rfl | hb
      · exact (not_le.mp hlt).le
      · exact hg b hb

/-- Grants of distinct orders are sorted from the youngest to the oldest. -/
theorem youngest_sorted {l : List GEntry} (h : (l.map GEntry.order).Nodup) (cls : GrantClass) :
    (youngest l cls).Pairwise fun a b => b.order < a.order := by
  have hsorted (k : List GEntry) : (k.foldr insertYoung []).Pairwise fun a b => b.order ≤ a.order := by
    induction k with
    | nil => exact .nil
    | cons e k ih => exact insertYoung_sorted e ih
  have hdistinct : (youngest l cls).Pairwise fun a b => a.order ≠ b.order := by
    have hnodup : ((youngest l cls).map GEntry.order).Nodup :=
      ((youngest_perm l cls).map _).nodup_iff.mpr (h.sublist (List.filter_sublist.map _))
    exact List.pairwise_map.mp hnodup
  exact (hsorted _).imp₂ (fun a b hle hne => lt_of_le_of_ne hle hne.symm) hdistinct

/-- The claims of the grants as old as a grant, or older, exceed B. -/
def exceeds (b : Nat) (l : List GEntry) (g : GEntry) : Bool := decide (b < heldSum (l.filter fun e => decide (e.order ≤ g.order)))

theorem exceeds_perm {l k : List GEntry} (h : l.Perm k) (b : Nat) (g : GEntry) : exceeds b l g = exceeds b k g := by
  rw [exceeds, exceeds, heldSum_perm (h.filter _)]

/-- Taken from the youngest on until the sum fits are exactly the grants that exceed the limit. -/
theorem takeUntil_sorted (b : Nat) : ∀ {l : List GEntry}, l.Pairwise (fun a b => b.order < a.order) →
    takeUntil b (heldSum l) l = l.filter (exceeds b l)
  | [], _ => rfl
  | e :: l, h => by
    obtain ⟨he, hl⟩ := List.pairwise_cons.mp h
    have hsum : heldSum (e :: l) - e.claim = heldSum l := by simp [heldSum]
    have hfirst : ((e :: l).filter fun x => decide (x.order ≤ e.order)) = e :: l :=
      List.filter_eq_self.mpr fun x hx => decide_eq_true <| by
        rcases List.mem_cons.mp hx with rfl | hx
        · exact le_rfl
        · exact (he x hx).le
    have hrest : l.filter (exceeds b (e :: l)) = l.filter (exceeds b l) := List.filter_congr fun g hg => by
      rw [exceeds, exceeds, List.filter_cons_of_neg (by simpa using he g hg)]
    unfold takeUntil
    split
    · next hle =>
      refine (List.filter_eq_nil_iff.mpr fun g _ hg => ?_).symm
      have hover := of_decide_eq_true hg
      have hpart := heldSum_sublist (List.filter_sublist (l := e :: l) (p := fun x => decide (x.order ≤ g.order)))
      omega
    · next hover =>
      have hhead : exceeds b (e :: l) e = true := decide_eq_true (by rw [hfirst]; exact not_le.mp hover)
      rw [hsum, takeUntil_sorted b hl, List.filter_cons_of_pos hhead, hrest]

/-- The victims among grants that are all of class USER. -/
theorem budgetVictims_user {l : List GEntry} (hu : ∀ g ∈ l, g.cls = .user) (ho : (l.map GEntry.order).Nodup) (b : Nat) :
    budgetVictims l b = (youngest l .user).filter (exceeds b l) ∧ (youngest l .user).Perm l := by
  have hperm : (youngest l .user).Perm l :=
    (youngest_perm l .user).trans (.of_eq (List.filter_eq_self.mpr fun g hg => decide_eq_true (hu g hg)))
  have hnone (cls : GrantClass) (hc : cls ≠ .user) : youngest l cls = [] := youngest_nil fun g hg => hu g hg ▸ hc.symm
  refine ⟨?_, hperm⟩
  rw [budgetVictims, hnone .level (by decide), hnone .stow (by decide), hnone .wind (by decide), List.append_nil, List.append_nil,
    List.append_nil, ← heldSum_perm hperm, takeUntil_sorted b (youngest_sorted ho .user)]
  exact List.filter_congr fun g _ => exceeds_perm hperm b g

theorem mem_budgetVictims {l : List GEntry} (hu : ∀ g ∈ l, g.cls = .user) (ho : (l.map GEntry.order).Nodup) {b : Nat}
    {g : GEntry} :
    g ∈ budgetVictims l b ↔ g ∈ l ∧ exceeds b l g = true := by
  obtain ⟨hv, hperm⟩ := budgetVictims_user hu ho b
  rw [hv, List.mem_filter, hperm.mem_iff]

/-- Nothing is taken where the sum fits. -/
theorem budgetVictims_nil {l : List GEntry} {b : Nat} (h : heldSum l ≤ b) : budgetVictims l b = [] := by
  unfold budgetVictims takeUntil
  split
  · rfl
  · exact if_pos h

/-! ## What revoked work leaves of the channels and the grants -/

/-- An idle unit adds nothing to the units of a list that work. -/
theorem working_cons {s : State} {v : UnitId} (hw : (s.unit v).state = .idle) (l : List UnitId) (u : UnitId) :
    (u ∈ v :: l ∧ (s.unit u).state ≠ .idle) ↔ (u ∈ l ∧ (s.unit u).state ≠ .idle) := by
  rw [List.mem_cons, or_and_right]
  exact or_iff_right fun h => h.2 (h.1 ▸ hw)

theorem revoke_chan {u : UnitId} {c : Fin 16} (hc : c ∈ unitSlots u) : ∀ (l : List UnitId) (s : State),
    (s.revoke l).chan c = if u ∈ l ∧ (s.unit u).state ≠ .idle then ((s.chan c).endMotion s.frame).unwait else s.chan c
  | [], s => by simp [State.revoke]
  | v :: l, s => by
    rw [show s.revoke (v :: l) = (s.endUnit v .revoked).revoke l from rfl, revoke_chan hc l]
    by_cases hw : (s.unit v).state = .idle
    · rw [endUnit_idle hw, if_congr (working_cons hw l u) rfl rfl]
    · have hend := endUnit_ended hw .revoked
      rw [endUnit_unit, endUnit_frame]
      by_cases huv : u = v
      · subst huv
        simp [hw, UnitRec.reset, hend.chans c hc]
      · have hout : c ∉ unitSlots v := fun h => huv ((unitOfChan_slots hc).symm.trans (unitOfChan_slots h))
        simp [huv, hend.otherChans c hout]

theorem revoke_grants : ∀ (l : List UnitId) (s : State),
    (s.revoke l).sgu.grants = s.sgu.grants.filter fun g => !decide (g.unit ∈ l ∧ (s.unit g.unit).state ≠ .idle)
  | [], s => by simp [State.revoke]
  | v :: l, s => by
    rw [show s.revoke (v :: l) = (s.endUnit v .revoked).revoke l from rfl, revoke_grants l]
    by_cases hw : (s.unit v).state = .idle
    · rw [endUnit_idle hw]
      exact List.filter_congr fun g _ => by rw [decide_eq_decide.mpr (working_cons hw l g.unit)]
    · rw [(endUnit_ended hw .revoked).grants, List.filter_filter]
      refine List.filter_congr fun g _ => ?_
      rw [endUnit_unit]
      by_cases hg : g.unit = v
      · simp [hg, hw]
      · simp [hg]

/-! ## ENG accepted (R142) -/

/-- The state with another level of ENG accepted, and INPUT_CHANGE. -/
def State.engTaken (s : State) (level old : Bool) : State :=
  ({ s with ciu := { s.ciu with eng := { s.ciu.eng.sampled level with accepted := some level, changed := true } } } : State).offer
    (.inputChange .eng level old)

theorem exec_eng {s : State} {level old : Bool} (hn : s.ciu.eng.newLevel level) (ho : s.ciu.eng.accepted = some old) :
    exec (.inputAccept .eng level) s =
      event s { st := s.engTaken level old, acts := (if level then [] else engineLossActs s) ++ [.budget] } := by
  have haccepts : ((s.input .eng).sample level).accepts = true := (accepts_iff_newLevel s.ciu.eng level).mpr hn
  have hold : ((s.input .eng).sample level).accepted = some old := by
    rw [sample_eq_sampled]
    exact ho
  have hsample : (s.input .eng).sample level = s.ciu.eng.sampled level := sample_eq_sampled _ _
  have huse : s.sampleInput .eng level =
      { st := s.engTaken level old, acts := (if level then [] else engineLossActs s) ++ [.budget] } := by
    unfold State.sampleInput
    simp only [haccepts, if_true, hold]
    rw [hsample]
    rfl
  exact congrArg (event s) huse

/-- With pump-needs-engine off ENG ends no work of its own. -/
theorem engineActs_free {s : State} (hp : s.par.pumpNeedsEngine = false) (level : Bool) :
    (if level then [] else engineLossActs s) ++ [.budget] = [Act.budget] := by
  simp [engineLossActs, hp]

theorem engTaken_budgetRule (s : State) (level old : Bool) :
    (s.engTaken level old).budgetRule = if level then s.par.budgetEngine else s.par.budgetBattery := by
  cases level <;> rfl

theorem still_engTaken {s : State} (h : Still s) (level old : Bool) : Still (s.engTaken level old) := ⟨h.exposed, h.jacks⟩

theorem parked_engTaken {s : State} (h : Parked s) (level old : Bool) : Parked (s.engTaken level old) := ⟨h.park, h.alarm⟩

/-! ## B follows -/

theorem still_withBudget {s : State} (h : Still s) (b : Nat) : Still (s.withBudget b) := ⟨h.exposed, h.jacks⟩

theorem parked_withBudget {s : State} (h : Parked s) (b : Nat) : Parked (s.withBudget b) := ⟨h.park, h.alarm⟩

theorem endUnit_withBudget (s : State) (u : UnitId) (why : Reason) (b : Nat) :
    (s.withBudget b).endUnit u why = (s.endUnit u why).withBudget b := by
  unfold State.endUnit
  by_cases h : (s.unit u).state = .idle
  · rw [if_pos h]
    exact if_pos h
  · rw [if_neg h]
    refine (if_neg h).trans ?_
    cases u <;> rfl

/-- A fall of B with nothing queued ends the work of its victims. -/
theorem actBudget_fall {s : State} (hq : s.sgu.queue = []) (hb : s.budgetRule < s.sgu.budget) :
    actBudget s =
      let o := actEndUnits (revoking ((budgetVictims s.sgu.grants s.budgetRule).map fun g => (g.unit, .revoked)))
        (s.withBudget s.budgetRule)
      { st := o.st, acts := o.acts ++ [.exam] } := by
  have hends : revoking ((budgetVictims s.sgu.grants s.budgetRule).map fun g => (g.unit, .revoked)) =
      (budgetVictims s.sgu.grants s.budgetRule).map fun g => ending g.unit .revoked .revoked := by
    rw [revoking, List.map_map]
    rfl
  have hlarge : s.sgu.queue.filter (fun e => decide (s.budgetRule < e.claim)) = [] := by
    rw [hq]
    rfl
  unfold actBudget
  simp only [if_neg hb.le.not_gt, if_pos hb, hlarge, List.map_nil, List.nil_append, hends]
  rfl

/-- Where nothing waits and the grants fit, B moves and nothing else does. -/
theorem does_budget_fits {s : State} (hq : s.sgu.queue = []) (hh : heldSum s.sgu.grants ≤ s.budgetRule) :
    ∃ x, Does 2 x [.budget] s (s.withBudget s.budgetRule) := by
  have hact {o : Out} {m : Nat} {x : Bool} (ho : actBudget s = o) (hd : Does m x o.acts o.st (s.withBudget s.budgetRule)) :
      Does (m + 1) x [.budget] s (s.withBudget s.budgetRule) := does_act (by simp) ho hd
  rcases lt_trichotomy s.sgu.budget s.budgetRule with hrise | hsame | hfall
  · have ho : actBudget s = { st := s.withBudget s.budgetRule, acts := [.exam] } := if_pos hrise
    exact ⟨true, hact ho (does_exam (does_nil _))⟩
  · have ho : actBudget s = .done (s.withBudget s.budgetRule) := (if_neg hsame.not_lt).trans (if_neg hsame.not_gt)
    exact ⟨false, does_mono (hact ho (does_nil _)) (by omega)⟩
  · have ho : actBudget s = { st := s.withBudget s.budgetRule, acts := [.exam] } := by
      rw [actBudget_fall hq hfall, budgetVictims_nil hh]
      have hnone : actEndUnits [] (s.withBudget s.budgetRule) = { st := s.withBudget s.budgetRule, acts := [] } :=
        endUnits_idle fun e he => absurd he List.not_mem_nil
      exact congrArg (fun o : Out => ({ st := o.st, acts := o.acts ++ [.exam] } : Out)) hnone
    exact ⟨true, hact ho (does_exam (does_nil _))⟩

/-- Another level of ENG in a part at rest. -/
theorem exec_eng_resting {s : State} {level old : Bool} (hs : Resting s) (hp : s.par.pumpNeedsEngine = false)
    (hn : s.ciu.eng.newLevel level) (ho : s.ciu.eng.accepted = some old) : exec (.inputAccept .eng level) s =
      .next (finish ((s.engTaken level old).withBudget (if level then s.par.budgetEngine else s.par.budgetBattery))) := by
  have hheld : heldSum s.sgu.grants ≤ (s.engTaken level old).budgetRule := by simp [hs.grants, heldSum]
  obtain ⟨x, hbudget⟩ := does_budget_fits (s := s.engTaken level old) hs.queue hheld
  have hstill : Still (s.engTaken level old) := still_of_resting hs rfl hs.motions
  rw [exec_eng hn ho, engineActs_free hp, ← engTaken_budgetRule s level old]
  exact event_does hs.running hbudget (by omega) (still_withBudget hstill _)
    (parked_withBudget (parked_engTaken hs.parked level old) _) fun _ => hs.queue

/-! ## A fall of B over USER grants -/

/-- The units of the grants that a fall of B revokes, the youngest first. -/
def State.fallen (s : State) : List UnitId := (budgetVictims s.sgu.grants s.par.budgetBattery).map GEntry.unit

section
variable {s : State} (hs : Steady s) (hq : s.sgu.queue = [])
  (hg : ∀ g ∈ s.sgu.grants, g.cls = .user ∧ (s.unit g.unit).state ≠ .idle ∧ (s.unit g.unit).origin = some .user)
  (hunits : (s.sgu.grants.map GEntry.unit).Nodup) (horders : (s.sgu.grants.map GEntry.order).Nodup)

include hs hq hg hunits horders in
theorem exec_eng_fall (hp : s.par.pumpNeedsEngine = false) (hn : s.ciu.eng.newLevel false) (ho : s.ciu.eng.accepted = some true)
    (hb : s.par.budgetBattery < s.sgu.budget) : exec (.inputAccept .eng false) s =
      .next (finish (((s.engTaken false true).withBudget s.par.budgetBattery).revoke s.fallen)) := by
  obtain ⟨victims, hvictims⟩ : ∃ l : List (UnitId × Cause),
      l = (budgetVictims s.sgu.grants s.par.budgetBattery).map fun g => (g.unit, .revoked) := ⟨_, rfl⟩
  obtain ⟨w, hw⟩ : ∃ w, w = (s.engTaken false true).withBudget s.par.budgetBattery := ⟨_, rfl⟩
  have hfst : victims.map Prod.fst = s.fallen := by
    rw [hvictims, List.map_map]
    rfl
  have hstill : Still w := hw ▸ still_withBudget (still_engTaken hs.still false true) _
  have hparked : Parked w := hw ▸ parked_withBudget (parked_engTaken hs.parked false true) _
  have huser : ∀ p ∈ victims, (w.unit p.1).state ≠ .idle → (w.unit p.1).origin = some .user := by
    rintro p hmem -
    rw [hvictims] at hmem
    obtain ⟨g, hv, rfl⟩ := List.mem_map.mp hmem
    have hgrant := ((mem_budgetVictims (fun g h => (hg g h).1) horders).mp hv).1
    rw [hw]
    exact (hg g hgrant).2.2
  have hfew : victims.length ≤ 6 := by
    obtain ⟨hv, hperm⟩ := budgetVictims_user (fun g h => (hg g h).1) horders s.par.budgetBattery
    have hlen := nodup_few hunits
    rw [List.length_map] at hlen
    rw [hvictims, List.length_map, hv]
    exact (List.length_filter_le _ _).trans (hperm.length_eq ▸ hlen)
  obtain ⟨x, b, hends⟩ := does_revoking hstill hparked huser
  rw [hfst] at hends
  have hfall : actBudget (s.engTaken false true) =
      { st := (actEndUnits (revoking victims) w).st, acts := (actEndUnits (revoking victims) w).acts ++ [.exam] } := by
    rw [hvictims, hw]
    exact actBudget_fall hq hb
  have hbudget := does_act (a := .budget) (by simp) hfall (does_append hends (does_exam (does_nil _)))
  have hempty : (w.revoke s.fallen).sgu.queue = [] := revoke_queue fun e he => by
    have hnone : w.sgu.queue = [] := hw ▸ hq
    exact absurd (hnone ▸ he) List.not_mem_nil
  rw [exec_eng hn ho, engineActs_free hp, ← hw, ← finish_withTravel _ b]
  exact event_does hs.running hbudget (by omega) (still_withTravel (still_revoke hstill _) b)
    (parked_withTravel (parked_revoke hparked _) b) fun _ => hempty

include hg horders in
/-- What a fall revokes: the grants for which the claims of those as old or older exceed B. -/
theorem mem_fallen {g : GEntry} (h : g ∈ s.sgu.grants) (hunits : (s.sgu.grants.map GEntry.unit).Nodup) :
    g.unit ∈ s.fallen ↔ exceeds s.par.budgetBattery s.sgu.grants g = true := by
  have hmem {v : GEntry} : v ∈ budgetVictims s.sgu.grants s.par.budgetBattery ↔
      v ∈ s.sgu.grants ∧ exceeds s.par.budgetBattery s.sgu.grants v = true :=
    mem_budgetVictims (fun g h => (hg g h).1) horders
  constructor
  · intro hf
    obtain ⟨v, hv, hunit⟩ := List.mem_map.mp hf
    obtain ⟨hgrant, hover⟩ := hmem.mp hv
    exact List.inj_on_of_nodup_map hunits hgrant h hunit ▸ hover
  · exact fun hover => List.mem_map_of_mem (hmem.mpr ⟨h, hover⟩)

include hg horders hunits in
/-- The grants that stay fit B. -/
theorem fallen_fits : heldSum (s.sgu.grants.filter fun g => !exceeds s.par.budgetBattery s.sgu.grants g) ≤ s.par.budgetBattery := by
  refine held_without_victims List.filter_sublist fun g hstay v hv hunit => ?_
  obtain ⟨hgrant, hfits⟩ := List.mem_filter.mp hstay
  have hover := (mem_fallen hg horders hgrant hunits).mp (hunit ▸ List.mem_map_of_mem hv)
  rw [hover] at hfits
  cases hfits

include hg horders hunits in
theorem mem_fallen_unit {u : UnitId} :
    (u ∈ s.fallen ∧ (s.unit u).state ≠ .idle) ↔
      ∃ g ∈ s.sgu.grants, g.unit = u ∧ exceeds s.par.budgetBattery s.sgu.grants g = true := by
  constructor
  · rintro ⟨hf, -⟩
    obtain ⟨v, hv, rfl⟩ := List.mem_map.mp hf
    have hgrant := ((mem_budgetVictims (fun g h => (hg g h).1) horders).mp hv).1
    exact ⟨v, hgrant, rfl, (mem_fallen hg horders hgrant hunits).mp hf⟩
  · rintro ⟨g, hgrant, rfl, hover⟩
    exact ⟨(mem_fallen hg horders hgrant hunits).mpr hover, (hg g hgrant).2.1⟩

include hg horders hunits in
/-- The grants that a fall leaves. -/
theorem fallen_grants : (((s.engTaken false true).withBudget s.par.budgetBattery).revoke s.fallen).sgu.grants =
    s.sgu.grants.filter fun g => !exceeds s.par.budgetBattery s.sgu.grants g := by
  rw [revoke_grants]
  refine List.filter_congr fun g hgrant => congrArg (! ·) (Bool.eq_iff_iff.mpr (decide_eq_true_iff.trans ?_))
  exact ⟨fun h => (mem_fallen hg horders hgrant hunits).mp h.1,
    fun h => ⟨(mem_fallen hg horders hgrant hunits).mpr h, (hg g hgrant).2.1⟩⟩
end

/-- What the ends of USER units' work leave as it was. -/
structure RevokeLeaves (s t : State) : Prop where
  budget : t.sgu.budget = s.sgu.budget
  ciu : t.ciu = s.ciu
  flt : t.flt = s.flt
  lvs : t.lvs = s.lvs
  wgd : t.wgd = s.wgd
  sst : t.sst = s.sst
  nlc : t.nlc = s.nlc

theorem revoke_leaves (s : State) (l : List UnitId) : RevokeLeaves s (s.revoke l) :=
  foldl_endUnit_keeps (P := RevokeLeaves s)
    (fun t u h => ⟨(endUnit_budget t u _).trans h.budget, (endUnit_ciu t u _).trans h.ciu, (endUnit_flt t u _).trans h.flt,
      (endUnit_lvs t u _).trans h.lvs, (endUnit_wgd t u _).trans h.wgd, (endUnit_sst t u _).trans h.sst,
      (endUnit_nlc t u _).trans h.nlc⟩) l ⟨rfl, rfl, rfl, rfl, rfl, rfl, rfl⟩

/-! ## ENG lost under pump-needs-engine (R73, R107) -/

theorem engineActs_bound {s : State} (hp : s.par.pumpNeedsEngine = true) :
    (if false then [] else engineLossActs s) ++ [.budget] = [.endUnits [ending .jacks .interlock .interlock]] ++ [Act.budget] := by
  simp [engineLossActs, hp]

theorem evaluated_withBudget (s : State) (b : Nat) : s.evaluated.withBudget b = (s.withBudget b).withTravel s.travelRule := rfl

/-- What follows the end of JACKS, whoever it worked for: B falls over the grants that remain, which fit it. -/
theorem exec_eng_bound {s t : State} {m : Nat} (hs : s.mode = .running) (hp : s.par.pumpNeedsEngine = true)
    (hn : s.ciu.eng.newLevel false) (ho : s.ciu.eng.accepted = some true)
    (hd : Does m true [.endUnits [ending .jacks .interlock .interlock]] (s.engTaken false true) t.evaluated) (hm : m ≤ 3000)
    (hstill : Still t) (hparked : Parked t) (hq : t.sgu.queue = []) (hb : t.budgetRule = s.par.budgetBattery)
    (hheld : heldSum t.sgu.grants ≤ s.par.budgetBattery) :
    exec (.inputAccept .eng false) s = .next (finish (t.withBudget s.par.budgetBattery)) := by
  have hrule : t.evaluated.budgetRule = s.par.budgetBattery := hb
  obtain ⟨x, hbudget⟩ := does_budget_fits (s := t.evaluated) hq (hrule ▸ hheld)
  rw [hrule, evaluated_withBudget] at hbudget
  rw [exec_eng hn ho, engineActs_bound hp, ← finish_withTravel _ t.travelRule]
  exact event_does hs (does_append hd hbudget) (by omega) (still_withTravel (still_withBudget hstill _) _)
    (parked_withTravel (parked_withBudget hparked _) _) fun _ => hq

theorem endUnit_budgetRule (s : State) (u : UnitId) (why : Reason) : (s.endUnit u why).budgetRule = s.budgetRule := by
  rw [State.budgetRule, State.budgetRule, State.engRunning, State.engRunning, endUnit_ciu, endUnit_par]

/-- JACKS works for the user. -/
theorem exec_eng_user {s : State} (hs : Steady s) (hp : s.par.pumpNeedsEngine = true) (hn : s.ciu.eng.newLevel false)
    (ho : s.ciu.eng.accepted = some true) (hq : s.queueOnly .jacks)
    (hheld : heldSum (s.sgu.grants.filter fun g => decide (g.unit ≠ .jacks)) ≤ s.par.budgetBattery)
    (hw : (s.unit .jacks).state ≠ .idle) (hu : (s.unit .jacks).origin = some .user) : exec (.inputAccept .eng false) s =
      .next (finish (((s.engTaken false true).withBudget s.par.budgetBattery).endUnit .jacks .interlock)) := by
  have hstill := still_engTaken hs.still false true
  have hparked := parked_engTaken hs.parked false true
  have hends : Does 5 true [.endUnits [ending .jacks .interlock .interlock]] (s.engTaken false true)
      ((s.engTaken false true).endUnit .jacks .interlock).evaluated := does_ends hstill hparked hw hu
  have hgrants : ((s.engTaken false true).endUnit .jacks .interlock).sgu.grants =
      s.sgu.grants.filter fun g => decide (g.unit ≠ .jacks) :=
    (endUnit_ended (s := s.engTaken false true) hw .interlock).grants
  rw [endUnit_withBudget]
  exact exec_eng_bound hs.running hp hn ho hends (by omega) (endUnit_still hstill _ _) (endUnit_parked hparked _ _)
    (endUnit_queue (s := s.engTaken false true) hw hq .interlock) (endUnit_budgetRule (s.engTaken false true) _ _) (hgrants ▸ hheld)

/-- A level sequence has ended after the work of JACKS, which ended for a reason of its own (R90, R107). -/
def State.levelLost (s : State) (why : Reason) (o : LvOutcome) (cause : Cause) : State :=
  let q := s.lvs.seq
  let a := s.atu.record
  { (s.endUnit .jacks why).offer (.levelDone o cause q.state q.passes a.pitch a.roll q.clamped) with
    lvs := { seq := .reset
             result := { outcome := o, cause := cause, endedIn := some q.state, passes := q.passes, pitch := a.pitch
                         roll := a.roll, clamped := q.clamped, positions := s.jackPositions } } }

section
variable {s : State} (why : Reason) (o : LvOutcome) (cause : Cause)

theorem still_levelLost (h : Still s) : Still (s.levelLost why o cause) :=
  ⟨(endUnit_still h .jacks why).exposed, (endUnit_still h .jacks why).jacks⟩

theorem parked_levelLost (h : Parked s) : Parked (s.levelLost why o cause) :=
  parked_of_ciu h (endUnit_ciu s _ _) (congrArg Sst.phase (endUnit_sst s _ _))

theorem levelLost_ciu : (s.levelLost why o cause).ciu = s.ciu := endUnit_ciu s _ _
theorem levelLost_flt : (s.levelLost why o cause).flt = s.flt := endUnit_flt s _ _
theorem levelLost_wgd : (s.levelLost why o cause).wgd = s.wgd := endUnit_wgd s _ _
theorem levelLost_sst : (s.levelLost why o cause).sst = s.sst := endUnit_sst s _ _
theorem levelLost_nlc : (s.levelLost why o cause).nlc = s.nlc := endUnit_nlc s _ _
theorem levelLost_budgetRule : (s.levelLost why o cause).budgetRule = s.budgetRule := by
  have hpar : (s.levelLost why o cause).par = s.par := by
    rw [State.par, State.par, levelLost_sst]
  rw [State.budgetRule, State.budgetRule, State.engRunning, State.engRunning, levelLost_ciu, hpar]

theorem levelLost_ended (hw : (s.unit .jacks).state ≠ .idle) :
    LevelEnded s (s.levelLost why o cause) s.lvs.seq.state o cause := by
  have h := endUnit_ended hw why
  exact ⟨rfl, rfl, h.idle, h.chans, h.otherChans, h.grants⟩

/-- The LVS ends its sequence once the work of JACKS has ended. -/
theorem does_levelLost (hs : Still s) (hp : Parked s) (hst : s.lvs.seq.state ≠ .idle) (hw : (s.unit .jacks).state ≠ .idle) :
    Does 4 true [.lvsEnd o cause none] (s.endUnit .jacks why).evaluated (s.levelLost why o cause).evaluated := by
  have hseq : (s.endUnit .jacks why).evaluated.lvs = s.lvs := endUnit_lvs s _ _
  have horigin : ((s.endUnit .jacks why).evaluated.unit .jacks).origin ≠ some .level := by
    rw [show (s.endUnit .jacks why).evaluated.unit .jacks = .reset from (endUnit_ended hw _).idle]
    nofun
  have hatu : (s.endUnit .jacks why).evaluated.atu = s.atu := endUnit_atu s _ _
  have hpos : (s.endUnit .jacks why).evaluated.jackPositions = s.jackPositions := endUnit_positions s _ _
  have hact : actLvsEnd o cause none (s.endUnit .jacks why).evaluated =
      { st := (s.levelLost why o cause).withTravel (s.endUnit .jacks why).travelRule, acts := [.restCheck false, .exam] } := by
    unfold actLvsEnd
    simp only [hseq, if_neg hst, if_neg horigin, hatu, hpos]
    rfl
  have hd := does_append (does_evaluate (still_withTravel (still_levelLost why o cause hs) (s.endUnit .jacks why).travelRule)
    (parked_withTravel (parked_levelLost why o cause hp) _) false) (does_exam (does_nil _))
  rw [evaluated_withTravel] at hd
  exact does_act (by simp) hact hd
end

/-- The end of JACKS with INTERLOCK under a level sequence ends the sequence FAILED (TABLE 6-10). -/
theorem does_interlock_level {s : State} {st : LvState} {since : FrameNo} (hl : s.Levelling st since) (hst : st ≠ .idle) :
    Does 9 true [.endUnits [ending .jacks .interlock .interlock]] s (s.levelLost .interlock .failed .interlock).evaluated := by
  have hidle : s.lvs.seq.state ≠ .idle := hl.state ▸ hst
  have hw : (s.unit .jacks).state ≠ .idle := fun e => UnitState.noConfusion (hl.jacks.1.symm.trans e)
  have hseq : (s.endUnit .jacks .interlock).evaluated.lvs = s.lvs := endUnit_lvs s _ _
  have hact : act (.handOff (ending .jacks .interlock .interlock) .level) (s.endUnit .jacks .interlock).evaluated =
      { st := (s.endUnit .jacks .interlock).evaluated, acts := [.lvsEnd .failed .interlock none] } := by
    simp [act, actHandOff, lvsUnitEnd, ending, hseq, hidle, hl.recorded]
  exact does_endWork hl.steady.still hl.steady.parked hw hl.jacks.2 (sparesStep_of_why nofun)
    (does_act (by simp) hact (does_levelLost .interlock .failed .interlock hl.steady.still hl.steady.parked hidle hw))

theorem levelling_engTaken {s : State} {st : LvState} {since : FrameNo} (hl : s.Levelling st since) (level old : Bool) :
    (s.engTaken level old).Levelling st since :=
  ⟨⟨hl.steady.running, still_engTaken hl.steady.still level old, parked_engTaken hl.steady.parked level old⟩, hl.state, hl.start,
    hl.recorded, hl.jacks, hl.others, hl.queue⟩

/-- JACKS works for a level sequence. -/
theorem exec_eng_level {s : State} {st : LvState} {since : FrameNo} (hl : s.Levelling st since) (hst : st ≠ .idle)
    (hp : s.par.pumpNeedsEngine = true) (hn : s.ciu.eng.newLevel false) (ho : s.ciu.eng.accepted = some true)
    (hheld : heldSum (s.sgu.grants.filter fun g => decide (g.unit ≠ .jacks)) ≤ s.par.budgetBattery) :
    exec (.inputAccept .eng false) s = .next (finish
      (((s.engTaken false true).levelLost .interlock .failed .interlock).withBudget s.par.budgetBattery)) := by
  have hk := levelling_engTaken hl false true
  have hw : ((s.engTaken false true).unit .jacks).state ≠ .idle := fun e => UnitState.noConfusion (hl.jacks.1.symm.trans e)
  have hended := levelLost_ended .interlock .failed .interlock hw
  have hqueue : ((s.engTaken false true).levelLost .interlock .failed .interlock).sgu.queue = [] :=
    endUnit_queue (s := s.engTaken false true) hw (fun e he => absurd (hl.queue ▸ he) List.not_mem_nil) .interlock
  have hgrants : ((s.engTaken false true).levelLost .interlock .failed .interlock).sgu.grants =
      s.sgu.grants.filter fun g => decide (g.unit ≠ .jacks) := hended.grants
  exact exec_eng_bound hl.steady.running hp hn ho (does_interlock_level hk hst) (by omega)
    (still_levelLost _ _ _ hk.steady.still) (parked_levelLost _ _ _ hk.steady.parked) hqueue
    (levelLost_budgetRule (s := s.engTaken false true) _ _ _) (hgrants ▸ hheld)

/-- The acceptance of ENG, B and the lines stand outside the record of an ended sequence. -/
theorem levelEnded_eng {s t : State} {st : LvState} {o : LvOutcome} {cause : Cause} {level old : Bool} {b : Nat}
    (h : LevelEnded (s.engTaken level old) t st o cause) : LevelEnded s (finish (t.withBudget b)) st o cause :=
  ⟨h.seq, h.result, h.jacks, h.motions, h.others, h.grants⟩

end Sys2Proof.Machine

namespace Sys2Proof

open Machine

/-- Settles O32: a part at rest (`exec_eng_resting`), a fall over USER grants (`exec_eng_fall`: the youngest are taken until the
sum fits, `takeUntil_sorted`), and the end of JACKS before B falls (`exec_eng_user`, `exec_eng_level`). -/
theorem engineSetsTheBudget : Obligations.EngineSetsTheBudget := by
  refine ⟨fun level old s hs hp hn ho => exec_eng_resting hs hp hn ho, fun s hs hp hn ho hq hg hunits horders hb => ?_,
    fun s hs hp hn ho hq hheld => ⟨exec_eng_user hs hp hn ho hq hheld, fun st f hl hst => ?_⟩⟩
  · have hleave {u : UnitId} := mem_fallen_unit hg hunits horders (u := u)
    have hover {g : GEntry} : exceeds s.par.budgetBattery s.sgu.grants g = true ↔
        s.par.budgetBattery < ((s.sgu.grants.filter fun e => decide (e.order ≤ g.order)).map GEntry.claim).sum := decide_eq_true_iff
    have hexec := exec_eng_fall hs hq hg hunits horders hp hn ho hb
    have hleaves := revoke_leaves ((s.engTaken false true).withBudget s.par.budgetBattery) s.fallen
    have hunit := revoke_unit s.fallen ((s.engTaken false true).withBudget s.par.budgetBattery)
    have hchan {u : UnitId} {c : Fin 16} (hc : c ∈ unitSlots u) :=
      revoke_chan hc s.fallen ((s.engTaken false true).withBudget s.par.budgetBattery)
    have hqueue : (((s.engTaken false true).withBudget s.par.budgetBattery).revoke s.fallen).sgu.queue = [] :=
      revoke_queue fun e (he : e ∈ s.sgu.queue) => absurd (hq ▸ he) List.not_mem_nil
    have hgrants := fallen_grants hg hunits horders
    generalize ((s.engTaken false true).withBudget s.par.budgetBattery).revoke s.fallen = t at hexec hleaves hunit hchan hqueue hgrants
    refine ⟨finish t, hexec, hleaves.budget, hqueue, hgrants, (congrArg heldSum hgrants).trans_le (fallen_fits hg hunits horders),
      fun g hgrant hg => ?_, fun u hnot => ?_, congrArg Ciu.eng hleaves.ciu, hleaves.flt, hleaves.lvs, hleaves.wgd,
      (congrArg Ciu.stow hleaves.ciu :), (congrArg Ciu.park hleaves.ciu :), hleaves.sst, nodesStand_finish hleaves.nlc⟩
    · have hends := hleave.mpr ⟨g, hgrant, rfl, hover.mpr hg⟩
      exact ⟨(hunit _).trans (if_pos hends), fun c hc => (hchan hc).trans (if_pos hends)⟩
    · have hstays : ¬(u ∈ s.fallen ∧ (s.unit u).state ≠ .idle) := fun h => by
        obtain ⟨g, hgrant, hunit, hg⟩ := hleave.mp h
        exact hnot ⟨g, hgrant, hunit, hover.mp hg⟩
      exact ⟨(hunit _).trans (if_neg hstays), fun c hc => (hchan hc).trans (if_neg hstays)⟩
  · have hw : ((s.engTaken false true).unit .jacks).state ≠ .idle := fun e => UnitState.noConfusion (hl.jacks.1.symm.trans e)
    have hended := levelLost_ended .interlock .failed .interlock hw
    have hciu := levelLost_ciu (s := s.engTaken false true) .interlock .failed .interlock
    have hflt := levelLost_flt (s := s.engTaken false true) .interlock .failed .interlock
    have hwgd := levelLost_wgd (s := s.engTaken false true) .interlock .failed .interlock
    have hsst := levelLost_sst (s := s.engTaken false true) .interlock .failed .interlock
    have hnlc := levelLost_nlc (s := s.engTaken false true) .interlock .failed .interlock
    have hexec := exec_eng_level hl hst hp hn ho hheld
    rw [show (s.engTaken false true).lvs.seq.state = st from hl.state] at hended
    generalize (s.engTaken false true).levelLost .interlock .failed .interlock = t at hended hciu hflt hwgd hsst hnlc hexec
    exact ⟨_, hexec, levelEnded_eng hended, hflt, rfl, congrArg Ciu.eng hciu, (congrArg Ciu.stow hciu :),
      (congrArg Ciu.park hciu :), hwgd, hsst,
      nodesStand_finish hnlc⟩

end Sys2Proof
end

section
/-! SUPPORT. The parameter table: what is stored and what is read back (R185, TABLE 12-3). -/

namespace Sys2Proof.Machine

/-! ## The values of a set, scope by scope -/

/-- The values of the coach's parameters, ids 1 to 27. -/
def CoachParams.values (k : CoachParams) : List Int :=
  [k.attendanceWindow, k.speedWindow, k.supplyLow, k.supplyCutoff, k.supplyHigh, k.supplyHysteresis, k.budgetBattery,
    k.budgetEngine, k.pumpClaim, flagVal k.pumpNeedsEngine, k.tiltOffsetX, k.tiltOffsetY, k.tiltGainX, k.tiltGainY, k.settleBand,
    k.levelTolerance, k.levelMaxPasses, k.levelDeadband, flagVal k.slidesNeedJacks, flagVal k.autoStow, k.stowStepTime,
    k.windFactor, k.windTrip, k.windHysteresis, k.windMode.code, k.windHoldOff, k.noticeMask.toNat]

/-- The values of a room's parameters, ids 32 to 34. -/
def RoomParams.values (x : RoomParams) : List Int := [x.trimBand, x.rackLimit, x.endWait]

/-- The values of a motor channel's parameters, ids 40 to 51. -/
def MotorParams.values (x : MotorParams) : List Int :=
  [x.travel, x.claim, x.runDuty, x.creepDuty, x.approachBand, x.stallFloor, x.stallCurrent, x.endBand, x.endTolerance, x.dragLow,
    x.dragHigh, x.dragLimit]

/-- The values of a jack channel's parameters, ids 56 to 61. -/
def JackParams.values (x : JackParams) : List Int :=
  [x.stroke, x.jackX, x.jackY, x.contactThreshold, x.contactHysteresis, x.supportMargin]

/-- A parameter's place: a row of the coach, of a room, of a motor channel or of a jack channel. -/
inductive ParamPlace where
  | coach (i : Fin 27)
  | room (r : Fin 4) (i : Fin 3)
  | motor (c : Fin 16) (i : Fin 12)
  | jack (c : Fin 16) (i : Fin 6)
  deriving DecidableEq

/-- The id of a place. -/
def ParamPlace.id : ParamPlace → Nat
  | .coach i => 1 + i
  | .room _ i => 32 + i
  | .motor _ i => 40 + i
  | .jack _ i => 56 + i

/-- The subject of a place. -/
def ParamPlace.subject : ParamPlace → Subject
  | .coach _ => .coach
  | .room r _ => .room r
  | .motor c _ => .chan c
  | .jack c _ => .chan c

/-- The value at a place. -/
def Params.at (p : Params) : ParamPlace → Int
  | .coach i => p.coach.values.getD i 0
  | .room r i => (p.rooms.get r).values.getD i 0
  | .motor c i => (p.motors.get c).values.getD i 0
  | .jack c i => (p.jacks.get c).values.getD i 0

theorem get_place (p : Params) (q : ParamPlace) : p.get q.id q.subject = p.at q := by
  cases q with
  | coach i => fin_cases i <;> rfl
  | room r i => fin_cases i <;> rfl
  | motor c i => fin_cases i <;> rfl
  | jack c i => fin_cases i <;> rfl

/-- The value that a set keeps of one put at an id: the records hold counts, flags and signed numbers. -/
def keptValue : Nat → Int → Int
  | 10, v | 19, v | 20, v => flagVal (decide (v = 1))
  | 25, v => (if decide (v = 1) then WindMode.follow else WindMode.latch).code
  | 27, v => (BitVec.ofNat 13 v.toNat ||| 1#13).toNat
  | 57, v | 58, v => v
  | _, v => v.toNat

/-! ## What is put at a place -/

section
variable (p : Params) (v : Int)

theorem put_coach (i : Fin 27) : ∃ k, p.put (1 + i) .coach v = { p with coach := k } ∧
    k.values = p.coach.values.set i (keptValue (1 + i) v) := by
  fin_cases i <;> exact ⟨_, rfl, rfl⟩

theorem put_room (r : Fin 4) (i : Fin 3) : ∃ x, p.put (32 + i) (.room r) v = { p with rooms := p.rooms.set r x } ∧
    x.values = (p.rooms.get r).values.set i (keptValue (32 + i) v) := by
  fin_cases i <;> exact ⟨_, rfl, rfl⟩

theorem put_motor (c : Fin 16) (i : Fin 12) : ∃ x, p.put (40 + i) (.chan c) v = { p with motors := p.motors.set c x } ∧
    x.values = (p.motors.get c).values.set i (keptValue (40 + i) v) := by
  fin_cases i <;> exact ⟨_, rfl, rfl⟩

theorem put_jack (c : Fin 16) (i : Fin 6) : ∃ x, p.put (56 + i) (.chan c) v = { p with jacks := p.jacks.set c x } ∧
    x.values = (p.jacks.get c).values.set i (keptValue (56 + i) v) := by
  fin_cases i <;> exact ⟨_, rfl, rfl⟩
end

theorem getD_set {l : List Int} {i : Nat} (h : i < l.length) (j : Nat) (a : Int) :
    ((l.set i a)[j]?).getD 0 = if j = i then a else l[j]?.getD 0 := by
  rw [List.getElem?_set]
  by_cases hj : i = j
  · simp [hj, hj ▸ h]
  · simp [hj, Ne.symm hj]

theorem vector_get_set {α : Type} {n : Nat} (l : Vector α n) (i j : Fin n) (a : α) :
    (l.set i a).get j = if j = i then a else l.get j := by
  by_cases h : j = i
  · simp [h, Vector.get_eq_getElem]
  · have hval : i.val ≠ j.val := fun e => h (Fin.ext e.symm)
    simp [h, hval, Vector.get_eq_getElem]

/-- What is put at a place is kept there, and nothing else moves. -/
theorem at_put (p : Params) (q q' : ParamPlace) (v : Int) :
    (p.put q.id q.subject v).at q' = if q' = q then keptValue q.id v else p.at q' := by
  cases q with
  | coach i =>
    obtain ⟨k, hput, hvalues⟩ := put_coach p v i
    simp only [ParamPlace.id, ParamPlace.subject, hput]
    cases q' with
    | coach j => simp [Params.at, hvalues, getD_set (l := p.coach.values) i.isLt, Fin.ext_iff]
    | room | motor | jack => simp [Params.at]
  | room r i =>
    obtain ⟨x, hput, hvalues⟩ := put_room p v r i
    simp only [ParamPlace.id, ParamPlace.subject, hput]
    cases q' with
    | room r' j =>
      by_cases hr : r' = r
      · simp [Params.at, vector_get_set, hr, hvalues, getD_set (l := (p.rooms.get r).values) i.isLt, Fin.ext_iff]
      · simp [Params.at, vector_get_set, hr]
    | coach | motor | jack => simp [Params.at]
  | motor c i =>
    obtain ⟨x, hput, hvalues⟩ := put_motor p v c i
    simp only [ParamPlace.id, ParamPlace.subject, hput]
    cases q' with
    | motor c' j =>
      by_cases hc : c' = c
      · simp [Params.at, vector_get_set, hc, hvalues, getD_set (l := (p.motors.get c).values) i.isLt, Fin.ext_iff]
      · simp [Params.at, vector_get_set, hc]
    | coach | room | jack => simp [Params.at]
  | jack c i =>
    obtain ⟨x, hput, hvalues⟩ := put_jack p v c i
    simp only [ParamPlace.id, ParamPlace.subject, hput]
    cases q' with
    | jack c' j =>
      by_cases hc : c' = c
      · simp [Params.at, vector_get_set, hc, hvalues, getD_set (l := (p.jacks.get c).values) i.isLt, Fin.ext_iff]
      · simp [Params.at, vector_get_set, hc]
    | coach | room | motor => simp [Params.at]

/-! ## The table (TABLE 12-3) -/

/-- The ids of a scope. -/
def Scope.holds : Scope → Nat → Bool
  | .coach, id => decide (1 ≤ id ∧ id < 28)
  | .room, id => decide (32 ≤ id ∧ id < 35)
  | .motor, id => decide (40 ≤ id ∧ id < 52)
  | .jack, id => decide (56 ≤ id ∧ id < 62)

/-- What the proofs need of a row: its scope has the id, its range is one, and a record can keep what the range holds. -/
structure ParamRow.Sound (id : Nat) (row : ParamRow) : Prop where
  scope : row.scope.holds id = true
  range : row.lo ≤ row.hi
  counts : id = 57 ∨ id = 58 ∨ 0 ≤ row.lo
  flags : id ∈ [10, 19, 20, 25] → row = enumRow [0, 1]

theorem row_sound {id : Nat} {row : ParamRow} (hr : paramRow id = some row) : row.Sound id := by
  by_cases hid : id < 62
  · have hall : ∀ k < 62, ∀ r ∈ paramRow k, r.scope.holds k = true ∧ r.lo ≤ r.hi ∧ (k = 57 ∨ k = 58 ∨ 0 ≤ r.lo) ∧
        (k ∈ [10, 19, 20, 25] → r = enumRow [0, 1]) := by decide
    obtain ⟨hscope, hrange, hcounts, hflags⟩ := hall id hid row hr
    exact ⟨hscope, hrange, hcounts, hflags⟩
  · obtain ⟨k, rfl⟩ := Nat.exists_eq_add_of_le' (not_lt.mp hid)
    cases hr

/-- The subjects of a scope. -/
def Scope.Takes (sj : Subject) : Scope → Prop
  | .coach => sj = .coach
  | .room => ∃ r, sj = .room r
  | .motor | .jack => ∃ c, sj = .chan c

theorem takes_of_paramSubject {s : State} {scope : Scope} {b : Byte} {sj : Subject} (h : s.paramSubject scope b = some sj) :
    scope.Takes sj := by
  unfold State.paramSubject at h
  split at h
  · cases h
    rfl
  · split at h <;> cases h
    exact ⟨_, rfl⟩
  · split at h <;> cases h
    exact ⟨_, rfl⟩
  · split at h <;> cases h
    exact ⟨_, rfl⟩
  · cases h

theorem place_of_scope {scope : Scope} {id : Nat} {sj : Subject} (hid : scope.holds id = true) (hsj : scope.Takes sj) :
    ∃ q : ParamPlace, q.id = id ∧ q.subject = sj := by
  cases scope with
  | coach =>
    obtain ⟨hlo, hhi⟩ := of_decide_eq_true hid
    cases hsj
    exact ⟨.coach ⟨id - 1, by omega⟩, Nat.add_sub_cancel' hlo, rfl⟩
  | room =>
    obtain ⟨hlo, hhi⟩ := of_decide_eq_true hid
    obtain ⟨r, rfl⟩ := hsj
    exact ⟨.room r ⟨id - 32, by omega⟩, Nat.add_sub_cancel' hlo, rfl⟩
  | motor =>
    obtain ⟨hlo, hhi⟩ := of_decide_eq_true hid
    obtain ⟨c, rfl⟩ := hsj
    exact ⟨.motor c ⟨id - 40, by omega⟩, Nat.add_sub_cancel' hlo, rfl⟩
  | jack =>
    obtain ⟨hlo, hhi⟩ := of_decide_eq_true hid
    obtain ⟨c, rfl⟩ := hsj
    exact ⟨.jack c ⟨id - 56, by omega⟩, Nat.add_sub_cancel' hlo, rfl⟩

/-- The place of an id and a subject, where the id has a row that takes the subject. -/
theorem place_of_row {s : State} {id : Nat} {row : ParamRow} {b : Byte} {sj : Subject} (hr : paramRow id = some row)
    (hs : s.paramSubject row.scope b = some sj) : ∃ q : ParamPlace, q.id = id ∧ q.subject = sj :=
  place_of_scope (row_sound hr).scope (takes_of_paramSubject hs)

/-! ## The value that is stored (R185) -/

theorem ofInt_toInt (value : BitVec 32) : BitVec.ofInt 13 value.toInt = value.setWidth 13 := by
  apply BitVec.eq_of_toNat_eq
  simp only [BitVec.toNat_ofInt, BitVec.toNat_setWidth, BitVec.toInt_eq_toNat_cond]
  omega

theorem lor_one (n : Nat) : n ||| 1 = n / 2 * 2 + 1 := by
  refine Nat.eq_of_testBit_eq fun i => ?_
  cases i with
  | zero => simp
  | succ i =>
    have hhalf : (n / 2 * 2 + 1) / 2 = n / 2 := by omega
    rw [Nat.testBit_succ, Nat.testBit_succ, hhalf, Nat.or_div_two]
    simp

/-- The notice mask as stored: the 13 enables of the value, RESTARTED's set (R176). -/
theorem storedMask_toNat (value : BitVec 32) : (BitVec.ofInt 13 value.toInt ||| 1#13).toNat = value.toNat % 8192 / 2 * 2 + 1 := by
  rw [ofInt_toInt, BitVec.toNat_or, BitVec.toNat_setWidth]
  exact lor_one _

theorem clampInt_lo {lo hi : Int} (h : lo ≤ hi) (v : Int) : lo ≤ clampInt lo hi v := by
  unfold clampInt
  split
  · exact le_rfl
  · split <;> omega

theorem keptValue_count {id : Nat} (h : id ∉ [10, 19, 20, 25, 27, 57, 58]) (v : Int) : keptValue id v = v.toNat := by
  unfold keptValue
  split
  iterate 7 exact absurd (by decide) h
  rfl

/-- A record can keep what is stored. -/
theorem keptValue_stored {id : Nat} {row : ParamRow} {v : Int} (hr : paramRow id = some row)
    (hv : row.values = [] ∨ v ∈ row.values) :
    keptValue id (storedValue id row v) = storedValue id row v := by
  obtain ⟨-, hrange, hcounts, hflags⟩ := row_sound hr
  by_cases hmask : id = 27
  · subst hmask
    have hagain : BitVec.ofNat 13 (BitVec.ofInt 13 v ||| 1#13).toNat ||| 1#13 = BitVec.ofInt 13 v ||| 1#13 := by
      rw [BitVec.ofNat_toNat, BitVec.setWidth_eq, BitVec.or_assoc, BitVec.or_self]
    show (((BitVec.ofNat 13 (BitVec.ofInt 13 v ||| 1#13).toNat ||| 1#13).toNat : Nat) : Int) = _
    rw [hagain]
    rfl
  by_cases hflag : id ∈ [10, 19, 20, 25]
  · obtain rfl := hflags hflag
    have hbit : v = 0 ∨ v = 1 := by simpa [enumRow] using hv
    have hall : ∀ k ∈ [10, 19, 20, 25], ∀ b ∈ [(0 : Int), 1],
        keptValue k (storedValue k (enumRow [0, 1]) b) = storedValue k (enumRow [0, 1]) b := by
      decide
    exact hall id hflag v (by simpa using hbit)
  rcases hcounts with rfl | rfl | hlo
  · rfl
  · rfl
  · by_cases hsigned : id = 57 ∨ id = 58
    · rcases hsigned with rfl | rfl <;> rfl
    · have hpos : 0 ≤ storedValue id row v := by
        have hclamp := hlo.trans (clampInt_lo hrange v)
        unfold storedValue
        simp only [if_neg hmask]
        split <;> omega
      have hcount : id ∉ [10, 19, 20, 25, 27, 57, 58] := by
        simp only [List.mem_cons, List.not_mem_nil, or_false, not_or] at hflag hsigned ⊢
        omega
      rw [keptValue_count hcount, Int.toNat_of_nonneg hpos]

/-! ## What a stored parameter moves -/

section
variable {s : State} {id : Nat} {row : ParamRow} {b : Byte} {sj : Subject} {v : Int} (hr : paramRow id = some row)
  (hs : s.paramSubject row.scope b = some sj) (hv : row.values = [] ∨ v ∈ row.values)
include hr hs hv

theorem get_put_same (p : Params) : (p.put id sj (storedValue id row v)).get id sj = storedValue id row v := by
  have hkept := keptValue_stored hr hv
  obtain ⟨q, rfl, rfl⟩ := place_of_row hr hs
  rw [get_place, at_put, if_pos rfl, hkept]

omit hv in
theorem get_put_other {id' : Nat} {row' : ParamRow} {b' : Byte} {sj' : Subject} (hr' : paramRow id' = some row')
    (hs' : s.paramSubject row'.scope b' = some sj') (hne : (id', sj') ≠ (id, sj)) (p : Params) (w : Int) :
    (p.put id sj w).get id' sj' = p.get id' sj' := by
  obtain ⟨q, rfl, rfl⟩ := place_of_row hr hs
  obtain ⟨q', rfl, rfl⟩ := place_of_row hr' hs'
  rw [get_place, get_place, at_put, if_neg (by rintro rfl; exact hne rfl)]
end

end Sys2Proof.Machine
end

section
/-! SUPPORT. PARAM_SET and what a stored value does at once (R65, R79, R81, R82, R185). -/

namespace Sys2Proof.Machine

/-! ## The request -/

/-- The state with another running set. -/
def State.withParams (s : State) (p : Params) : State := { s with sst := { s.sst with params := p } }

theorem serveParamSet_stores {s : State} {id subject : Byte} {value : BitVec 32} {row : ParamRow} {sj : Subject} {w : Int}
    (h : s.sst.phase = .run) (hc : s.sst.commit = none) (hr : paramRow id.toNat = some row)
    (hv : row.values = [] ∨ value.toInt ∈ row.values) (hs : s.paramSubject row.scope subject = some sj)
    (hb : s.paramBusy id.toNat sj = false) (hw : storedValue id.toNat row value.toInt = w) :
    serveParamSet s id subject value =
      { st := s.withParams (s.sst.params.put id.toNat sj w)
        reply := (if w = value.toInt then 0 else 1) :: i32 w
        acts := storeActs s (s.withParams (s.sst.params.put id.toNat sj w)) id.toNat } := by
  have hvalues : ¬(row.values.length ≠ 0 ∧ value.toInt ∉ row.values) :=
    fun k => hv.elim (fun e => k.1 (by simp [e])) k.2
  have hreply : u8 (if w = value.toInt then Result.ok else Result.okClamped).code = [if w = value.toInt then 0 else 1] := by
    split <;> rfl
  unfold serveParamSet
  rw [if_neg (not_not.mpr h), hr]
  simp only []
  rw [if_neg hvalues, hs]
  refine (if_neg (by simp [hc])).trans ((if_neg (by simp [hb])).trans ?_)
  rw [hw, hreply]
  rfl

theorem paramBusy_resting {s : State} (hs : Resting s) {id : Nat} (hc : id = 11 ∨ id = 12 → s.atu.capture = none) (sj : Subject) :
    s.paramBusy id sj = false := by
  have hidle (u : UnitId) : (s.unit u).state = .idle := by rw [hs.units]; rfl
  have hcoach : (if id = 9 ∨ id = 10 then decide ((s.unit .jacks).state ≠ .idle)
      else if id = 11 ∨ id = 12 then decide (s.lvs.seq.state ≠ .idle) || s.atu.capture.isSome
      else if id = 13 ∨ id = 14 ∨ id = 16 ∨ id = 17 ∨ id = 18 then decide (s.lvs.seq.state ≠ .idle)
      else if id = 21 then decide (s.ciu.stow.state ≠ .idle)
      else if id = 23 ∨ id = 24 ∨ id = 25 ∨ id = 26 then decide (s.wgd.state ≠ .armed)
      else false) = false := by
    simp only [hidle, hs.level, hs.stow, hs.guard, ne_eq, not_true_eq_false, decide_false, Bool.false_or, ite_self]
    split
    · rfl
    · split
      · next htilt => rw [hc htilt]; rfl
      · rfl
  cases sj with
  | chan c => simp [State.paramBusy, hidle]
  | room r => simp [State.paramBusy, hidle]
  | coach | node | unit => exact hcoach

/-! ## What a stored value does at once -/

/-- The ids of the tilt parameters (R81). -/
def tiltId (id : Nat) : Bool := decide (id = 11 ∨ id = 12 ∨ id = 13 ∨ id = 14)

/-- The attitude after a changed tilt parameter (R81, R82). -/
def State.attApplied (s : State) : Atu := (actAttApply s).st.atu

theorem actAttApply_eq (s : State) : actAttApply s = .done { s with atu := s.attApplied } := by
  unfold State.attApplied actAttApply
  simp only []
  split <;> rfl

theorem attApplied_invalid {s : State} (h : s.atu.record.state = .invalid) : s.attApplied = s.atu := by
  rw [State.attApplied, actAttApply]
  simp only [h, if_true, Out.done]

/-- Before the first sample only the histories go (R82). -/
theorem attApplied_unsampled {s : State} (h : s.atu.record.state ≠ .invalid) (hx : s.atu.record.rawX = 0)
    (hy : s.atu.record.rawY = 0) :
    s.attApplied = { s.atu with record := { s.atu.record with state := .unsettled, histP := [], histR := [] } } := by
  have hsampled : s.atu.record.sampled = false := by simp [Attitude.sampled, hx, hy]
  rw [State.attApplied, actAttApply]
  simp only [if_neg h, hsampled, Bool.false_eq_true, if_false, Out.done]

theorem clampTilt_eq (v : Int) : clampTilt v = max (-1500) (min 1500 v) := by
  unfold clampTilt clampInt
  split
  · omega
  · split <;> omega

/-- The attitude is recomputed from the raw averages held (R79, R81). -/
theorem attApplied_sampled {s : State} (h : s.atu.record.state ≠ .invalid)
    (hraw : s.atu.record.rawX ≠ 0 ∨ s.atu.record.rawY ≠ 0) :
    let axis := fun avg offset gain : Nat => roundDiv (((avg : Int) - offset) * gain) 4096
    let limited := fun v : Int => max (-1500) (min 1500 v)
    let pitch := axis s.atu.record.rawX s.par.tiltOffsetX s.par.tiltGainX
    let roll := axis s.atu.record.rawY s.par.tiltOffsetY s.par.tiltGainY
    s.attApplied = { s.atu with record := { s.atu.record with
      state := .unsettled, pitch := limited pitch, roll := limited roll
      clamped := decide (limited pitch ≠ pitch ∨ limited roll ≠ roll), histP := [], histR := [] } } := by
  have hsampled : s.atu.record.sampled = true := by
    rw [Attitude.sampled, decide_eq_false fun k => hraw.elim (· k.1) (· k.2)]
    rfl
  rw [State.attApplied, actAttApply]
  simp only [if_neg h, hsampled, if_true, corrected, clampTilt_eq, tilt, Out.done]

/-- The state after what a stored value does at once: B follows its two parameters, the attitude a changed tilt parameter. -/
def State.atOnce (s : State) (id : Nat) (changed : Bool) : State :=
  { s with
    sgu := { s.sgu with budget := if id = 7 ∨ id = 8 then s.budgetRule else s.sgu.budget }
    atu := if tiltId id = true ∧ changed = true then s.attApplied else s.atu }

/-- Where nothing works, nothing else follows: a failed slide permit ends no motion. -/
theorem does_storeActs {s t u : State} (id : Nat) (hq : u.sgu.queue = []) (hg : u.sgu.grants = [])
    (hm : ∀ c, (u.chan c).motion = none) :
    ∃ x, Does 3 x (storeActs s t id) u (u.atOnce id (decide (t.sst.params ≠ s.sst.params))) := by
  unfold storeActs
  by_cases hbudget : id = 7 ∨ id = 8
  · have htilt : tiltId id = false := decide_eq_false (by omega)
    obtain ⟨x, hd⟩ := does_budget_fits (s := u) hq (by simp [hg, heldSum])
    have hat : u.atOnce id (decide (t.sst.params ≠ s.sst.params)) = u.withBudget u.budgetRule := by
      simp [State.atOnce, hbudget, htilt, State.withBudget]
    rw [if_pos hbudget, hat]
    exact ⟨x, does_mono hd (by omega)⟩
  rw [if_neg hbudget]
  by_cases hslides : id = 19
  · have hat : u.atOnce id (decide (t.sst.params ≠ s.sst.params)) = u := by
      simp [State.atOnce, hslides, tiltId]
    have hfail : Does 3 false [.termFail true false] u u := by
      have hnone : Does 1 false [.endUnits []] u u := does_endUnits_idle fun e he => absurd he List.not_mem_nil
      exact does_mono (does_act (by simp) (termFail_no_motion true false hm) hnone) (by omega)
    rw [if_pos hslides, hat]
    split
    · exact ⟨false, hfail⟩
    · exact ⟨false, does_mono (does_nil u) (by omega)⟩
  rw [if_neg hslides]
  split
  · next htilt =>
    have hat : u.atOnce id (decide (t.sst.params ≠ s.sst.params)) = { u with atu := u.attApplied } := by
      simp [State.atOnce, hbudget, tiltId, htilt.1, htilt.2]
    rw [hat]
    exact ⟨false, does_mono (does_act (by simp) (actAttApply_eq u) (does_nil _)) (by omega)⟩
  · next htilt =>
    have hat : u.atOnce id (decide (t.sst.params ≠ s.sst.params)) = u := by
      have hno : ¬(tiltId id = true ∧ decide (t.sst.params ≠ s.sst.params) = true) := by
        simpa only [tiltId, decide_eq_true_eq] using htilt
      rw [State.atOnce, if_neg hbudget, if_neg hno]
    rw [hat]
    exact ⟨false, does_mono (does_nil u) (by omega)⟩

/-- The state after PARAM_SET: the set, the reply, and what the stored value does at once. -/
def State.paramDone (s : State) (p : Params) (f : Frame) (id : Nat) (changed : Bool) : State :=
  { s with
    sst := { s.sst with params := p }
    pli := { s.pli.heard s.sst.phase s.frame with slot := some f }
    sgu := { s.sgu with budget := if id = 7 ∨ id = 8 then (s.withParams p).budgetRule else s.sgu.budget }
    atu := if tiltId id = true ∧ changed = true then (s.withParams p).attApplied else s.atu }

theorem attApplied_replied (s : State) (p : Params) (f : Frame) :
    ((s.heard.withParams p).replied f).attApplied = (s.withParams p).attApplied := by
  have hatu : ((s.heard.withParams p).replied f).atu = (s.withParams p).atu := rfl
  have hpar : ((s.heard.withParams p).replied f).par = (s.withParams p).par := rfl
  unfold State.attApplied actAttApply
  simp only [hatu, hpar]
  split
  · exact hatu
  · simp only [Out.done]

theorem atOnce_replied (s : State) (p : Params) (f : Frame) (id : Nat) (changed : Bool) :
    ((s.heard.withParams p).replied f).atOnce id changed = s.paramDone p f id changed := by
  rw [State.atOnce, attApplied_replied]
  rfl

/-- PARAM_SET of a part at rest. -/
theorem exec_paramSet {s : State} {tag id subject : Byte} {value : BitVec 32} {row : ParamRow} {sj : Subject} {w : Int}
    (hs : Resting s) (hh : Hears s) (hp : s.sst.phase = .run) (hc : s.sst.commit = none) (hr : paramRow id.toNat = some row)
    (hsj : s.paramSubject row.scope subject = some sj) (hcap : id.toNat = 11 ∨ id.toNat = 12 → s.atu.capture = none)
    (hv : row.values = [] ∨ value.toInt ∈ row.values) (hw : storedValue id.toNat row value.toInt = w) {p : Params}
    (hput : s.sst.params.put id.toNat sj w = p) :
    exec (.paramSet tag id subject value) s = .next (finish (s.paramDone p
      (replyTo 0x0F tag ((if w = value.toInt then 0 else 1) :: i32 w)) id.toNat (decide (p ≠ s.sst.params)))) := by
  have hbusy : s.heard.paramBusy id.toNat sj = false := paramBusy_resting hs hcap sj
  have hserve := (congrArg (serve · s.heard) (congrArg (Instr.paramSet tag id subject) (be32_bytes32 value))).trans
    (serveParamSet_stores (s := s.heard) hp hc hr hv hsj hbusy hw)
  rw [show s.heard.sst.params.put id.toNat sj w = p from hput] at hserve
  generalize hreply : ((if w = value.toInt then 0 else 1) :: i32 w : List Byte) = reply at hserve
  obtain ⟨x, hd⟩ := does_storeActs (s := s.heard) (t := s.heard.withParams p)
    (u := (s.heard.withParams p).replied (replyTo 0x0F tag reply)) id.toNat hs.queue hs.grants hs.motions
  rw [atOnce_replied] at hd
  have hstill (f : Frame) (changed : Bool) : Still (s.paramDone p f id.toNat changed) := still_of_resting hs rfl hs.motions
  have hparked (f : Frame) (changed : Bool) : Parked (s.paramDone p f id.toNat changed) := ⟨hs.parked.park, hs.parked.alarm⟩
  exact exec_does (m := 3) hh hs.running rfl rfl hserve hd (by omega) (hstill _ _) (hparked _ _) fun _ => hs.queue

/-! ## What is stored -/

/-- A tilt parameter put back where it was changes nothing. -/
theorem put_get_tilt {id : Nat} (h : tiltId id = true) (p : Params) (sj : Subject) : p.put id sj (p.get id sj) = p := by
  rcases of_decide_eq_true h with rfl | rfl | rfl | rfl <;> rfl

/-- The enables after PARAM_SET (R176). -/
theorem noticeMask_put {s : State} {id : Nat} {row : ParamRow} {b : Byte} {sj : Subject} {value : BitVec 32}
    (hr : paramRow id = some row) (hs : s.paramSubject row.scope b = some sj) (p : Params) {k : Nat} (hk : k < 13) :
    (p.put id sj (storedValue id row value.toInt)).coach.noticeMask.getLsbD k =
      if id = 27 then decide (k = 0) || value.getLsbD k else p.coach.noticeMask.getLsbD k := by
  by_cases hid : id = 27
  · subst hid
    have hmask : (p.put 27 sj (storedValue 27 row value.toInt)).coach.noticeMask = value.setWidth 13 ||| 1#13 := by
      rw [← ofInt_toInt]
      show BitVec.ofNat 13 (BitVec.ofInt 13 value.toInt ||| 1#13).toNat ||| 1#13 = _
      rw [BitVec.ofNat_toNat, BitVec.setWidth_eq, BitVec.or_assoc, BitVec.or_self]
    rw [hmask, if_pos rfl, BitVec.getLsbD_or, BitVec.getLsbD_setWidth, Bool.or_comm]
    simp [hk]
  · have hother := get_put_other hr hs (id' := 27) (row' := rangeRow .coach 0 0x1FFF) (b' := 0) (sj' := .coach) rfl rfl
      (fun e => hid (congrArg Prod.fst e).symm) p (storedValue id row value.toInt)
    have hmask : (p.put id sj (storedValue id row value.toInt)).coach.noticeMask = p.coach.noticeMask :=
      BitVec.eq_of_toNat_eq (Int.ofNat.inj hother)
    rw [hmask, if_neg hid]

theorem byte_eq_iff {b : Byte} {n : Nat} (hn : n < 256) : b = BitVec.ofNat 8 n ↔ b.toNat = n := by
  rw [BitVec.toNat_eq, BitVec.toNat_ofNat, Nat.mod_eq_of_lt hn]

/-- The stored value, as the rule writes it (R185). -/
theorem storedValue_eq (id : Byte) (row : ParamRow) (value : BitVec 32) :
    let clamped := if value.toInt < row.lo then row.lo else if row.hi < value.toInt then row.hi else value.toInt
    storedValue id.toNat row value.toInt =
      if id = 27 then ((value.toNat % 8192 / 2 * 2 + 1 : Nat) : Int) else if row.step5 then clamped - clamped % 5 else clamped := by
  have hid : id = 27 ↔ id.toNat = 27 := byte_eq_iff (by decide)
  intro clamped
  by_cases h : id = 27
  · rw [storedValue, if_pos (hid.mp h), if_pos h, storedMask_toNat]
  · rw [storedValue, if_neg fun k => h (hid.mpr k), if_neg h]
    rfl

end Sys2Proof.Machine

namespace Sys2Proof

open Machine

/-- Settles O45: the request is served (`exec_paramSet`), one place of the set moves (`at_put`), and B or the attitude follows
(`State.atOnce`). -/
theorem paramSetStores : Obligations.ParamSetStores := by
  intro tag id subject value row sj s hs hh hp hc hr hsj hcap hv v clamped stored
  have hid {n : Nat} (hn : n < 256) : id = BitVec.ofNat 8 n ↔ id.toNat = n := byte_eq_iff hn
  have h7 : id = 7 ∨ id = 8 ↔ id.toNat = 7 ∨ id.toNat = 8 := or_congr (hid (by decide)) (hid (by decide))
  have h11 : id = 11 ∨ id = 12 ↔ id.toNat = 11 ∨ id.toNat = 12 := or_congr (hid (by decide)) (hid (by decide))
  have h27 : id = 27 ↔ id.toNat = 27 := hid (by decide)
  have htilt : (id = 11 ∨ id = 12 ∨ id = 13 ∨ id = 14) ↔ tiltId id.toNat = true :=
    (or_congr (hid (by decide)) (or_congr (hid (by decide)) (or_congr (hid (by decide)) (hid (by decide))))).trans
      decide_eq_true_iff.symm
  have hstored : storedValue id.toNat row value.toInt = stored := storedValue_eq id row value
  have hexec := exec_paramSet (tag := tag) hs hh hp hc hr hsj (hcap ∘ h11.mpr) hv hstored rfl
  have hget := get_put_same hr hsj hv s.sst.params
  have hmask {k : Nat} := noticeMask_put (value := value) hr hsj s.sst.params (k := k)
  have hother {id' : Nat} {row' : ParamRow} {b' : Byte} {sj' : Subject} (hr' : paramRow id' = some row')
      (hs' : s.paramSubject row'.scope b' = some sj') (hne : (id', sj') ≠ (id.toNat, sj)) :=
    get_put_other hr hsj hr' hs' hne s.sst.params stored
  have hunchanged := fun h => put_get_tilt (id := id.toNat) h s.sst.params sj
  rw [hstored] at hget
  simp only [hstored] at hmask
  generalize stored = w at hexec hget hmask hother hunchanged ⊢
  have hstands (h : tiltId id.toNat = true) : s.sst.params.get id.toNat sj = w ↔ s.sst.params.put id.toNat sj w = s.sst.params :=
    ⟨fun e => e ▸ hunchanged h, fun e => e ▸ hget⟩
  generalize s.sst.params.put id.toNat sj w = p at hexec hget hmask hother hstands
  refine ⟨_, hexec, hget, fun id' sj' row' hr' hs' hne => hother hr' hs' hne, ?_, rfl, rfl, fun _ => rfl, fun _ => rfl,
    rfl, rfl, rfl, rfl, rfl, nodesStand_finish rfl, ⟨rfl, rfl, rfl⟩, rfl, ?_, fun k hk => ?_, fun hno => ?_, fun hsame => ?_,
    fun hchange hvalid hids => ⟨fun hraw => ?_, fun hx hy => ?_⟩⟩
  · rw [finish_pli, transmitted_slot]
    rfl
  · simp only [h7]
    rfl
  · simp only [h27]
    exact hmask hk
  · have hnone : tiltId id.toNat ≠ true := fun h => by
      obtain ⟨h11, h12, h13, h14⟩ := hno
      rcases htilt.mpr h with h | h | h | h <;> contradiction
    exact if_neg fun h => hnone h.1
  · refine ite_eq_right_iff.mpr fun h => ?_
    rcases hsame with hsame | hinvalid
    · exact absurd ((hstands h.1).mp hsame) (of_decide_eq_true h.2)
    · exact attApplied_invalid (s := s.withParams p) hinvalid
  · have hmoved : p ≠ s.sst.params := fun h => hchange ((hstands (htilt.mp hids)).mpr h)
    exact (if_pos ⟨htilt.mp hids, decide_eq_true hmoved⟩).trans (attApplied_sampled (s := s.withParams p) hvalid hraw)
  · have hmoved : p ≠ s.sst.params := fun h => hchange ((hstands (htilt.mp hids)).mpr h)
    exact (if_pos ⟨htilt.mp hids, decide_eq_true hmoved⟩).trans (attApplied_unsampled (s := s.withParams p) hvalid hx hy)

end Sys2Proof
end

section
/-! SUPPORT. COMMIT, RESET and REFERENCE (R85, R187, R189), and the settings no line depends on. -/

namespace Sys2Proof.Machine

/-- No line depends on a coach parameter or on a commit. -/
theorem quiet_settings {s : State} (h : Quiet s) (p : CoachParams) (k : Option Commit) :
    Quiet { s with sst := { s.sst with params := { s.sst.params with coach := p }, commit := k } } :=
  ⟨h.running, ⟨h.lines.skew, h.lines.pump, h.lines.travel, h.lines.images⟩, ⟨h.still.exposed, h.still.jacks⟩⟩

/-- No line depends on the Attitude Unit. -/
theorem quiet_atu {s : State} (h : Quiet s) (a : Atu) : Quiet { s with atu := a } :=
  quiet_blocks h rfl rfl rfl rfl rfl h.still.exposed rfl rfl

theorem serveCommit_starts {s : State} (h : s.sst.phase = .run) (hc : s.sst.commit = none) :
    serveCommit s = answer { s with sst := { s.sst with
      commit := some { copy := s.sst.params, layout := s.sst.layoutCode, start := s.frame } } } (codeReply .ok) := by
  simp [serveCommit, h, hc]

theorem serveReference_starts {s : State} (h : s.sst.phase = .run) (hc : s.atu.capture = none) (hl : s.lvs.seq.state = .idle)
    (hi : s.atu.record.state ≠ .invalid) :
    serveReference s = answer { s with atu := { s.atu with capture := some s.newCapture } } (codeReply .ok) := by
  simp [serveReference, h, hc, hl, hi]

/-- The silence timer and the RESET that waits are apart (R178, R189). -/
theorem heard_resetPending (s : State) : ({ s.heard with pli := { s.heard.pli with resetPending := true } } : State) =
    ({ s with pli := { s.pli with resetPending := true } } : State).heard := by
  unfold State.heard Pli.heard
  split <;> rfl

end Sys2Proof.Machine

namespace Sys2Proof

open Machine

/-- Settles O46: each of the three is answered in its event, with the record it starts. -/
theorem commitResetAndReferenceStart : Obligations.CommitResetAndReferenceStart := by
  intro tag s hq hh
  refine ⟨fun hp hc => ?commit, ?reset, fun hp hc hl hi => ?reference⟩
  case commit =>
    exact exec_answers hh hq.running (quiet_settings hq s.sst.params.coach _) rfl rfl rfl (serveCommit_starts (s := s.heard) hp hc)
  case reset =>
    exact exec_answers (j := .reset tag) hh hq.running (quiet_pli hq _) rfl rfl rfl
      (congrArg (answer · (codeReply .ok)) (heard_resetPending s))
  case reference =>
    exact exec_answers hh hq.running (quiet_atu hq _) rfl rfl rfl (serveReference_starts (s := s.heard) hp hc hl hi)

end Sys2Proof
end

section
/-! SUPPORT. The attitude sample of a complete block (R77, R78, R79, R82, R83), and its event in a part whose level sequence is IDLE. -/

namespace Sys2Proof.Machine

/-! ## The record after a sample -/

/-- The record after a valid sample, its clamps written out (R79, R82). -/
theorem validSample_eq (a : Attitude) (p : CoachParams) (x y : Nat) :
    let axis := fun avg offset gain : Nat => roundDiv (((avg : Int) - offset) * gain) 4096
    let limited := fun v : Int => max (-1500) (min 1500 v)
    let pitch := axis x p.tiltOffsetX p.tiltGainX
    let roll := axis y p.tiltOffsetY p.tiltGainY
    let newest := fun (h : List Int) (v : Int) => (if h.length < 8 then h else h.drop 1) ++ [limited v]
    a.validSample p x y =
      { state := settled (newest a.histP pitch) (newest a.histR roll) p.settleBand, pitch := limited pitch, roll := limited roll
        clamped := decide (limited pitch ≠ pitch ∨ limited roll ≠ roll), rawX := x, rawY := y
        histP := newest a.histP pitch, histR := newest a.histR roll } := by
  simp only [Attitude.validSample, corrected, clampTilt_eq, tilt, pushValue]

/-- One value is no settled history (R83). -/
theorem settled_one (v w : Int) (band : Nat) : settled [v] [w] band = .unsettled := if_neg fun h => absurd h.1 (by simp)

/-! ## The sample -/

/-- The block is taken: the accumulators are empty, and the record is another (R77). -/
def State.taken (s : State) (r : Attitude) : State :=
  { s with atu := { s.atu with accX := 0, accY := 0, blockCount := 0, record := r } }

section
variable {s : State} (hb : 16 ≤ s.atu.blockCount)
include hb

/-- A valid sample without a capture: what it hands on (R78, R97, R167). -/
theorem attitudeSample_valid (hv : sampleValid (blockAverage s.atu.accX) (blockAverage s.atu.accY) = true) (hc : s.atu.capture = none) :
    s.attitudeSample =
      { st := s.taken (s.atu.record.validSample s.par (blockAverage s.atu.accX) (blockAverage s.atu.accY))
        acts := (if s.atu.record.state = .invalid then [.gone .tiltRange .coach] else []) ++ [.lvsSample] } := by
  unfold State.attitudeSample
  simp only [if_neg (Nat.not_lt.mpr hb), hv, if_true]
  split
  · next h => exact absurd (hc.symm.trans h) nofun
  · rfl

/-- A valid sample that a capture takes (R85). -/
theorem attitudeSample_captured (hv : sampleValid (blockAverage s.atu.accX) (blockAverage s.atu.accY) = true) {c : Capture}
    (hc : s.atu.capture = some c) (hi : s.atu.record.state ≠ .invalid) {t : State}
    (ht : (s.taken (s.atu.record.validSample s.par (blockAverage s.atu.accX) (blockAverage s.atu.accY))).captureSample c
      (blockAverage s.atu.accX) (blockAverage s.atu.accY) = .done t) : s.attitudeSample = { st := t, acts := [.lvsSample] } := by
  unfold State.attitudeSample
  simp only [if_neg (Nat.not_lt.mpr hb), hv, if_true, hi, if_false]
  split
  · next d h =>
    obtain rfl : c = d := Option.some.inj (hc.symm.trans h)
    exact congrArg (fun o : Out => ({ st := o.st, acts := o.acts ++ [] ++ [.lvsSample] } : Out)) ht
  · next h => exact absurd (hc.symm.trans h) nofun

/-- An invalid sample without a capture: what it hands on (R78, R109). -/
theorem attitudeSample_invalid (hv : sampleValid (blockAverage s.atu.accX) (blockAverage s.atu.accY) = false)
    (hc : s.atu.capture = none) : s.attitudeSample =
      { st := s.taken (s.atu.record.invalidSample (blockAverage s.atu.accX) (blockAverage s.atu.accY))
        acts := (if s.atu.record.state = .invalid then [] else [.raise .tiltRange .coach]) ++
          [.lvsEnd .failed (.fault .tiltRange) none] } := by
  unfold State.attitudeSample
  simp only [if_neg (Nat.not_lt.mpr hb), hv, Bool.false_eq_true, if_false]
  split
  · next h => exact absurd (hc.symm.trans h) nofun
  · rfl
end

/-- An IDLE sequence takes no sample (R97). -/
theorem does_lvsSample_idle {s : State} (h : s.lvs.seq.state = .idle) : Does 1 false [.lvsSample] s s := by
  refine does_done (by simp) ?_ (does_nil _)
  show actLvsSample s = _
  unfold actLvsSample
  simp only [h, reduceCtorEq, if_false]
  rfl

@[simp] theorem lifted_lvs (s : State) (k : FaultKind) (sj : Subject) : (s.lifted k sj).lvs = s.lvs := by
  obtain ⟨f, p, heq, -⟩ := lifted_eq s k sj
  rw [heq]

/-- A part at rest but for one condition other than AWNING_EXPOSED is still. -/
theorem still_of_restingBut {s : State} {k : FaultKind} {sj : Subject} (h : s.RestingBut k sj) (hk : k ≠ .awningExposed) : Still s :=
  still_of_rest (atRest_of_restingBut h hk).unexposed h.rest.motions

end Sys2Proof.Machine

namespace Sys2Proof

open Machine

/-- Settles O21: an invalid sample raises TILT_RANGE where the record was not INVALID, and the first valid one ends it; with no work
and an IDLE sequence nothing else follows. -/
theorem invalidSampleRaisesTiltRange : Obligations.InvalidSampleRaisesTiltRange := by
  intro s hb hc x y sampled becomes valid invalid
  have hvalid : sampleValid (blockAverage s.atu.accX) (blockAverage s.atu.accY) = decide valid := rfl
  refine ⟨fun hs hi hv => ?raised, fun hs hi => ⟨fun hv => ?again, fun hv hp hr => ?valid⟩⟩
  case raised =>
    have hsample := attitudeSample_invalid hb (hvalid.trans (decide_eq_false hv)) hc
    rw [if_neg hi] at hsample
    have hstill : Still invalid := still_of_resting hs rfl hs.motions
    have hparked : Parked invalid := ⟨hs.parked.park, hs.parked.alarm⟩
    have hidle (u : UnitId) : (invalid.unit u).state = .idle := congrArg UnitRec.state (hs.units u)
    have hd := does_append (does_raise_stop_idle (s := invalid) (k := .tiltRange) (sj := .coach) rfl hidle)
      (does_lvsEnd_idle (s := invalid.raised .tiltRange .coach) hs.level .failed (.fault .tiltRange) none)
    exact (congrArg (event s) hsample).trans
      (event_does hs.running hd (by omega) (still_raised hstill (by decide) _) (parked_raised hparked _ _) nofun)
  case again =>
    have hsample := attitudeSample_invalid hb (hvalid.trans (decide_eq_false hv)) hc
    rw [if_pos hi] at hsample
    have hstill := still_of_restingBut hs (by decide)
    have hd := does_lvsEnd_idle (s := invalid) hs.rest.level .failed (.fault .tiltRange) none
    exact (congrArg (event s) hsample).trans (event_does hs.rest.running hd (by omega) ⟨hstill.exposed, hstill.jacks⟩
      ⟨hs.rest.parked.park, hs.rest.parked.alarm⟩ nofun)
  case valid =>
    intro axis limited pitch roll
    have hsample := attitudeSample_valid hb (hvalid.trans (decide_eq_true hv)) hc
    rw [if_pos hi, validSample_eq, hp, hr] at hsample
    simp only [List.length_nil, Nat.ofNat_pos, if_true, List.nil_append, settled_one] at hsample
    have hstill := still_of_restingBut hs (by decide)
    obtain ⟨w, hw⟩ : ∃ w, w = sampled { s.atu.record with
      state := .unsettled, pitch := limited pitch, roll := limited roll
      clamped := decide (limited pitch ≠ pitch ∨ limited roll ≠ roll)
      histP := [limited pitch], histR := [limited roll] } := ⟨_, rfl⟩
    have hstill' : Still w := hw ▸ ⟨hstill.exposed, hstill.jacks⟩
    have hparked : Parked w := hw ▸ ⟨hs.rest.parked.park, hs.rest.parked.alarm⟩
    have hsingle : w.flt.single .tiltRange .coach := hw ▸ hs.single
    have hlevel : (w.lifted .tiltRange .coach).lvs.seq.state = .idle := by rw [lifted_lvs, hw]; exact hs.rest.level
    have hd : Does 2 false [.gone .tiltRange .coach, .lvsSample] w (w.lifted .tiltRange .coach) :=
      does_done (by simp) (actGone_lifted hsingle) (does_lvsSample_idle hlevel)
    subst hw
    exact (congrArg (event s) hsample).trans
      (event_does hs.rest.running hd (by omega) (still_lifted hstill' _ _) (parked_lifted hparked _ _) nofun)

end Sys2Proof
end

section
/-! SUPPORT. The arithmetic of the settle judgement (R83), of the pass plan (R99, R100) and of the response check (R103, R104). -/

namespace Sys2Proof.Machine

/-! ## The settle judgement (R83) -/

/-- The spread of a history is within a band when no two of its values are further apart. -/
theorem spread_le_iff {h : List Int} (hne : h ≠ []) (band : Int) : spread h ≤ band ↔ ∀ a ∈ h, ∀ b ∈ h, a - b ≤ band := by
  obtain ⟨v, l, rfl⟩ := List.exists_cons_of_ne_nil hne
  obtain ⟨hmax, hgreatest⟩ := List.max?_eq_some_iff.mp (List.max?_cons' (x := v) (xs := l))
  obtain ⟨hmin, hleast⟩ := List.min?_eq_some_iff.mp (List.min?_cons' (x := v) (xs := l))
  refine ⟨fun k a ha b hb => ?_, fun k => k _ hmax _ hmin⟩
  have hspread : l.foldl max v - l.foldl min v ≤ band := k
  have := hgreatest a ha
  have := hleast b hb
  omega

theorem settled_iff (hp hr : List Int) (band : Nat) : settled hp hr band = .settled ↔
    (hp.length = 8 ∧ ∀ a ∈ hp, ∀ b ∈ hp, a - b ≤ band) ∧ (hr.length = 8 ∧ ∀ a ∈ hr, ∀ b ∈ hr, a - b ≤ band) := by
  have hspread {h : List Int} (h8 : h.length = 8) := spread_le_iff (h := h) (List.ne_nil_of_length_eq_add_one h8) band
  unfold settled
  split
  · next h =>
    obtain ⟨hp8, hr8, hps, hrs⟩ := h
    exact iff_of_true rfl ⟨⟨hp8, (hspread hp8).mp hps⟩, hr8, (hspread hr8).mp hrs⟩
  · next h =>
    refine iff_of_false nofun fun ⟨⟨hp8, hps⟩, hr8, hrs⟩ => h ⟨hp8, hr8, (hspread hp8).mpr hps, (hspread hr8).mpr hrs⟩

/-- The judgement has two answers. -/
theorem settled_cases (hp hr : List Int) (band : Nat) : settled hp hr band = .settled ∨ settled hp hr band = .unsettled := by
  unfold settled
  split
  · exact .inl rfl
  · exact .inr rfl

/-! ## The pass plan (R99, R100) -/

/-- A jack is driven where its counts reach the deadband and its target lies above its position. -/
theorem settleLift_target (before height lift counts : Int) (deadband stroke : Nat) :
    (settleLift before height lift counts deadband stroke).target =
      if (deadband : Int) ≤ counts ∧ before < min (stroke : Int) (before + counts) then some (min (stroke : Int) (before + counts))
      else none := by
  have hmin : (if (decide ((stroke : Int) < before + counts)) = true then (stroke : Int) else before + counts) =
      min (stroke : Int) (before + counts) := by
    split
    · next h => exact (min_eq_left (le_of_lt (of_decide_eq_true h))).symm
    · next h => exact (min_eq_right (not_lt.mp (h ∘ decide_eq_true))).symm
  unfold settleLift
  split
  · next h => rw [if_neg fun k => absurd h (not_lt.mpr k.1)]
  · next h =>
    simp only [hmin, not_lt.mp h, true_and]
    split
    · next hle => rw [if_neg (not_lt.mpr hle)]
    · next hlt => rw [if_pos (not_le.mp hlt)]

/-- A target is clamped where the jack's counts reach the deadband and lead past its stroke. -/
theorem settleLift_clamped (before height lift counts : Int) (deadband stroke : Nat) :
    (settleLift before height lift counts deadband stroke).clamped =
      decide ((deadband : Int) ≤ counts ∧ (stroke : Int) < before + counts) := by
  unfold settleLift
  split
  · next h => exact (decide_eq_false fun k => absurd h (not_lt.mpr k.1)).symm
  · next h => exact decide_eq_decide.mpr (iff_and_self.mpr fun _ => not_lt.mp h)

/-- The height of a corner (R99). -/
def State.height (s : State) (p r : Int) (c : Fin 16) : Int := cornerHeight (s.jackPar c).jackX (s.jackPar c).jackY p r

/-- The highest corner (R99). -/
def State.topHeight (s : State) (p r : Int) : Int :=
  max (max (s.height p r 0) (s.height p r 1)) (max (s.height p r 2) (s.height p r 3))

/-- The counts by which a corner lies below the highest (R99). -/
def State.liftOf (s : State) (p r : Int) (c : Fin 16) : Int := liftCounts (s.topHeight p r - s.height p r c) (s.c10 c)

/-- The target of a corner jack, its stroke at most (R100). -/
def State.targetOf (s : State) (p r : Int) (c : Fin 16) : Int :=
  min ((s.jackPar c).stroke : Int) ((s.chan c).position + s.liftOf p r c)

/-- A corner jack is not dropped from the pass (R100). -/
def State.driven (s : State) (p r : Int) (c : Fin 16) : Bool :=
  decide ((s.par.levelDeadband : Int) ≤ s.liftOf p r c ∧ (s.chan c).position < s.targetOf p r c)

/-- The plan's entry of a corner. -/
def State.planOf (s : State) (p r : Int) (c : Fin 16) : PlanEntry :=
  settleLift (s.chan c).position (s.height p r c) (s.topHeight p r - s.height p r c) (s.liftOf p r c) s.par.levelDeadband
    (s.jackPar c).stroke

theorem top_foldl (f : Fin 16 → Int) :
    (cornerChans.map f).foldl max ((cornerChans.map f).headD 0) = max (max (f 0) (f 1)) (max (f 2) (f 3)) := by
  simp only [cornerChans, List.map_cons, List.map_nil, List.headD_cons, List.foldl_cons, List.foldl_nil, max_self, max_assoc]

/-- The plan is made corner by corner. -/
theorem passPlan_eq (s : State) (p r : Int) : s.passPlan p r = cornerChans.map (s.planOf p r) := by
  unfold State.passPlan
  simp only []
  rw [top_foldl]
  simp only [cornerChans, List.map_cons, List.map_nil, List.zip_cons_cons, List.zip_nil_right]
  rfl

theorem planOf_target (s : State) (p r : Int) (c : Fin 16) :
    (s.planOf p r c).target = if s.driven p r c then some (s.targetOf p r c) else none := by
  unfold State.driven
  simp only [decide_eq_true_eq]
  exact settleLift_target _ _ _ _ _ _

/-- No jack is left to drive. -/
theorem passPlan_dropped (s : State) (p r : Int) :
    ((s.passPlan p r).all fun e => e.target.isNone) = true ↔ ∀ c ∈ cornerChans, s.driven p r c = false := by
  rw [passPlan_eq]
  simp only [List.all_map, List.all_eq_true, Function.comp, planOf_target]
  refine forall₂_congr fun c _ => ?_
  cases s.driven p r c <;> simp

/-- A target of the pass is clamped. -/
theorem passPlan_clamped (s : State) (p r : Int) : (s.passPlan p r).any PlanEntry.clamped =
    decide (∃ c ∈ cornerChans, (s.par.levelDeadband : Int) ≤ s.liftOf p r c ∧
      ((s.jackPar c).stroke : Int) < (s.chan c).position + s.liftOf p r c) := by
  rw [passPlan_eq, Bool.eq_iff_iff, decide_eq_true_eq]
  simp only [List.any_map, List.any_eq_true, Function.comp, State.planOf, settleLift_clamped, decide_eq_true_eq]

/-! ## The response check (R103, R104) -/

/-- The position a plan was made from, whatever is read where there is none. -/
theorem planBefore_eq {plan : List PlanEntry} {before : List Int} (h : plan.map PlanEntry.before = before) {i : Nat}
    (hi : i < before.length) (d : Int) : ((plan[i]?).map PlanEntry.before).getD d = before.getD i 0 := by
  rw [← List.getElem?_map, h, List.getElem?_eq_getElem hi, List.getD_eq_getElem _ _ hi, Option.getD_some]

/-- The executed lift of a corner jack since the plan was made (R103). -/
def State.liftedSince (s : State) (before : List Int) (c : Fin 16) : Int :=
  executedLift ((s.chan c).position - before.getD c.val 0) (s.c10 c)

/-- The predicted change of pitch (R103). -/
def State.pitchBy (s : State) (before : List Int) : Int :=
  predicted (mean (s.liftedSince before 0) (s.liftedSince before 1) - mean (s.liftedSince before 2) (s.liftedSince before 3)) s.spreadX

/-- The predicted change of roll (R103). -/
def State.rollBy (s : State) (before : List Int) : Int :=
  predicted (mean (s.liftedSince before 1) (s.liftedSince before 3) - mean (s.liftedSince before 0) (s.liftedSince before 2)) s.spreadY

theorem prediction_eq {s : State} {before : List Int}
    (hplan : s.lvs.seq.plan.map (List.map PlanEntry.before) = some before) (hlen : before.length = 4) :
    s.prediction = (s.pitchBy before, s.rollBy before) := by
  obtain ⟨plan, hp, hb⟩ := Option.map_eq_some_iff.mp hplan
  have hbefore {i : Nat} (hi : i < 4) (d : Int) := planBefore_eq hb (hlen ▸ hi) d
  unfold State.prediction State.pitchBy State.rollBy State.liftedSince
  simp only [hp, Option.getD_some, hbefore (i := 0) (by decide), hbefore (i := 1) (by decide), hbefore (i := 2) (by decide),
    hbefore (i := 3) (by decide)]
  rfl

/-- A pass disagrees where the change on an axis is further from the predicted one than R104 tolerates. -/
theorem disagrees_iff {s : State} {before : List Int} {p₀ r₀ : Int}
    (hplan : s.lvs.seq.plan.map (List.map PlanEntry.before) = some before) (hlen : before.length = 4)
    (hprev : s.lvs.seq.prev = some (p₀, r₀)) (p r : Int) : s.disagrees p r = true ↔
      responseTol (s.pitchBy before) < (p - p₀ - s.pitchBy before).natAbs ∨
        responseTol (s.rollBy before) < (r - r₀ - s.rollBy before).natAbs := by
  unfold State.disagrees
  simp only [prediction_eq hplan hlen, hprev, Option.getD_some, Bool.or_eq_true, decide_eq_true_eq]

end Sys2Proof.Machine
end

section
/-! SUPPORT. A valid sample in SETTLING: the count, the response check, the outcome, and the records of the next phase (R97 to R101,
R103 to R105, R107). -/

namespace Sys2Proof.Machine

/-! ## The check, case by case (R98, R103, R104) -/

/-- In SETTLING a sample is counted; the check takes the first SETTLED one from the eighth on (R97). -/
theorem actLvsSample_settling {s : State} (h : s.lvs.seq.state = .settling) :
    actLvsSample s = if s.atu.record.state = .settled ∧ 7 ≤ s.lvs.seq.samples
      then (s.setSeq { s.lvs.seq with samples := min 65535 (s.lvs.seq.samples + 1) }).check s.atu.record.pitch s.atu.record.roll
      else .done (s.setSeq { s.lvs.seq with samples := min 65535 (s.lvs.seq.samples + 1) }) := by
  have hsat : sat 65535 s.lvs.seq.samples = min 65535 (s.lvs.seq.samples + 1) := by unfold sat; split <;> omega
  have height : 8 ≤ min 65535 (s.lvs.seq.samples + 1) ↔ 7 ≤ s.lvs.seq.samples := by omega
  unfold actLvsSample
  simp only [if_pos h, hsat, height]

section
variable {s : State} {p r : Int}

/-- A second pass in a row that disagrees fails the sequence (R104). -/
theorem check_fails (h : 1 ≤ s.lvs.seq.passes ∧ s.disagrees p r = true) (hm : 1 ≤ s.lvs.seq.misses) : s.check p r =
    { st := s.setSeq { s.lvs.seq with misses := s.lvs.seq.misses + 1, recorded := some (.fault .levelResponse) }
      acts := [.raise .levelResponse .coach, .lvsEnd .failed (.fault .levelResponse) (some (p, r))] } := by
  obtain ⟨hpasses, hdisagrees⟩ := h
  have hmisses : 2 ≤ s.lvs.seq.misses + 1 := by omega
  unfold State.check
  simp [hpasses, hdisagrees, hmisses]

/-- The sequence as a check leaves it that fails nothing: the passes in a row that disagree, and the check's attitude (R98, R104). -/
def LvSeq.checked (q : LvSeq) (disagrees : Bool) (p r : Int) : LvSeq :=
  { q with misses := if q.passes = 0 then q.misses else if disagrees then q.misses + 1 else 0, prev := some (p, r) }

theorem check_judges (h : ¬((1 ≤ s.lvs.seq.passes ∧ s.disagrees p r = true) ∧ 1 ≤ s.lvs.seq.misses)) :
    s.check p r = (s.setSeq (s.lvs.seq.checked (s.disagrees p r) p r)).judge p r := by
  unfold State.check LvSeq.checked
  by_cases hpasses : 1 ≤ s.lvs.seq.passes
  · have hzero : ¬s.lvs.seq.passes = 0 := by omega
    cases hdisagrees : s.disagrees p r with
    | false => simp [hpasses, hzero]
    | true =>
      have hmisses : ¬2 ≤ s.lvs.seq.misses + 1 := fun k => h ⟨⟨hpasses, hdisagrees⟩, by omega⟩
      simp only [hpasses, hzero, hmisses, decide_true, Bool.and_self, if_true, if_false, and_false]
  · have hzero : s.lvs.seq.passes = 0 := by omega
    simp [hzero]

theorem judge_level (h : p.natAbs ≤ s.par.levelTolerance ∧ r.natAbs ≤ s.par.levelTolerance) :
    s.judge p r = s.decideOutcome .level := if_pos h

theorem judge_used (h : ¬(p.natAbs ≤ s.par.levelTolerance ∧ r.natAbs ≤ s.par.levelTolerance))
    (hu : s.lvs.seq.passes = s.par.levelMaxPasses) : s.judge p r = s.decideOutcome s.lvs.seq.shortOutcome :=
  (if_neg h).trans (if_pos hu)

/-- The sequence with the plan of a check (R99, R100). -/
def State.planned (s : State) (p r : Int) : LvSeq :=
  { s.lvs.seq with clamped := s.lvs.seq.clamped || (s.passPlan p r).any PlanEntry.clamped, plan := some (s.passPlan p r) }

/-- A check that is not over plans a pass, and makes it where a jack is to be driven (R98). -/
theorem judge_plans (h : ¬(p.natAbs ≤ s.par.levelTolerance ∧ r.natAbs ≤ s.par.levelTolerance))
    (hu : s.lvs.seq.passes < s.par.levelMaxPasses) : s.judge p r =
      if (s.passPlan p r).all (fun e => e.target.isNone) then (s.setSeq (s.planned p r)).decideOutcome (s.planned p r).shortOutcome
      else (s.setSeq (s.planned p r)).enterLifting (s.passPlan p r) :=
  (if_neg h).trans (if_neg (Nat.ne_of_lt hu))

/-- Without SUPPORT an outcome ends the sequence (R105). -/
theorem decideOutcome_ends (h : ¬(s.populated 4 = true ∧ s.lvs.seq.option = true)) (o : LvOutcome) : s.decideOutcome o =
    { st := s.setSeq { s.lvs.seq with pending := some o }, acts := [.lvsEnd o .none s.lvs.seq.prev] } :=
  if_neg fun k => h (by simpa [State.sixJacks] using k)

theorem decideOutcome_supports (h : s.populated 4 = true ∧ s.lvs.seq.option = true) (o : LvOutcome) :
    s.decideOutcome o = (s.setSeq { s.lvs.seq with pending := some o }).enterSupport :=
  if_pos (by simpa [State.sixJacks] using h)
end

/-! ## EXTEND records of origin LEVEL (R101, R105) -/

/-- A jack that is given a LEVEL record, or none. -/
def Channel.leveled (x : Channel) (now : FrameNo) : Option Target → Channel
  | some k => if x.canStart then x.startMotion now .extend k .level none else x
  | none => x

theorem leveled_moves {x : Channel} (h : x.moves .retract = false) (now : FrameNo) (k : Option Target) :
    (x.leveled now k).moves .retract = false := by
  cases k with
  | none => exact h
  | some k =>
    unfold Channel.leveled
    simp only []
    split
    · rfl
    · exact h

theorem setChan_chan_self (s : State) (c : Fin 16) : s.setChan c (s.chan c) = s := by
  have h : s.chc.chans.set c (s.chc.chans.get c) = s.chc.chans := by simp [Vector.get_eq_getElem]
  unfold State.setChan State.chan
  rw [h]

/-- The state with a jack's LEVEL record, where it is given one. -/
def State.leveled (k : Fin 16 → Option Target) (s : State) (c : Fin 16) : State := s.modChan c fun x => x.leveled s.frame (k c)

theorem leveled_some {k : Fin 16 → Option Target} {c : Fin 16} {g : Target} (h : k c = some g) (s : State) :
    s.levelRecord c g = s.leveled k c := by
  unfold State.levelRecord State.createMotion State.leveled State.modChan Channel.leveled
  simp only [h]
  cases (s.chan c).canStart with
  | true => rfl
  | false => exact (setChan_chan_self s c).symm

theorem leveled_none {k : Fin 16 → Option Target} {c : Fin 16} (h : k c = none) (s : State) : s = s.leveled k c := by
  unfold State.leveled State.modChan Channel.leveled
  simp only [h]
  exact (setChan_chan_self s c).symm

/-- Several jacks are given their records: nothing else changes. -/
theorem foldl_leveled (k : Fin 16 → Option Target) : ∀ (l : List (Fin 16)) (s : State), l.Nodup →
    ∃ v : Vector Channel 16, l.foldl (State.leveled k) s = s.withChans v ∧
      ∀ c, v.get c = if c ∈ l then (s.chan c).leveled s.frame (k c) else s.chan c := by
  intro l
  induction l with
  | nil => exact fun s _ => ⟨s.chc.chans, rfl, fun _ => rfl⟩
  | cons a l ih =>
    intro s hn
    obtain ⟨ha, hn⟩ := List.nodup_cons.mp hn
    have hchan (c : Fin 16) : (s.leveled k a).chan c = if c = a then (s.chan a).leveled s.frame (k a) else s.chan c :=
      State.modChan_chan s a c _
    obtain ⟨v, hv, hget⟩ := ih (s.leveled k a) hn
    refine ⟨v, hv, fun c => (hget c).trans ?_⟩
    by_cases hc : c = a
    · rw [hc, if_neg ha, hchan, if_pos rfl, if_pos (.head _)]
    · simp only [hchan, List.mem_cons, hc, false_or]
      rfl

/-- SUPPORT gives its jacks records towards their ends (R105). -/
theorem enterSupport_eq (s : State) (h : ∀ c ∈ supportChans, (s.chan c).pressure < s.supportLevel c) : s.enterSupport =
    { st := supportChans.foldl (State.leveled fun _ => some .toEnd)
        (s.setSeq { s.lvs.seq with state := .support, phaseStart := some s.frame }).levelStatus
      acts := [.lvsProgress] } := by
  have hbelow : (supportChans.filter fun c => decide (s.supportLevel c ≤ (s.chan c).pressure)) = [] :=
    List.filter_eq_nil_iff.mpr fun c hc k => absurd (h c hc) (not_lt.mpr (of_decide_eq_true k))
  have hstep : (fun (t : State) c => t.levelRecord c .toEnd) = State.leveled fun _ => some .toEnd :=
    funext fun t => funext fun c => leveled_some rfl t
  unfold State.enterSupport
  simp only [hbelow, List.map_nil, List.nil_append, hstep]

/-- LIFTING gives the jacks that the plan does not drop records towards their targets (R101). -/
theorem enterLifting_eq (s : State) (f : Fin 16 → PlanEntry) : s.enterLifting (cornerChans.map f) =
    { st := (cornerChans.foldl (State.leveled fun c => (f c).target.map Target.at)
        (s.setSeq { s.lvs.seq with state := .lifting, passes := s.lvs.seq.passes + 1, phaseStart := some s.frame
                                   plan := some (cornerChans.map f) })).levelStatus
      acts := [.lvsProgress] } := by
  have hzip : cornerChans.zip (cornerChans.map f) = cornerChans.map fun c => (c, f c) := rfl
  have hstep (t : State) (c : Fin 16) : (match (f c).target with
      | some k => t.levelRecord c (.at k)
      | none => t) = t.leveled (fun c => (f c).target.map Target.at) c := by
    cases ht : (f c).target with
    | none => exact leveled_none (congrArg (Option.map Target.at) ht) t
    | some k => exact leveled_some (congrArg (Option.map Target.at) ht) t
  unfold State.enterLifting
  simp only [hzip, List.foldl_map]
  congr 3
  funext t c
  exact hstep t c

end Sys2Proof.Machine
end

section
/-! SUPPORT. The event of a valid sample under a level sequence: what it ends, and what it drives (R98, R101, R104, R105, R107). -/

namespace Sys2Proof.Machine

/-! ## What the sample leaves as it was -/

/-- The state with another attitude and another level sequence. -/
def State.withLevel (s : State) (a : Atu) (q : LvSeq) : State := { s with atu := a, lvs := { s.lvs with seq := q } }

/-- From s to t the sample has made attitude a, and the settings, the guard, the nodes, the stow sequence, the other units and the
other channels are as they were. -/
structure SampleRest (a : Atu) (s t : State) : Prop where
  atu : t.atu = a
  sst : t.sst = s.sst
  wgd : t.wgd = s.wgd
  nodes : NodesStand s t
  stow : t.ciu.stow = s.ciu.stow
  units : ∀ u, u ≠ .jacks → t.unit u = s.unit u
  chans : ∀ c, c ∉ jackChans → t.chan c = s.chan c

/-- From s to w nothing changed but the attitude, the level sequence, the fault list and the notices. -/
structure LevelOnly (s w : State) : Prop where
  mode : w.mode = s.mode
  frame : w.frame = s.frame
  chc : w.chc = s.chc
  nlc : w.nlc = s.nlc
  sgu : w.sgu = s.sgu
  wgd : w.wgd = s.wgd
  ciu : w.ciu = s.ciu
  sst : w.sst = s.sst

theorem levelOnly_withLevel (s : State) (a : Atu) (q : LvSeq) : LevelOnly s (s.withLevel a q) := ⟨rfl, rfl, rfl, rfl, rfl, rfl, rfl, rfl⟩

theorem LevelOnly.raised {s w : State} (h : LevelOnly s w) (k : FaultKind) (sj : Subject) : LevelOnly s (w.raised k sj) :=
  ⟨h.mode, h.frame, h.chc, h.nlc, h.sgu, h.wgd, h.ciu, h.sst⟩

theorem still_withLevel {s : State} (h : Still s) (a : Atu) (q : LvSeq) : Still (s.withLevel a q) := ⟨h.exposed, h.jacks⟩

theorem parked_withLevel {s : State} (h : Parked s) (a : Atu) (q : LvSeq) : Parked (s.withLevel a q) := ⟨h.park, h.alarm⟩

/-- What the end of the sequence leaves of the part (R90, R107). -/
structure LevelOverBy (s t : State) (r : LvResult) (flt : Flt) : Prop where
  seq : t.lvs.seq = .reset
  result : t.lvs.result = r
  jacks : t.unit .jacks = .reset
  grants : t.sgu.grants = s.sgu.grants.filter fun e => decide (e.unit ≠ .jacks)
  flt : t.flt = flt

/-- The result record of the sequence that a sample in SETTLING ends (R90). -/
def State.resultOf (s : State) (r : Attitude) (q : LvSeq) (o : LvOutcome) (cause : Cause) : LvResult :=
  { outcome := o, cause := cause, endedIn := some .settling, passes := q.passes, pitch := r.pitch, roll := r.roll
    clamped := q.clamped, positions := s.jackPositions }

/-- The event of a sample ends the sequence q with an outcome and a cause. -/
def SampleEnds (s : State) (r : Attitude) (a : Atu) (q : LvSeq) (o : LvOutcome) (cause : Cause) (flt : Flt) : Prop :=
  ∃ t, exec .attitudeSample s = .next t ∧ LevelOverBy s t (s.resultOf r q o cause) flt ∧ SampleRest a s t

/-- The event of a sample leads to the sequence q, and the channels become f; JACKS, the grants and the fault list stand. -/
def SampleDrives (s : State) (a : Atu) (q : LvSeq) (f : Fin 16 → Channel) : Prop :=
  ∃ t, exec .attitudeSample s = .next t ∧ t.lvs = { s.lvs with seq := q } ∧ (∀ c, t.chan c = f c) ∧
    t.unit .jacks = s.unit .jacks ∧ GrantsStand s t ∧ t.flt = s.flt ∧ SampleRest a s t

section
variable {s w : State} (k : LevelOnly s w)
include k

theorem LevelOnly.unit (u : UnitId) : w.unit u = s.unit u := congrArg (fun x : Chc => x.units.get (unitIdx u)) k.chc

theorem LevelOnly.chan (c : Fin 16) : w.chan c = s.chan c := congrArg (fun x : Chc => x.chans.get c) k.chc

theorem LevelOnly.jackPositions : w.jackPositions = s.jackPositions := by
  have hpop : w.populated = s.populated := funext fun c => by unfold State.populated; rw [k.chan]
  unfold State.jackPositions
  simp only [hpop, k.chan]

/-- The end of the sequence ends the work of JACKS and nothing else. -/
theorem LevelOnly.over (hw : (s.unit .jacks).state ≠ .idle) (hst : w.lvs.seq.state = .settling) (o : LvOutcome) (cause : Cause)
    (r : Attitude) : LevelOverBy s (finish (w.levelOver o cause (r.pitch, r.roll))) (s.resultOf r w.lvs.seq o cause) w.flt ∧
      SampleRest w.atu s (finish (w.levelOver o cause (r.pitch, r.roll))) := by
  have hended := endUnit_ended (s := w) (u := .jacks) (by rw [k.unit]; exact hw) o.reason
  obtain ⟨t, ht⟩ : ∃ t, t = w.levelOver o cause (r.pitch, r.roll) := ⟨_, rfl⟩
  have hatu : t.atu = w.atu := ht ▸ endUnit_atu w .jacks o.reason
  have hsst : t.sst = w.sst := ht ▸ endUnit_sst w .jacks o.reason
  have hsgu : t.sgu = (w.endUnit .jacks o.reason).sgu := ht ▸ rfl
  have hunit (u : UnitId) : t.unit u = (w.endUnit .jacks o.reason).unit u := ht ▸ rfl
  have hchan (c : Fin 16) : t.chan c = (w.endUnit .jacks o.reason).chan c := ht ▸ rfl
  have hlvs : t.lvs = { seq := .reset, result := s.resultOf r w.lvs.seq o cause } := by
    rw [ht, levelOver_lvs, hst, k.jackPositions]
    rfl
  have hflt : t.flt = w.flt := by rw [ht, levelOver_flt]
  have hwgd : t.wgd = s.wgd := by rw [ht, levelOver_wgd, k.wgd]
  have hnlc : t.nlc = s.nlc := by rw [ht, levelOver_nlc, k.nlc]
  have hciu : t.ciu = s.ciu := by rw [ht, levelOver_ciu, k.ciu]
  rw [← ht]
  refine ⟨⟨by rw [finish_lvs, hlvs], by rw [finish_lvs, hlvs], (hunit _).trans hended.idle, ?_, hflt⟩,
    hatu, hsst.trans k.sst, hwgd, nodesStand_finish hnlc, by rw [finish_ciu, hciu],
    fun u hu => (hunit u).trans ((hended.others u hu).trans (k.unit u)),
    fun c hc => (hchan c).trans ((hended.otherChans c hc).trans (k.chan c))⟩
  rw [finish_sgu, hsgu]
  exact hended.grants.trans (by rw [k.sgu])
end

/-! ## The event -/

/-- Two acts that answer alike do alike. -/
theorem does_alike {m : Nat} {x : Bool} {a b : Act} {s t : State} (ha : a ≠ .exam ∧ a.requests = false) (hb : b ≠ .exam ∧ b.requests = false)
    (hab : act a s = act b s) (h : Does m x [a] s t) : Does m x [b] s t := by
  obtain ⟨j, hj, hrun⟩ := h
  have halike (n : Nat) (e : Bool) (l : List Act) : run n e (b :: l) s = run n e (a :: l) s := by
    cases n with
    | zero => rfl
    | succ n => rw [run_act n e a l s ha, run_act n e b l s hb, hab]
  exact ⟨j, hj, fun n e l => (halike _ e l).trans (hrun n e l)⟩

/-- A level sequence stands in SETTLING and a valid sample reaches it, with its record and the sequence that has counted it. -/
structure LevelSample (s : State) (since : FrameNo) (r : Attitude) (a : Atu) (q : LvSeq) : Prop where
  levelling : s.Levelling .settling since
  sample : s.attitudeSample = { st := s.taken r, acts := [.lvsSample] }
  atu : a = { s.atu with accX := 0, accY := 0, blockCount := 0, record := r }
  seq : q = { s.lvs.seq with samples := min 65535 (s.lvs.seq.samples + 1) }

section
variable {s : State} {since : FrameNo} {r : Attitude} {a : Atu} {q : LvSeq} (h : LevelSample s since r a q)
include h

theorem LevelSample.works : (s.unit .jacks).state ≠ .idle := by
  rw [h.levelling.jacks.1]
  nofun

theorem LevelSample.settling : q.state = .settling := by
  rw [h.seq]
  exact h.levelling.state

theorem LevelSample.unrecorded : q.recorded = none := by
  rw [h.seq]
  exact h.levelling.recorded

/-- The event of the sample, by what the sequence does of it. -/
theorem LevelSample.answers {o : Out} {t : State} {m : Nat} {x : Bool} (hact : act .lvsSample (s.taken r) = o) (hd : Does m x o.acts o.st t)
    (hm : m ≤ 3000) (hs : Still t) (hp : Parked t) (hq : x = true → t.sgu.queue = []) :
    exec .attitudeSample s = .next (finish t) :=
  (congrArg (event s) h.sample).trans (event_does h.levelling.steady.running (does_act (by simp) hact hd) (by omega) hs hp hq)

/-- A sample that is not checked is counted (R97). -/
theorem LevelSample.exec_counted (hc : ¬(r.state = .settled ∧ 7 ≤ s.lvs.seq.samples)) :
    exec .attitudeSample s = .next (finish (s.withLevel a q)) := by
  have hact : act .lvsSample (s.taken r) = .done (s.withLevel a q) := by
    rw [h.atu, h.seq]
    exact (actLvsSample_settling (s := s.taken r) h.levelling.state).trans (if_neg hc)
  exact h.answers hact (does_nil _) (by omega) (still_withLevel h.levelling.steady.still a q)
    (parked_withLevel h.levelling.steady.parked a q) nofun

/-- A sample that is checked (R97, R98). -/
theorem LevelSample.act_checked (hc : r.state = .settled ∧ 7 ≤ s.lvs.seq.samples) :
    act .lvsSample (s.taken r) = (s.withLevel a q).check r.pitch r.roll := by
  rw [h.atu, h.seq]
  exact (actLvsSample_settling (s := s.taken r) h.levelling.state).trans (if_pos hc)

/-- The check ends the sequence with an outcome (R98, R107). -/
theorem LevelSample.ends {q' : LvSeq} {o : LvOutcome} (hst : q'.state = .settling) (hact : act .lvsSample (s.taken r) =
      { st := s.withLevel a q', acts := [.lvsEnd o .none (some (r.pitch, r.roll))] }) :
    SampleEnds s r a q' o .none s.flt := by
  have hstill := still_withLevel h.levelling.steady.still a q'
  have hparked := parked_withLevel h.levelling.steady.parked a q'
  have hidle : (s.withLevel a q').lvs.seq.state ≠ .idle := fun e => LvState.noConfusion (hst.symm.trans e)
  have hd := does_lvsEnd o .none hstill hparked hidle h.levelling.jacks.2 (some (r.pitch, r.roll))
  have hqueue : (s.withLevel a q').queueOnly .jacks := fun e he => by
    rw [show (s.withLevel a q').sgu.queue = [] from h.levelling.queue] at he
    exact absurd he List.not_mem_nil
  refine ⟨_, h.answers hact hd (by omega) (still_evaluated (still_levelOver o .none (r.pitch, r.roll) hstill))
    (parked_evaluated (parked_levelOver o .none (r.pitch, r.roll) hparked))
    fun _ => levelOver_queue (s := s.withLevel a q') o .none (r.pitch, r.roll) h.works hqueue, ?_⟩
  rw [finish_evaluated]
  exact (levelOnly_withLevel s a q').over h.works hst o .none r

theorem LevelSample.reaches {w : State} (k : LevelOnly s w) : w.reach .coach = [.jacks] := by
  refine reach_one fun u => ?_
  unfold State.reach
  simp only [List.mem_filter, mem_allUnits, true_and, Bool.and_eq_true, decide_eq_true_eq, k.unit]
  refine ⟨fun hu => by_contra fun hne => hu.1 (h.levelling.others u hne), fun hu => ?_⟩
  rw [hu]
  exact ⟨h.works, .inr h.levelling.jacks.2⟩
end

/-- The end of JACKS by LEVEL_RESPONSE (R104, R162). -/
def responseEnding : Ending := { unit := .jacks, why := .fault, cause := .fault .levelResponse, subject := some .coach }

theorem raise_response {w : State} (hr : (w.raised .levelResponse .coach).reach .coach = [.jacks]) :
    act (.raise .levelResponse .coach) w = { st := w.raised .levelResponse .coach, acts := [.endUnits [responseEnding]] } :=
  congrArg (fun l : List UnitId => ({ st := w.raised .levelResponse .coach, acts := [.endUnits (l.map fun u =>
    { unit := u, why := .fault, cause := .fault .levelResponse, subject := some .coach })] } : Out)) hr

section
variable {w : State} (hs : Still w) (hp : Parked w) (hw : (w.unit .jacks).state ≠ .idle)
include hs hp hw

/-- A sequence whose cause is recorded keeps it when the fault ends the work of JACKS (R104). -/
theorem does_endResponse (ho : (w.unit .jacks).origin = some .level) (hr : w.lvs.seq.recorded.isSome = true) :
    Does 5 true [.endUnits [responseEnding]] w (w.endUnit .jacks .fault).evaluated := by
  have hrecorded : (w.endUnit .jacks .fault).evaluated.lvs.seq.recorded.isSome = true := by
    rw [show (w.endUnit .jacks .fault).evaluated.lvs = w.lvs from endUnit_lvs w _ _]
    exact hr
  have hnone : lvsUnitEnd responseEnding (w.endUnit .jacks .fault).evaluated = [] := if_pos (.inr hrecorded)
  have hhand : act (.handOff responseEnding .level) (w.endUnit .jacks .fault).evaluated = .done (w.endUnit .jacks .fault).evaluated :=
    congrArg (fun l => ({ st := (w.endUnit .jacks .fault).evaluated, acts := l } : Out)) hnone
  exact does_endWork (e := responseEnding) hs hp hw ho (sparesStep_of_origin (by rw [show responseEnding.unit = .jacks from rfl, ho]; nofun))
    (does_done (by simp) hhand (does_nil _))

/-- The end of a sequence whose unit's work has ended before, with the attitude of its check. -/
theorem does_lvsEnd_checked (hst : w.lvs.seq.state ≠ .idle) (cause : Cause) :
    Does 4 true [.lvsEnd .failed cause (some (w.atu.record.pitch, w.atu.record.roll))] (w.endUnit .jacks .fault).evaluated
      (w.levelOver .failed cause (w.atu.record.pitch, w.atu.record.roll)).evaluated := by
  have hatu : (w.endUnit .jacks .fault).evaluated.atu = w.atu := endUnit_atu w _ _
  refine does_alike (by simp) (by simp) ?_ (does_lvsEnd_after (o := .failed) hs hp hst hw cause)
  rw [← hatu]
  rfl
end

section
variable {s : State} {since : FrameNo} {r : Attitude} {a : Atu} {q : LvSeq} (h : LevelSample s since r a q)
include h

/-- The second pass in a row that disagrees raises LEVEL_RESPONSE and fails the sequence (R104). -/
theorem LevelSample.fails {q' : LvSeq} (hst : q'.state = .settling) (hr : q'.recorded.isSome = true) (hact : act .lvsSample (s.taken r) =
      { st := s.withLevel a q'
        acts := [.raise .levelResponse .coach, .lvsEnd .failed (.fault .levelResponse) (some (r.pitch, r.roll))] }) :
    SampleEnds s r a q' .failed (.fault .levelResponse) (s.flt.raise .levelResponse .coach s.frame).1 := by
  obtain ⟨w, hw⟩ : ∃ w, w = (s.withLevel a q').raised .levelResponse .coach := ⟨_, rfl⟩
  have k : LevelOnly s w := hw ▸ (levelOnly_withLevel s a q').raised .levelResponse .coach
  have hstill : Still w := hw ▸ still_raised (still_withLevel h.levelling.steady.still a q') (by decide) _
  have hparked : Parked w := hw ▸ parked_raised (parked_withLevel h.levelling.steady.parked a q') _ _
  have hlvs : w.lvs.seq = q' := by rw [hw]; rfl
  have hatu : w.atu = a := by rw [hw]; rfl
  have hrecord : a.record = r := by rw [h.atu]
  have hworks : (w.unit .jacks).state ≠ .idle := by rw [k.unit]; exact h.works
  have horigin : (w.unit .jacks).origin = some .level := by rw [k.unit]; exact h.levelling.jacks.2
  have hover := does_lvsEnd_checked hstill hparked hworks (by rw [hlvs, hst]; nofun) (.fault .levelResponse)
  rw [hatu, hrecord] at hover
  have hraise := raise_response (w := s.withLevel a q') (hw ▸ h.reaches k)
  rw [← hw] at hraise
  have hd := does_append (does_act (by simp) hraise (does_endResponse hstill hparked hworks horigin (by rw [hlvs]; exact hr))) hover
  have hqueue : w.queueOnly .jacks := fun e he => by
    rw [k.sgu, h.levelling.queue] at he
    exact absurd he List.not_mem_nil
  refine ⟨_, h.answers hact hd (by omega) (still_evaluated (still_levelOver .failed (.fault .levelResponse) (r.pitch, r.roll) hstill))
    (parked_evaluated (parked_levelOver .failed (.fault .levelResponse) (r.pitch, r.roll) hparked))
    fun _ => levelOver_queue (s := w) .failed (.fault .levelResponse) (r.pitch, r.roll) hworks hqueue, ?_⟩
  have hover := k.over h.works (by rw [hlvs, hst]) .failed (.fault .levelResponse) r
  rw [hlvs, hatu, show w.flt = (s.flt.raise .levelResponse .coach s.frame).1 by rw [hw]; rfl] at hover
  rw [finish_evaluated]
  exact hover

/-- Jacks that are given LEVEL records by a check drive; the phase goes on (R101, R105). -/
theorem LevelSample.drives {q' : LvSeq} {p : Pli} {v : Vector Channel 16} {l : List (Fin 16)} {k : Fin 16 → Option Target}
    (hact : act .lvsSample (s.taken r) = { st := { (s.withLevel a q').withChans v with pli := p }, acts := [.lvsProgress] })
    (hprogress : act .lvsProgress { (s.withLevel a q').withChans v with pli := p } =
      .done { (s.withLevel a q').withChans v with pli := p })
    (hj : ∀ c ∈ l, c ∈ jackChans) (hv : ∀ c, v.get c = if c ∈ l then (s.chan c).leveled s.frame (k c) else s.chan c) :
    SampleDrives s a q' fun c => if c ∈ l then (s.chan c).leveled s.frame (k c) else s.chan c := by
  obtain ⟨w, hw⟩ : ∃ w, w = ({ (s.withLevel a q').withChans v with pli := p } : State) := ⟨_, rfl⟩
  rw [← hw] at hact hprogress
  have hchan (c : Fin 16) : w.chan c = v.get c := by rw [hw]; rfl
  have hother (c : Fin 16) (hc : c ∉ jackChans) : w.chan c = s.chan c := by
    rw [hchan, hv, if_neg fun e => hc (hj c e)]
  have hmoves (c : Fin 16) (hm : (s.chan c).moves .retract = false) : (w.chan c).moves .retract = false := by
    rw [hchan, hv]
    split
    · exact leveled_moves hm _ _
    · exact hm
  have hstill : Still w := still_jackChans h.levelling.steady.still hother (by rw [hw]; rfl) (fun _ => by rw [hw]; rfl)
    (fun e he _ => by rw [hw] at he; exact he) fun c _ => hmoves c
  have hparked : Parked w := parked_of_ciu h.levelling.steady.parked (by rw [hw]; rfl) (by rw [hw]; rfl)
  refine ⟨finish w, h.answers hact (does_done (by simp) hprogress (does_nil _)) (by omega) hstill hparked nofun, ?_⟩
  subst hw
  exact ⟨rfl, fun c => (hchan c).trans (hv c), rfl, ⟨rfl, rfl, rfl⟩, rfl, rfl, rfl, rfl, nodesStand_finish rfl, rfl, fun _ _ => rfl, hother⟩
end

end Sys2Proof.Machine
end

section
/-! SUPPORT. A valid sample that a capture takes (R85, R86), in a part that stands as an event leaves it. -/

namespace Sys2Proof.Machine

/-! ## The capture (R85, R86) -/

section
variable {s : State} {c : Capture} {x y : Nat}

theorem captureSample_skips (h : c.skip = true) :
    s.captureSample c x y = .done { s with atu := { s.atu with capture := some { c with skip := false } } } := if_pos h

/-- A capture with one more sample (R85). -/
def Capture.more (c : Capture) (x y : Nat) : Capture :=
  { samples := c.samples + 1, sumX := c.sumX + x, sumY := c.sumY + y, rangeX := widen c.rangeX x, rangeY := widen c.rangeY y
    skip := false }

/-- Both spreads of a capture are at most 8 codes (R86). -/
def Capture.fits (c : Capture) : Prop := rangeSpread c.rangeX ≤ 8 ∧ rangeSpread c.rangeY ≤ 8

theorem captureSample_counts (h : c.skip = false) (hn : c.samples + 1 < 32) :
    s.captureSample c x y = .done { s with atu := { s.atu with capture := some (c.more x y) } } := by
  unfold State.captureSample
  simp only [h, Bool.false_eq_true, if_false, hn, if_true]
  rfl

theorem captureSample_unfit (h : c.skip = false) (hn : c.samples + 1 = 32) (hf : ¬(c.more x y).fits) :
    s.captureSample c x y = .done (s.captureDone (c.more x y) false) := by
  unfold State.captureSample
  simp only [h, Bool.false_eq_true, if_false]
  rw [if_neg (show ¬c.samples + 1 < 32 by omega)]
  exact if_neg hf

/-- The rounded means of a capture are the offsets (R86). -/
def State.rebased (s : State) (c : Capture) : State := s.setOffsets (roundDiv c.sumX 32).toNat (roundDiv c.sumY 32).toNat

/-- The 32nd sample of a capture that fits makes the means the offsets, and the attitude is recomputed (R81, R86). -/
theorem captureSample_fits (h : c.skip = false) (hn : c.samples + 1 = 32) (hf : (c.more x y).fits) :
    s.captureSample c x y = .done (State.captureDone { s.rebased (c.more x y) with atu := (s.rebased (c.more x y)).attApplied }
      (c.more x y) true) := by
  unfold State.captureSample
  simp only [h, Bool.false_eq_true, if_false]
  rw [if_neg (show ¬c.samples + 1 < 32 by omega), actAttApply_eq]
  exact if_pos hf
end

/-- What a capture's end moves, no line depends on. -/
theorem quiet_captureDone {s : State} (h : Quiet s) (c : Capture) (ok : Bool) : Quiet (s.captureDone c ok) :=
  quiet_atu (quiet_pli h _) _

/-- The event of a sample in a quiet part whose level sequence is IDLE. -/
theorem exec_sample_quiet {s t : State} (hq : Quiet t) (hl : t.lvs.seq.state = .idle) (hr : s.mode = .running)
    (hs : s.attitudeSample = { st := t, acts := [.lvsSample] }) : exec .attitudeSample s = .next t.sending :=
  (congrArg (event s) hs).trans (event_quiet_does hr (does_lvsSample_idle hl) (by omega) hq)

/-- The event of a sample that a capture takes: what is left is the capture's. -/
theorem exec_captured {s t : State} {c : Capture} {r : Attitude} {x y : Nat} (hb : 16 ≤ s.atu.blockCount) (hq : Quiet s)
    (hv : sampleValid (blockAverage s.atu.accX) (blockAverage s.atu.accY) = true) (hc : s.atu.capture = some c)
    (hi : s.atu.record.state ≠ .invalid) (hx : blockAverage s.atu.accX = x) (hy : blockAverage s.atu.accY = y)
    (hr : s.atu.record.validSample s.par x y = r) (ht : (s.taken r).captureSample c x y = .done t) (hqt : Quiet t)
    (hl : t.lvs.seq.state = .idle) : exec .attitudeSample s = .next t.sending := by
  subst hx hy hr
  exact exec_sample_quiet hqt hl hq.running (attitudeSample_captured hb hv hc hi ht)

end Sys2Proof.Machine
end

section
/-! SUPPORT. What a checked sample comes to, outcome by outcome (R98, R101, R104, R105, R107). -/

namespace Sys2Proof.Machine

theorem leveled_begins {x : Channel} (h : x.state = .idle) (now : FrameNo) (k : Target) :
    x.leveled now (some k) = x.startMotion now .extend k .level none := if_pos (decide_eq_true (.inl h))

section
variable {s : State} {since : FrameNo} {r : Attitude} {a : Atu} {q : LvSeq} (h : LevelSample s since r a q)
  (hc : r.state = .settled ∧ 7 ≤ s.lvs.seq.samples)

/-- The last pass disagrees by a sample's record (R104). -/
def State.response (s : State) (r : Attitude) (a : Atu) (q : LvSeq) : Bool := (s.withLevel a q).disagrees r.pitch r.roll

/-- The sequence as the check of a sample leaves it that fails nothing. -/
def State.sequel (s : State) (r : Attitude) (a : Atu) (q : LvSeq) : LvSeq := q.checked (s.response r a q) r.pitch r.roll

/-- The response check of a sample under a level sequence (R103, R104). -/
theorem response_iff {before : List Int} {p₀ r₀ : Int} (hplan : q.plan.map (List.map PlanEntry.before) = some before)
    (hlen : before.length = 4) (hprev : q.prev = some (p₀, r₀)) : s.response r a q = true ↔
      responseTol (s.pitchBy before) < (r.pitch - p₀ - s.pitchBy before).natAbs ∨
        responseTol (s.rollBy before) < (r.roll - r₀ - s.rollBy before).natAbs :=
  disagrees_iff (s := s.withLevel a q) hplan hlen hprev r.pitch r.roll

/-- The passes in a row that disagree, counted only after a pass (R104). -/
theorem sequel_misses {d : Prop} [Decidable d] (hd : d ↔ 1 ≤ q.passes ∧ s.response r a q = true) :
    (s.sequel r a q).misses = if q.passes = 0 then q.misses else if d then q.misses + 1 else 0 := by
  show (if q.passes = 0 then q.misses else if s.response r a q = true then q.misses + 1 else 0) = _
  by_cases hp : q.passes = 0
  · rw [if_pos hp, if_pos hp]
  · simp only [hd.trans (and_iff_right (Nat.one_le_iff_ne_zero.mpr hp))]

include h hc

theorem LevelSample.failed (hd : 1 ≤ q.passes ∧ s.response r a q = true) (hm : 1 ≤ q.misses) :
    SampleEnds s r a q .failed (.fault .levelResponse) (s.flt.raise .levelResponse .coach s.frame).1 :=
  h.fails (q' := { q with misses := q.misses + 1, recorded := some (.fault .levelResponse) }) h.settling rfl
    ((h.act_checked hc).trans (check_fails hd hm))

section
variable (hok : ¬((1 ≤ q.passes ∧ s.response r a q = true) ∧ 1 ≤ q.misses))
include hok

theorem LevelSample.act_judged : act .lvsSample (s.taken r) = (s.withLevel a (s.sequel r a q)).judge r.pitch r.roll :=
  (h.act_checked hc).trans (check_judges hok)

omit hc hok in
/-- An outcome without SUPPORT (R105, R107). -/
theorem LevelSample.decides {q' : LvSeq} {o : LvOutcome} (hact : act .lvsSample (s.taken r) = (s.withLevel a q').decideOutcome o)
    (hst : q'.state = .settling) (hprev : q'.prev = some (r.pitch, r.roll)) (hno : ¬(s.populated 4 = true ∧ q'.option = true)) :
    SampleEnds s r a q' o .none s.flt := by
  have hends := hact.trans (decideOutcome_ends (s := s.withLevel a q') hno o)
  rw [show (s.withLevel a q').lvs.seq.prev = some (r.pitch, r.roll) from hprev] at hends
  exact h.ends (q' := { q' with pending := some o }) hst hends

/-- Within tolerance (R98). -/
theorem LevelSample.reached (hl : r.pitch.natAbs ≤ s.par.levelTolerance ∧ r.roll.natAbs ≤ s.par.levelTolerance)
    (hno : ¬(s.populated 4 = true ∧ q.option = true)) : SampleEnds s r a (s.sequel r a q) .level .none s.flt :=
  h.decides ((h.act_judged hc hok).trans (judge_level hl)) h.settling rfl hno

/-- The passes are used up (R98). -/
theorem LevelSample.used (hl : ¬(r.pitch.natAbs ≤ s.par.levelTolerance ∧ r.roll.natAbs ≤ s.par.levelTolerance))
    (hu : q.passes = s.par.levelMaxPasses) (hno : ¬(s.populated 4 = true ∧ q.option = true)) :
    SampleEnds s r a (s.sequel r a q) (s.sequel r a q).shortOutcome .none s.flt :=
  h.decides ((h.act_judged hc hok).trans (judge_used hl hu)) h.settling rfl hno

/-- SUPPORT with both its jacks below their level (R105). -/
theorem LevelSample.supported (hl : r.pitch.natAbs ≤ s.par.levelTolerance ∧ r.roll.natAbs ≤ s.par.levelTolerance)
    (hsup : s.populated 4 = true ∧ q.option = true)
    (hj : ∀ c ∈ supportChans, (s.chan c).state = .idle ∧ (s.chan c).pressure < s.supportLevel c) :
    SampleDrives s a { s.sequel r a q with state := .support, phaseStart := some s.frame, pending := some .level } fun c =>
      if c ∈ supportChans then (s.chan c).leveled s.frame (some .toEnd) else s.chan c := by
  obtain ⟨q', hq'⟩ : ∃ q', q' = { s.sequel r a q with pending := some .level, state := .support, phaseStart := some s.frame } := ⟨_, rfl⟩
  have hact : act .lvsSample (s.taken r) =
      { st := supportChans.foldl (State.leveled fun _ => some .toEnd) (s.withLevel a q').levelStatus, acts := [.lvsProgress] } := by
    rw [hq']
    exact ((h.act_judged hc hok).trans (judge_level hl)).trans
      ((decideOutcome_supports (s := s.withLevel a (s.sequel r a q)) hsup .level).trans (enterSupport_eq _ fun c k => (hj c k).2))
  obtain ⟨v, hv, hget⟩ : ∃ v : Vector Channel 16, supportChans.foldl (State.leveled fun _ => some .toEnd) (s.withLevel a q').levelStatus =
      (s.withLevel a q').levelStatus.withChans v ∧
      ∀ c, v.get c = if c ∈ supportChans then (s.chan c).leveled s.frame (some .toEnd) else s.chan c :=
    foldl_leveled (fun _ => some .toEnd) supportChans (s.withLevel a q').levelStatus (by decide)
  obtain ⟨p, hp⟩ : ∃ p, p = ((s.withLevel a q').levelStatus).pli := ⟨_, rfl⟩
  have hst : (s.withLevel a q').levelStatus.withChans v = { (s.withLevel a q').withChans v with pli := p } := by rw [hp]; rfl
  have hrecord : State.anyRecord { (s.withLevel a q').withChans v with pli := p } supportChans = true := by
    refine (anyRecord_iff _ _).mpr ⟨4, by decide, ?_⟩
    show (v.get 4).motion ≠ none
    rw [hget, if_pos (by decide), leveled_begins (hj 4 (by decide)).1]
    nofun
  have hprogress := progress_support (s := { (s.withLevel a q').withChans v with pli := p }) (hq' ▸ h.unrecorded) (hq' ▸ rfl)
  rw [if_pos hrecord] at hprogress
  rw [← hq']
  exact h.drives (hact.trans (congrArg (Out.mk · [.lvsProgress]) (hv.trans hst))) hprogress (fun c => support_jack) hget

/-- The sequence with the plan of the check. -/
def State.sequelPlanned (s : State) (r : Attitude) (a : Atu) (q : LvSeq) : LvSeq :=
  (s.withLevel a (s.sequel r a q)).planned r.pitch r.roll

theorem LevelSample.act_planned (hl : ¬(r.pitch.natAbs ≤ s.par.levelTolerance ∧ r.roll.natAbs ≤ s.par.levelTolerance))
    (hu : q.passes < s.par.levelMaxPasses) : act .lvsSample (s.taken r) =
      if (s.passPlan r.pitch r.roll).all (fun e => e.target.isNone)
      then (s.withLevel a (s.sequelPlanned r a q)).decideOutcome (s.sequelPlanned r a q).shortOutcome
      else (s.withLevel a (s.sequelPlanned r a q)).enterLifting (s.passPlan r.pitch r.roll) :=
  (h.act_judged hc hok).trans (judge_plans hl hu)

/-- No jack is left to drive (R98). -/
theorem LevelSample.dropped (hl : ¬(r.pitch.natAbs ≤ s.par.levelTolerance ∧ r.roll.natAbs ≤ s.par.levelTolerance))
    (hu : q.passes < s.par.levelMaxPasses) (hno : ¬(s.populated 4 = true ∧ q.option = true))
    (hd : ∀ c ∈ cornerChans, s.driven r.pitch r.roll c = false) :
    SampleEnds s r a (s.sequelPlanned r a q) (s.sequelPlanned r a q).shortOutcome .none s.flt :=
  h.decides ((h.act_planned hc hok hl hu).trans (if_pos ((passPlan_dropped s _ _).mpr hd))) h.settling rfl hno

/-- A pass begins with the jacks that are not dropped (R98, R101). -/
theorem LevelSample.lifted (hl : ¬(r.pitch.natAbs ≤ s.par.levelTolerance ∧ r.roll.natAbs ≤ s.par.levelTolerance))
    (hu : q.passes < s.par.levelMaxPasses) (hj : ∀ c ∈ cornerChans, (s.chan c).state = .idle)
    (hd : ∃ c ∈ cornerChans, s.driven r.pitch r.roll c = true) :
    SampleDrives s a { s.sequelPlanned r a q with state := .lifting, passes := q.passes + 1, phaseStart := some s.frame } fun c =>
      if c ∈ cornerChans ∧ s.driven r.pitch r.roll c = true
        then (s.chan c).leveled s.frame (some (.at (s.targetOf r.pitch r.roll c))) else s.chan c := by
  have hplan : ¬((s.passPlan r.pitch r.roll).all fun e => e.target.isNone) = true := fun k => by
    obtain ⟨c, hcorner, hdriven⟩ := hd
    exact Bool.false_ne_true (((passPlan_dropped s _ _).mp k c hcorner).symm.trans hdriven)
  obtain ⟨k, hk⟩ : ∃ k : Fin 16 → Option Target, k = fun c => (s.planOf r.pitch r.roll c).target.map Target.at := ⟨_, rfl⟩
  obtain ⟨q', hq'⟩ : ∃ q', q' = { s.sequelPlanned r a q with
    state := .lifting, passes := q.passes + 1, phaseStart := some s.frame } := ⟨_, rfl⟩
  have hact : act .lvsSample (s.taken r) =
      { st := (cornerChans.foldl (State.leveled k) (s.withLevel a q')).levelStatus, acts := [.lvsProgress] } := by
    have hlift := enterLifting_eq (s.withLevel a (s.sequelPlanned r a q)) (s.planOf r.pitch r.roll)
    rw [← passPlan_eq] at hlift
    rw [hq', hk]
    exact ((h.act_planned hc hok hl hu).trans (if_neg hplan)).trans hlift
  obtain ⟨v, hv, hget⟩ : ∃ v : Vector Channel 16, cornerChans.foldl (State.leveled k) (s.withLevel a q') = (s.withLevel a q').withChans v ∧
      ∀ c, v.get c = if c ∈ cornerChans then (s.chan c).leveled s.frame (k c) else s.chan c :=
    foldl_leveled k cornerChans (s.withLevel a q') (by decide)
  have htarget (c : Fin 16) : k c = if s.driven r.pitch r.roll c = true then some (.at (s.targetOf r.pitch r.roll c)) else none := by
    rw [hk]
    simp only [planOf_target]
    split <;> rfl
  obtain ⟨p, hp⟩ : ∃ p, p = ((s.withLevel a q').withChans v).levelStatus.pli := ⟨_, rfl⟩
  have hst : ((s.withLevel a q').withChans v).levelStatus = { (s.withLevel a q').withChans v with pli := p } := by rw [hp]; rfl
  have hrecord : State.anyRecord { (s.withLevel a q').withChans v with pli := p } cornerChans = true := by
    obtain ⟨c, hcorner, hdriven⟩ := hd
    refine (anyRecord_iff _ _).mpr ⟨c, hcorner, ?_⟩
    show (v.get c).motion ≠ none
    rw [hget, if_pos hcorner, htarget, if_pos hdriven, leveled_begins (hj c hcorner)]
    nofun
  have hprogress := progress_lifting (s := { (s.withLevel a q').withChans v with pli := p }) (hq' ▸ h.unrecorded) (hq' ▸ rfl)
  rw [hrecord] at hprogress
  have hchan : (fun c => if c ∈ cornerChans then (s.chan c).leveled s.frame (k c) else s.chan c) = fun c =>
      if c ∈ cornerChans ∧ s.driven r.pitch r.roll c = true
        then (s.chan c).leveled s.frame (some (.at (s.targetOf r.pitch r.roll c))) else s.chan c := funext fun c => by
    rw [htarget]
    by_cases k : c ∈ cornerChans <;> cases s.driven r.pitch r.roll c <;> simp [k, Channel.leveled]
  rw [← hq', ← hchan]
  exact h.drives (hact.trans (congrArg (Out.mk · [.lvsProgress]) ((congrArg State.levelStatus hv).trans hst))) hprogress
    (fun c => corner_jack) hget
end
end

end Sys2Proof.Machine
end

section
namespace Sys2Proof

open Machine

/-- Settles O20: without a level sequence the record, and the capture with it, is all that moves; in SETTLING the sequence counts the
sample, and its check comes to one of the outcomes of `LevelSample`. -/
theorem validSampleUpdatesAttitude : Obligations.ValidSampleUpdatesAttitude := by
  intro s hb hi x y hx hx' hy hy' axis limited pitch roll newest steady
  refine ⟨settled (newest s.atu.record.histP pitch) (newest s.atu.record.histR roll) s.par.settleBand, settled_cases _ _ _,
    settled_iff _ _ _, ?_⟩
  intro record atu
  have hvalid : sampleValid (blockAverage s.atu.accX) (blockAverage s.atu.accY) = true := decide_eq_true ⟨hx, hx', hy, hy'⟩
  have hrecord : s.atu.record.validSample s.par (blockAverage s.atu.accX) (blockAverage s.atu.accY) = record :=
    validSample_eq s.atu.record s.par x y
  have hsample (hc : s.atu.capture = none) : s.attitudeSample = { st := s.taken record, acts := [.lvsSample] } := by
    rw [attitudeSample_valid hb hvalid hc, if_neg hi, hrecord]
    rfl
  refine ⟨fun hq hl hc => ?plain, fun c hq hl hc => ?capture, fun f hL hc => ?level⟩
  case plain => exact exec_sample_quiet (quiet_atu hq atu) hl hq.running (hsample hc)
  case capture =>
    intro range rx ry d ends fits
    have hwiden (r : Option (Nat × Nat)) (v : Nat) : widen r v = some (range r v) := by
      cases r <;> rfl
    have hd : c.more x y = d := by
      unfold Capture.more
      rw [hwiden, hwiden]
    have hfits : (c.more x y).fits ↔ fits := by
      unfold Capture.fits
      rw [hd]
      exact Iff.rfl
    have hvalidState : record.state ≠ .invalid := fun e => by
      rcases settled_cases (newest s.atu.record.histP pitch) (newest s.atu.record.histR roll) s.par.settleBand with k | k <;>
        exact AttState.noConfusion (k.symm.trans e)
    have hraw : record.rawX ≠ 0 := Nat.ne_of_gt (Nat.lt_of_lt_of_le (by decide) hx)
    have hquiet : Quiet (s.taken record) := quiet_atu hq _
    have htakes {t : State} := exec_captured (t := t) hb hq hvalid hc hi rfl rfl hrecord
    refine ⟨fun hs => ?_, fun hs hn => ?_, fun hs hn hf => ?_, fun hs hn hf => ?_⟩
    · exact htakes (captureSample_skips hs) (quiet_atu hquiet _) hl
    · rw [← hd] at hn ⊢
      exact htakes (captureSample_counts hs hn) (quiet_atu hquiet _) hl
    · have hdone := captureSample_unfit (s := s.taken record) hs hn (hfits.not.mpr hf)
      rw [hd] at hdone
      exact htakes hdone (quiet_captureDone hquiet _ _) hl
    · intro nx ny p r
      have hdone := captureSample_fits (s := s.taken record) hs hn (hfits.mpr hf)
      rw [hd, attApplied_sampled (s := (s.taken record).rebased d) hvalidState (.inl hraw)] at hdone
      have hoffsets : Quiet ((s.taken record).rebased d) := quiet_settings hquiet _ _
      exact htakes hdone (quiet_captureDone (quiet_atu hoffsets _) _ _) hl
  case level =>
    intro q p r support level rest ends short driving mean px py spreadX spreadY c10
    have h : LevelSample s f record atu q := ⟨hL, hsample hc, rfl, rfl⟩
    refine ⟨fun hns => h.exec_counted hns, fun before p₀ r₀ hset h7 hpass => ?_⟩
    intro lifted predicted pitchBy rollBy off disagrees misses
    have hends {o : LvOutcome} {cause : Cause} {q' : LvSeq} {flt : Flt} (hp : q'.passes = q.passes)
        (ht : SampleEnds s record atu q' o cause flt) : ends o cause q'.clamped flt := by
      obtain ⟨t, hexec, hover, hrest⟩ := ht
      have hresult := hover.result
      unfold State.resultOf at hresult
      rw [hp] at hresult
      exact ⟨t, hexec, hover.seq, hresult, hover.jacks, hover.grants, hover.flt, hrest.atu, hrest.sst, hrest.wgd, hrest.nodes,
        hrest.stow, hrest.units, hrest.chans⟩
    have hdis : disagrees ↔ 1 ≤ q.passes ∧ s.response record atu q = true := by
      refine and_congr_right fun hp => ?_
      obtain ⟨hplan, hlen, hprev, -⟩ := hpass hp
      exact (response_iff (s := s) (r := record) (a := atu) hplan hlen hprev).symm
    have hapart : ∀ c ∈ cornerChans, c ∉ supportChans := by decide
    have hmisses : (s.sequel record atu q).misses = misses := sequel_misses hdis
    refine ⟨fun hd hm => hends rfl (h.failed ⟨hset, h7⟩ (hdis.mp hd) hm), fun hok => ?_⟩
    have hok' : ¬((1 ≤ q.passes ∧ s.response record atu q = true) ∧ 1 ≤ q.misses) := fun k => hok ⟨hdis.mpr k.1, k.2⟩
    refine ⟨fun hl hno => hends (q' := s.sequel record atu q) rfl (h.reached ⟨hset, h7⟩ hok' hl hno), fun hl hsup hj => ?support,
      fun hl hu hno => hends (q' := s.sequel record atu q) rfl (h.used ⟨hset, h7⟩ hok' hl hu hno), fun hl hu hj => ?pass⟩
    case support =>
      obtain ⟨t, hexec, hlvs, hchan, hjacks, hgrants, hflt, hrest⟩ := h.supported ⟨hset, h7⟩ hok' hl hsup fun c k =>
        have ⟨hidle, _, hbelow⟩ := hj c k
        ⟨hidle, hbelow⟩
      refine ⟨t, hexec, ?_, fun c k => ?_, fun c k => ?_, hjacks, hgrants, hflt, hrest.atu, hrest.sst, hrest.wgd, hrest.nodes,
        hrest.stow, hrest.units, hrest.chans⟩
      · rw [← hmisses]
        exact hlvs
      · exact (hchan c).trans (if_neg (hapart c k))
      · refine (hchan c).trans ((if_pos k).trans ?_)
        rw [leveled_begins (hj c k).1]
        rfl
    case pass =>
      intro height top counts target driven clamped
      have hdriven (c : Fin 16) : s.driven p r c = true ↔ driven c := decide_eq_true_iff
      have hclamped : (s.sequelPlanned record atu q).clamped = clamped :=
        congrArg (q.clamped || ·) (passPlan_clamped s p r)
      rw [← hclamped]
      refine ⟨fun hnone hno => hends (q' := s.sequelPlanned record atu q) rfl (h.dropped ⟨hset, h7⟩ hok' hl hu hno
        fun c k => decide_eq_false (hnone c k)), fun hsome => ?_⟩
      obtain ⟨c, hcorner, hc⟩ := hsome
      obtain ⟨t, hexec, hlvs, hchan, hjacks, hgrants, hflt, hrest⟩ := h.lifted ⟨hset, h7⟩ hok' hl hu (fun c k => (hj c k).1)
        ⟨c, hcorner, (hdriven c).mpr hc⟩
      refine ⟨t, hexec, by rw [hlvs], by rw [hlvs], by rw [hlvs], by rw [hlvs]; rfl, by rw [hlvs], by rw [hlvs]; exact hmisses,
        fun c k => (hchan c).trans ?_, fun c k => (hchan c).trans (if_neg fun e => hapart c e.1 k), hjacks, hgrants, hflt, hrest.atu,
        hrest.sst, hrest.wgd, hrest.nodes, hrest.stow, hrest.units, hrest.chans⟩
      by_cases hk : driven c
      · refine (if_pos ⟨k, (hdriven c).mpr hk⟩).trans (Eq.trans ?_ (if_pos hk).symm)
        rw [leveled_begins (hj c k).1]
        rfl
      · exact (if_neg fun e => hk ((hdriven c).mp e.2)).trans (if_neg hk).symm

end Sys2Proof
end
